-- ==== Sys2Proof/Word.lean ====
section
/-! DEFINITION. The word types of the K1: bytes, 32-bit containers, 64-bit values and the 96-bit node-store word (R17, R57). -/

namespace Sys2Proof

/-- One byte of any memory. -/
abbrev Byte := BitVec 8

/-- A 32-bit container (R57). -/
abbrev Word := BitVec 32

/-- A 64-bit value: a token payload, a tag, a lane pair (R38). -/
abbrev DWord := BitVec 64

/-- A node-store word: hi, mid and lo parts of 32 bits each (R17). -/
abbrev NWord := BitVec 96

end Sys2Proof
end

