-- ==== Sys2Proof/Config.lean ====
section
/-! DEFINITION. What the spec leaves open: free values. None of these has a body that a proof could see; each is applied to the
values it depends on, or to the counter `State.free`. The assumption log names each one. -/

namespace Sys2Proof.Config

/-- A 32-bit value the spec leaves open (which earlier lane a temporary holds at entry, R52; products of a rewritten weight buffer, R171). -/
opaque freeWord : Nat → Word

/-- A bit the spec leaves open. -/
opaque freeBit : Nat → Bool

/-- A byte the spec leaves open (overlapping COPY bytes, R240 and R265). -/
opaque freeByte : Nat → Byte

/-- A candidate (sign, m, e) for the value ±m × 2^e of a special function of R103; it depends on the function and on the operand alone,
and is taken where it lies within the bound that R103 states. -/
opaque specialVal : (fn : Nat) → (neg : Bool) → (num den : Nat) → (e : Int) → Bool × Nat × Int

/-- SHA-256 or HSS output over data, as a number (R298 to R300, R311): the model computes no hash. -/
opaque digest : List Nat → Nat

/-- The signature of the module over data (R299, R300). -/
opaque signature : (leaf : Nat) → List Nat → Nat

/-- What sensors add to a counter in a step (R298). -/
opaque sensor : Nat → Nat

/-- Cycles in which a word of an element waited on an interlock since its PERF 7 was read last (R326): the spec gives no interlock times. -/
opaque stalls : Nat → Nat

/-- The SEC-DED syndrome of an error by its flip mask (R132): the spec gives no code. -/
opaque syndrome : (mask : Nat) → Nat

/-- The weight of a function in the start decisions (R277), counted from 1: the policy core sets it, 1 to 255. -/
opaque startWeight : (fn : Nat) → Nat

/-- The bytes of the harvest dump (R310) by its content and the leaf that signs it: the spec lays out no dump. -/
opaque dumpBytes {α : Type} : (content : α) → (leaf : Nat) → List Byte

/-- The cycles that a stretched clock loses (R297, R314): the spec bounds the stretch by one half. -/
opaque stretch : Nat → Nat

/-- The bytes of a fabric message beside its header (R339): the spec lays out no entry of one. By the numbers in the message, a DATA flit of it and a byte there. -/
opaque messageByte : List Nat → (part at_ : Nat) → Byte

/-- The flits that the buffer of a virtual channel holds beside one (R197, R200): the spec gives no depth. -/
opaque vcDepth : Nat

/-- The bytes of an eviction image (R295): the spec lays out no image. -/
opaque imageBytes : Nat → List Byte

/-- The code and content of ring records whose layout the spec does not give: droop events (R314), full service (R312) and storage
errors that only the error log tells (R132). -/
opaque openRecord : Nat → Nat

end Sys2Proof.Config
end

