-- ==== Sys2Proof/Syntax.lean ====
section
/-! DEFINITION. The syntax of the K1's steps: the operand fields of the seven word formats (R19 to R27), the codes that fill
them (R28, R30), and one constructor per row of spec/opcode_table.json. A row that an element fetches and runs carries the
fields of its word; a row that is a step of another agent carries what names the occurrence (the number of a message in
flight, an element, a queue). -/

namespace Sys2Proof

/-- The sixteen type codes of R30, in the order of their codes. -/
inductive Ty
  | i64 | i32 | i16 | i8 | n64 | n32 | n16 | n8 | f32 | bf16 | f16 | e4m3 | e5m2 | w4 | w3 | sc20
  deriving DecidableEq, Repr

/-- An operand selector (R28). -/
inductive Sel
  | t (k : Fin 8)
  | inp (k : Fin 4)
  | lit | z | tag | fp
  deriving DecidableEq, Repr

/-- A destination in DST layout (R21). -/
structure Dst where
  node : BitVec 12
  port : BitVec 2
  mode : BitVec 2
  deriving DecidableEq, Repr

/-- Format N: a node head (R19). -/
structure OpN where
  nin  : BitVec 2
  slot : BitVec 8
  dsta : Dst
  dstb : Dst
  req  : BitVec 2
  kf   : BitVec 6
  ch   : BitVec 3
  lit  : Word
  deriving DecidableEq, Repr

/-- Format A: groups 1 and 2 (R22). -/
structure OpA where
  ty : Ty
  d  : Sel
  a  : Sel
  b  : Sel
  c  : Sel
  pr : BitVec 2
  pn : Bool
  fn : BitVec 5
  ts : Ty
  ka : BitVec 8
  kb : BitVec 8
  lit : Word
  deriving DecidableEq, Repr

/-- Format Y: group 3 (R23). -/
structure OpY where
  nq : BitVec 6
  ms : BitVec 2
  af : Ty
  wf : Ty
  f  : Ty
  a  : Sel
  b  : Sel
  c  : Sel
  ka : BitVec 8
  kb : BitVec 8
  lit : Word
  deriving DecidableEq, Repr

/-- Format M: group 4 (R24). -/
structure OpM where
  ty : Ty
  d  : Sel
  a  : Sel
  b  : Sel
  c  : Sel
  pr : BitVec 2
  pn : Bool
  rm : BitVec 3
  scope : BitVec 3
  aq : Bool
  rl : Bool
  n9 : BitVec 9
  dst : Dst
  lit : Word
  deriving DecidableEq, Repr

/-- Format K: group 5 (R25). -/
structure OpK where
  cls : BitVec 4
  d  : Sel
  a  : Sel
  b  : Sel
  c  : Sel
  pr : BitVec 2
  pn : Bool
  col : BitVec 3
  ops : BitVec 14
  dst : Dst
  lit : Word
  deriving DecidableEq, Repr

/-- Format S: group 6 (R26). -/
structure OpS where
  fn : BitVec 4
  d  : Sel
  a  : Sel
  b  : Sel
  c  : Sel
  pr : BitVec 2
  pn : Bool
  ty : Ty
  scope : BitVec 3
  aq : Bool
  rl : Bool
  k8 : BitVec 8
  dst : Dst
  lit : Word
  deriving DecidableEq, Repr

/-- Format X: group 7 (R27). -/
structure OpX where
  fn : BitVec 4
  d  : Sel
  a  : Sel
  b  : Sel
  pr : BitVec 2
  pn : Bool
  csr : BitVec 12
  dst : Dst
  lit : Word
  deriving DecidableEq, Repr

/-- A dispatch entry as it travels to a destination module (R344, R346). -/
structure DispWire where
  hdr : BitVec 128
  ref : DWord
  payload : List Byte
  entry : Nat
  deriving DecidableEq, Repr

/-- The kind-specific content of a fabric message (R339). An outcome lists entry numbers with none for DELIVERED, code 0 for FULL, else the code of a
fault (R346). `coll` carries lanes of the 34-bit wire form of R350 as container and tail; its `phase` is 0 for a partial sum or a block on its way up,
1 for a final chunk or block, and a non-zero `code` reports a failure. `ack` and `fail` name the source engine and the message. -/
inductive RBody
  | dispatch (es : List DispWire)
  | outcome (rs : List (Nat × Option (BitVec 8)))
  | coll (gid : Word) (seqNo : Nat) (kind : Nat) (ty : Nat) (n : Nat) (phase : Nat) (chunk : Nat) (code : BitVec 8) (xs : List (Word × BitVec 2))
  | ack (eng : Nat) (mid : BitVec 16)
  | fail (eng : Nat) (mid : BitVec 16)
  deriving DecidableEq, Repr

/-- A fabric message with the header fields of R339. -/
structure RMsg where
  nfl : Nat
  mid : BitVec 16
  seng : Nat
  sslot : Nat
  dslot : Nat
  smod : Nat
  dmod : Nat
  body : RBody
  deriving DecidableEq, Repr

/-- What a Rosgen flit holds beside its SEQ and ACK (R335). A DATA flit is part `part` of a message, and a VOID stands in the place of one: the source engine, the module and
the part are what its receiver knows of the message beside the SEQ and the id of its payload (log 107). A reserved TYPE is 4 to 15. -/
inductive RKind
  | data (m : RMsg) (part : Nat)
  | nak (missing : BitVec 12)
  | void (s : BitVec 12) (mid : BitVec 16) (seng : Nat) (smod : Nat) (part : Nat)
  | idle
  | reserved (type : Nat)
  deriving DecidableEq, Repr

/-- A Rosgen flit as it reaches a port (R335); `noise` marks the bits that changed on the link. -/
structure RFlit where
  seq : BitVec 12
  ack : BitVec 12
  kind : RKind
  noise : Nat := 0
  deriving DecidableEq, Repr

/-- The vendor-signed section of a manifest (R311): repair maps, disabled clusters, limits and trust list, the last by the numbers of its keys; key 0 is the device's own. -/
structure Manifest where
  version : Nat := 0
  repair : List (Nat × Nat) := []
  disabled : List Nat := []
  limits : List Nat := []
  trust : List Nat := [0]
  deriving DecidableEq, Repr

/-- A signed image as PLDM delivers it (R311, R315): its signature verdict, its version, which of Tirzon's images it is, and the section that one of a manifest brings. -/
structure FwImage where
  signed : Bool
  version : Nat
  which : Nat
  manifest : Option Manifest := none
  deriving DecidableEq, Repr

/-- The steps of the K1, one constructor per row of spec/opcode_table.json. -/
inductive Instr
  -- group 0: node heads (R50, R80)
  | seq (o : OpN) | steer (o : OpN) | merge (o : OpN) | gate (o : OpN) | loop (o : OpN) | next (o : OpN) | exit (o : OpN)
  | call (o : OpN) | retn (o : OpN) | join (o : OpN) | sink (o : OpN) | const (o : OpN) | prune (o : OpN)
  -- group 1: scalar (R83)
  | add (o : OpA) | sub (o : OpA) | mul (o : OpA) | mulh (o : OpA) | div (o : OpA) | rem (o : OpA) | min (o : OpA)
  | max (o : OpA) | and (o : OpA) | or (o : OpA) | xor (o : OpA) | andn (o : OpA) | shl (o : OpA) | shr (o : OpA)
  | sar (o : OpA) | rot (o : OpA) | clz (o : OpA) | popc (o : OpA) | bext (o : OpA) | bins (o : OpA) | sel (o : OpA)
  | cmp (o : OpA) | plog (o : OpA) | mov (o : OpA) | lit (o : OpA) | lith (o : OpA) | lea (o : OpA) | tagr (o : OpA)
  | idr (o : OpA)
  -- group 2: vector (R101)
  | vadd (o : OpA) | vsub (o : OpA) | vmul (o : OpA) | vfma (o : OpA) | vdiv (o : OpA) | vsqrt (o : OpA) | vrcp (o : OpA)
  | vrsq (o : OpA) | vexp (o : OpA) | vlog (o : OpA) | vtanh (o : OpA) | vmin (o : OpA) | vmax (o : OpA) | vabs (o : OpA)
  | vneg (o : OpA) | vcmp (o : OpA) | vsel (o : OpA) | vcvt (o : OpA) | vrnd (o : OpA) | vtail (o : OpA) | vshuf (o : OpA)
  | vtrn (o : OpA) | vred (o : OpA) | vscan (o : OpA) | vbcst (o : OpA) | viota (o : OpA) | vpack (o : OpA) | vunpk (o : OpA)
  | colr (o : OpA) | vscl (o : OpA) | vmov (o : OpA) | vbit (o : OpA)
  -- group 3: the systolic array (R176)
  | mode (o : OpY) | mcfg (o : OpY) | mwld (o : OpY) | mbindW (o : OpY) | mbindOp (o : OpY) | mfreeW (o : OpY)
  | mfreeOp (o : OpY) | mfreeCfg (o : OpY) | mdrn (o : OpY) | mstat (o : OpY) | scsnd (o : OpY) | scpr (o : OpY)
  | zskp (o : OpY)
  -- group 4: memory and storage (R135, R187, R235)
  | ldl (o : OpM) | stl (o : OpM) | ldc (o : OpM) | stc (o : OpM) | ldg (o : OpM) | stg (o : OpM) | copy (o : OpM)
  | gath (o : OpM) | scat (o : OpM) | pref (o : OpM) | clean (o : OpM) | inval (o : OpM) | alloc (o : OpM) | free (o : OpM)
  | hold (o : OpM) | aqry (o : OpM) | tful (o : OpM)
  -- group 5: tokens, walkers, launch and fabric (R146, R188, R329, R345)
  | send (o : OpK) | emit (o : OpK) | sendc (o : OpK) | mcast (o : OpK) | mask (o : OpK) | unmsk (o : OpK) | walk (o : OpK)
  | split (o : OpK) | wstat (o : OpK) | kick (o : OpK) | lnch (o : OpK) | disp (o : OpK) | dflsh (o : OpK) | coll (o : OpK)
  | rstat (o : OpK)
  -- group 6: phasers, atomics, synchronisation (R190, R235)
  | phreg (o : OpS) | phdrp (o : OpS) | phsig (o : OpS) | phwt (o : OpS) | phsw (o : OpS) | amo (o : OpS) | cas (o : OpS)
  | famo (o : OpS) | fence (o : OpS) | bind (o : OpS) | unbnd (o : OpS) | acq (o : OpS) | rel (o : OpS) | osec (o : OpS)
  | oend (o : OpS) | otok (o : OpS) | futn (o : OpS) | fres (o : OpS) | freg (o : OpS)
  -- group 7: system (R318)
  | nop (o : OpX) | trap (o : OpX) | brk (o : OpX) | time (o : OpX) | rtime (o : OpX) | metr (o : OpX) | csrr (o : OpX)
  | csrw (o : OpX) | erri (o : OpX) | rseed (o : OpX) | perf (o : OpX) | sysc (o : OpX) | halt (o : OpX) | frzr (o : OpX)
  -- steps of elements, allocators, walkers, phasers, arrays and networks; `n` numbers a message in flight
  | tokenArrival (n : Nat) | tokenLeave (elem : Nat) | allocRequestAccept (n : Nat) | allocatorGrant (elem : Nat)
  | grantDelivery (n : Nat) | allocRefusalArrival (n : Nat) | windowRefill (elem : Nat) (list : Nat)
  | horizonSnapshot (slot : Nat) (region : Nat) | horizonBroadcast (slot : Nat) (region : Nat) | promotion (n : Nat)
  | allocStall (slot : Nat) (region : Nat) | freeMessage (n : Nat) | holdMessage (n : Nat) | tfulMessage (n : Nat)
  | aqryQuery (n : Nat) | thirdWakeDone (elem : Nat) (k : Nat) | patrolScrub (elem : Nat) (k : Nat)
  | walkerEmit (cluster : Nat) (unit : Nat) | walkerGrantDelivery (n : Nat) | idleFire (elem : Nat) (tslot : Nat)
  | splitApply (n : Nat) | splitResult (n : Nat) | phaserRegister (n : Nat) (also : Option Nat)
  | phaserSignal (n : Nat) (also : Option Nat) | phaserDrop (n : Nat) (also : Option Nat)
  | phaserWait (n : Nat) (also : Option Nat) | phaserSignalWait (n : Nat) (also : Option Nat)
  | waiterLinkWrite (n : Nat) | phaserRelease (n : Nat) | clusterAccess (n : Nat) | clusterReply (n : Nat)
  | mwldFlit (n : Nat) | arrayMessage (n : Nat) | arrayFiringStart (cluster : Nat) (g : Nat)
  | arrayFiringEnd (cluster : Nat) (g : Nat) | mdrnDrain (cluster : Nat) (g : Nat) | flitReceive (n : Nat)
  | egressArbitration (out : Nat)
  -- steps of the memory system; `k` numbers an access of the element's memory queue
  | homeAccess (elem : Nat) (k : Nat) | tlbMiss (elem : Nat) (k : Nat) | pageWalk (pool : Nat) (k : Nat)
  | globalReply (n : Nat) | accessAck (n : Nat) | engineCommand (cluster : Nat) (k : Nat)
  | engineCompletion (cluster : Nat) (k : Nat) | futnApply (elem : Nat) (k : Nat) | fresApply (elem : Nat) (k : Nat)
  | fregApply (elem : Nat) (k : Nat) | bindApply (n : Nat) | unbndApply (n : Nat) | sectionCommit (elem : Nat) (k : Nat)
  -- steps of the host link and the control complex; `fn` is a VF number, 128 for the PF; `pid` numbers a started packet
  | kickWrite (n : Option Nat) (fn : Nat) (q : Nat) (w : Word) | queueEnable (fn : Nat) (q : Nat) (v : Word)
  | queueDisable (fn : Nat) (q : Nat) (v : Word) | queueResume (fn : Nat) (q : Nat) (v : Word)
  | registerWrite (fn : Nat) (page : Nat) (off : Nat) (size : Nat) (v : DWord) | icbMessage (fn : Nat) (v : Nat)
  | ringSlotRead (fn : Nat) (q : Nat) | startDecision (core : Nat) | launch (pid : Nat) | copyPacket (pid : Nat)
  | barrierAnd (pid : Nat) | barrierOr (pid : Nat) | barrierPoll (pid : Nat) | signalPacket (pid : Nat) | graph (pid : Nat)
  | cond (pid : Nat) | nopPacket (pid : Nat) | writePacket (pid : Nat) | packetComplete (pid : Nat) | lnchApply (n : Nat)
  | terminationWave (slot : Nat) (region : Nat) | parkSwitch (slot : Nat) (region : Nat) | parkHang (slot : Nat) (region : Nat)
  | packetCoreRestart (core : Nat) | policyWatchdogExpiry
  -- admin commands of the policy core (R284, R341): each runs the command latched by ADM_GO
  | create | destroy | mapPages | unmapPages | service | frost (slot : Option Nat) | thaw | evict | restore | gateThird
  | wakeThird | gateWays | wakeWays | pstate | dieGate | dieWake | setLimits | inject | meterRing | harvestRead
  | exportWindow | fabric
  -- events of the device and the fabric
  | meterPeriodicRecord (slot : Nat) | hang (slot : Nat) (region : Nat) | droop (die : Nat) | powerOn | dieBistPass (die : Nat)
  | atsInvalidation (fn : Nat) (va : Nat) (len : Nat) | rosgenFlitReceive (port : Nat) (f : RFlit)
  | nakReceive (port : Nat) (sn : BitVec 12) | replayTimeout (port : Nat) | rosgenMessageApply (n : Nat) | failReceive (n : Nat)
  | endToEndAck (n : Nat) | inboundAccess (n : Nat) | dispAppend (n : Nat) | dispatchPlace (n : Nat) (k : Nat)
  | dispatchOutcome (n : Nat) | collMessage (n : Nat) | waysWakeDone (kind : Nat) (unit : Nat) (group : Nat) | deviceReset
  | powerLoss | rosgenPortUp (port : Nat) (peer : Nat) | rosgenPortDown (port : Nat) | rosgenPortSend (port : Nat)
  | droopEnd (die : Nat) | tirzonMemoryUe | msixUnmask (fn : Nat) (v : Nat) | firmwareUpdate (img : FwImage)
  deriving DecidableEq, Repr

end Sys2Proof
end

