-- ==== Sys2Proof/Machine/WordCheck.lean ====
section
/-! DEFINITION. Checks of words: the checks that the loader makes on one word by itself (R18 to R35), in the order of the
reason codes of R35. What needs the window around the word (BODY_HEAD, STRAY_WORD, BAD_NODE_REF against other words,
BAD_LENGTH at the window's end, input counts) is in Machine/Loader.lean. -/

namespace Sys2Proof

/-- The reasons a word fails validation, in the order in which they are checked (R35). -/
inductive Reason
  | rsvOpcode | rsvBits | badSelector | badType | badField | bodyHead | strayWord | badNodeRef | badLiteral | badLength
  deriving DecidableEq, Repr

/-- The reason code that the ILLEGAL_WORD record carries (R35). -/
def Reason.code : Reason → Nat
  | .rsvOpcode => 1 | .rsvBits => 2 | .badSelector => 3 | .badType => 4 | .badField => 5
  | .bodyHead => 6 | .strayWord => 7 | .badNodeRef => 8 | .badLiteral => 9 | .badLength => 10

namespace Ty

/-- The code of R30. -/
def code : Ty → Nat
  | .i64 => 0 | .i32 => 1 | .i16 => 2 | .i8 => 3 | .n64 => 4 | .n32 => 5 | .n16 => 6 | .n8 => 7
  | .f32 => 8 | .bf16 => 9 | .f16 => 10 | .e4m3 => 11 | .e5m2 => 12 | .w4 => 13 | .w3 => 14 | .sc20 => 15

/-- Class `int` of R84. -/
def isInt (t : Ty) : Bool := t.code < 8

/-- Class `flt` of R84, `vflt` of R101. -/
def isFlt (t : Ty) : Bool := 8 ≤ t.code && t.code < 13

/-- Class `num` of R84. -/
def isNum (t : Ty) : Bool := t.code < 13

/-- The 64-bit types, held in the lane pair 1:0 (R57). -/
def is64 (t : Ty) : Bool := t == .i64 || t == .n64

/-- Class `vint` of R101. -/
def isVint (t : Ty) : Bool := t.isInt && !t.is64

/-- Class `vnum` of R101. -/
def isVnum (t : Ty) : Bool := t.isNum && !t.is64

/-- `vnum`, w4 or w3 (R106 to R108). -/
def isVnumW (t : Ty) : Bool := t.isVnum || t == .w4 || t == .w3

/-- Signed integer types, the weights included (R60). -/
def isSigned : Ty → Bool
  | .i64 | .i32 | .i16 | .i8 | .w4 | .w3 => true
  | _ => false

/-- The gs types of R235. -/
def isGs (t : Ty) : Bool := (t.isVint || t.isFlt || t == .sc20)

/-- The types of COPY with conversion (R240). -/
def isCopy (t : Ty) : Bool := t.isVint || t.isFlt

/-- Bits of the stored form of a value (R59, R60). -/
def bits : Ty → Nat
  | .i64 | .n64 => 64
  | .i32 | .n32 | .f32 | .sc20 => 32
  | .i16 | .n16 | .bf16 | .f16 => 16
  | .i8 | .n8 | .e4m3 | .e5m2 => 8
  | .w4 => 4
  | .w3 => 3

end Ty

/-- The code of R28. -/
def Sel.code : Sel → Nat
  | .t k => k.val
  | .inp k => 8 + k.val
  | .lit => 12 | .z => 13 | .tag => 14 | .fp => 15

/-- A legal destination: t0 to t7 and z (R28). -/
def Sel.isDst : Sel → Bool
  | .t _ => true
  | .z => true
  | _ => false

/-- A predicate number 0 to 3 in a selector field (R28, R95). -/
def Sel.isPred (s : Sel) : Bool := s.code < 4

/-- A destination field of zeros: mode 00, node 0, port 0 (R21). -/
def Dst.none : Dst := ⟨0, 0, 0⟩

/-- A DST field of its 16 bits (R21). -/
def Dst.ofBits (b : BitVec 16) : Dst := ⟨b.extractLsb' 4 12, b.extractLsb' 2 2, b.extractLsb' 0 2⟩

/-- The 16 bits of a DST field (R21). -/
def Dst.toBits (d : Dst) : BitVec 16 := (d.node ++ d.port) ++ d.mode

/-- Mode 11, or port 3: rejected in every DST field the loader validates (R21, R35). -/
def Dst.badField (d : Dst) : Bool := d.mode == 3 || d.port == 3

/-- Mode 00 with a node or a port (R35, BAD_NODE_REF). -/
def Dst.badNone (d : Dst) : Bool := d.mode == 0 && (d.node != 0 || d.port != 0)

/-- The precision, least normal exponent, significand of the largest finite value and its exponent of a float type (R59). -/
structure FltFmt where
  p : Nat
  emin : Int
  maxM : Nat
  maxE : Int
  hasInf : Bool
  deriving DecidableEq, Repr

/-- The float formats of R59; the entry of a type that is no float is f32's and is never used. -/
def Ty.fmt : Ty → FltFmt
  | .bf16 => ⟨8, -126, 255, 120, true⟩
  | .f16  => ⟨11, -14, 2047, 5, true⟩
  | .e4m3 => ⟨4, -6, 14, 5, false⟩
  | .e5m2 => ⟨3, -14, 7, 13, true⟩
  | _     => ⟨24, -126, 16777215, 104, true⟩

/-- Magnitude `m * 2^e` is at most the largest finite value of the format. -/
def FltFmt.within (f : FltFmt) (m : Nat) (e : Int) : Bool :=
  let k := min e f.maxE
  m * 2 ^ (e - k).toNat ≤ f.maxM * 2 ^ (f.maxE - k).toNat

/-- Magnitude `m * 2^e` is exactly representable in the format: it is a multiple of the last place at its size and within range (R34). -/
def FltFmt.exact (f : FltFmt) (m : Nat) (e : Int) : Bool :=
  if m = 0 then true
  else
    let lead : Int := (Nat.log2 m : Int) + e
    let q : Int := max lead f.emin - (f.p : Int) + 1
    (if e ≥ q then true else m % 2 ^ (q - e).toNat == 0) && f.within m e

/-- The literal check of R34 for one type. -/
def litOk (t : Ty) (l : Word) : Bool :=
  match t with
  | .i64 | .i32 | .n64 | .n32 => true
  | .i16 => -32768 ≤ l.toInt && l.toInt ≤ 32767
  | .i8 => -128 ≤ l.toInt && l.toInt ≤ 127
  | .n16 => l.toNat ≤ 65535
  | .n8 => l.toNat ≤ 255
  | .w4 => -8 ≤ l.toInt && l.toInt ≤ 7
  | .w3 => -4 ≤ l.toInt && l.toInt ≤ 3
  | .sc20 => l.toNat < 2 ^ 20
  | .f32 | .bf16 | .f16 | .e4m3 | .e5m2 =>
    let ex : Nat := l.toNat / 2 ^ 23 % 256
    let fr : Nat := l.toNat % 2 ^ 23
    if ex = 255 then
      if fr = 0 then t.fmt.hasInf
      else if t == .f32 then 2 ^ 22 ≤ fr
      else fr == 2 ^ 22
    else if ex = 0 then t.fmt.exact fr (-149)
    else t.fmt.exact (fr + 2 ^ 23) ((ex : Int) - 150)

/-- What an instruction of format A uses of its word. Selector uses: 0 none, 1 register, 2 predicate number, 3 the literal only. -/
structure ADesc where
  tyUsed : Bool := true
  tys : Ty → Bool := Ty.isNum
  d : Nat := 1
  a : Nat := 1
  b : Nat := 0
  c : Nat := 0
  tss : Option (Ty → Bool) := Option.none
  fnMax : Option Nat := Option.none
  kaMax : Option Nat := Option.none
  kbMax : Option Nat := Option.none
  litOff : Bool := false
  litTs : Bool := false
  xRsv : OpA → Bool := fun _ => false
  xTy : OpA → Bool := fun _ => false
  xField : OpA → Bool := fun _ => false

/-- What a word is checked against, by format. -/
inductive Shape
  | n (kind : Nat) (o : OpN)
  | a (d : ADesc) (o : OpA)
  | y (kind : Nat) (o : OpY)
  | m (kind : Nat) (o : OpM)
  | k (kind : Nat) (o : OpK)
  | s (kind : Nat) (o : OpS)
  | x (kind : Nat) (o : OpX)
  | none

/-- The legal combinations of AF, WF and OF (R23). -/
def OpY.combo (o : OpY) : Bool :=
  ((o.af == .e4m3 || o.af == .e5m2) && (o.wf == .e4m3 || o.wf == .w4 || o.wf == .w3)
    || o.af == .bf16 && (o.wf == .bf16 || o.wf == .w4 || o.wf == .w3))
  && (o.f == .f32 || o.f == .bf16 || o.f == .f16 || o.f == .e4m3 || o.f == .e5m2)

/-- The operands of PLOG are predicate numbers; `not`, `any` and `all` (FN 4 to 6) leave B unused, so it must be zero (R18, R95, log 27). -/
def plogDesc : ADesc :=
  { tyUsed := false, d := 2, a := 2, b := 2, fnMax := some 6, xRsv := fun o => 4 ≤ o.fn.toNat && o.fn.toNat ≤ 6 && o.b != .t 0 }

/-- Two sources and a result (R85 to R90, R102). -/
def dab (tys : Ty → Bool) : ADesc := { tys := tys, b := 1 }

/-- One source and a result. -/
def da (tys : Ty → Bool) : ADesc := { tys := tys }

def lea4 (t : Ty) : Bool := t == .n32 || t == .n64 || t == .i32 || t == .i64

def vall (t : Ty) : Bool := !t.is64

/-- VRED and VSCAN: FN 6 and 7 of the low three bits, FN[4], and FN[3] in VRED are BAD_FIELD; and, or, xor admit vint only (R112). -/
def redDesc (scan : Bool) : ADesc :=
  { tys := Ty.isVnum, fnMax := some 31
    xTy := fun o => 3 ≤ o.fn.toNat % 8 && o.fn.toNat % 8 ≤ 5 && !o.ty.isVint
    xField := fun o => 6 ≤ o.fn.toNat % 8 || 16 ≤ o.fn.toNat || (!scan && 8 ≤ o.fn.toNat) }

/-- What each instruction uses of its word, from its reference entry. A field that the form in hand does not use must be zero (R18): B of VTAIL `get` and `clr`, of
VSHUF `rot`, `xor` and `rev` and of VBIT `not`, `popc` and `clz`, and KA of VSHUF `index` and `rev` (log 27). FN[4:3] of VRND is judged with FN as a value out of
range, BAD_FIELD (log 28). The literal of VSCL is of TY, sc20: R115 names no TS for A (R34, log 33). -/
def Instr.shape : Instr → Shape
  | .seq o => .n 0 o | .steer o => .n 1 o | .merge o => .n 2 o | .gate o => .n 3 o | .loop o => .n 4 o | .next o => .n 5 o
  | .exit o => .n 6 o | .call o => .n 7 o | .retn o => .n 8 o | .join o => .n 9 o | .sink o => .n 10 o | .const o => .n 11 o
  | .prune o => .n 12 o
  | .add o => .a (dab Ty.isNum) o | .sub o => .a (dab Ty.isNum) o | .mul o => .a (dab Ty.isNum) o
  | .mulh o => .a (dab lea4) o
  | .div o => .a (dab Ty.isInt) o | .rem o => .a (dab Ty.isInt) o
  | .min o => .a (dab Ty.isNum) o | .max o => .a (dab Ty.isNum) o
  | .and o => .a (dab Ty.isInt) o | .or o => .a (dab Ty.isInt) o | .xor o => .a (dab Ty.isInt) o | .andn o => .a (dab Ty.isInt) o
  | .shl o => .a (dab Ty.isInt) o | .shr o => .a (dab Ty.isInt) o | .sar o => .a (dab Ty.isInt) o | .rot o => .a (dab Ty.isInt) o
  | .clz o => .a (da Ty.isInt) o | .popc o => .a (da Ty.isInt) o
  | .bext o => .a { tys := Ty.isInt, kaMax := some 255, kbMax := some 64 } o
  | .bins o => .a { tys := Ty.isInt, b := 1, kaMax := some 255, kbMax := some 64 } o
  | .sel o => .a { tys := fun _ => true, b := 1, kaMax := some 3 } o
  | .cmp o => .a { tys := Ty.isNum, d := 2, b := 1, fnMax := some 5 } o
  | .plog o => .a plogDesc o
  | .mov o => .a (da fun _ => true) o
  | .lit o => .a { tys := fun _ => true, a := 3 } o
  | .lith o => .a { tys := Ty.is64, b := 3 } o
  | .lea o => .a { tys := lea4, b := 1, kaMax := some 7, fnMax := some 1, litOff := true,
                   xTy := fun o => o.fn == 1 && o.ty != .n32 } o
  | .tagr o => .a { tys := lea4, a := 0, kaMax := some 15, fnMax := some 2,
                    xRsv := fun o => (o.fn == 1 || o.fn == 2) && o.ka != 0 } o
  | .idr o => .a { tys := (· == .n32), a := 0, fnMax := some 7 } o
  | .vadd o => .a (dab Ty.isVnum) o | .vsub o => .a (dab Ty.isVnum) o | .vmul o => .a (dab Ty.isVnum) o
  | .vfma o => .a { tys := Ty.isVnum, b := 1, c := 1 } o
  | .vdiv o => .a (dab Ty.isVnum) o
  | .vsqrt o => .a { tys := Ty.isFlt, fnMax := some 0 } o | .vrcp o => .a { tys := Ty.isFlt, fnMax := some 0 } o
  | .vrsq o => .a { tys := Ty.isFlt, fnMax := some 0 } o
  | .vexp o => .a { tys := Ty.isFlt, fnMax := some 1 } o | .vlog o => .a { tys := Ty.isFlt, fnMax := some 1 } o
  | .vtanh o => .a { tys := Ty.isFlt, fnMax := some 0 } o
  | .vmin o => .a (dab Ty.isVnum) o | .vmax o => .a (dab Ty.isVnum) o
  | .vabs o => .a (da Ty.isVnum) o | .vneg o => .a (da Ty.isVnum) o
  | .vcmp o => .a { tys := Ty.isVnum, d := 2, b := 1, fnMax := some 5 } o
  | .vsel o => .a { tys := vall, b := 1, kaMax := some 3 } o
  | .vcvt o => .a { tys := Ty.isVnumW, tss := some fun t => t.isVnumW || t == .sc20, litTs := true,
                    xTy := fun o => o.ts == .sc20 && o.ty != .f32 } o
  | .vrnd o => .a { tys := Ty.isVnumW, tss := some Ty.isVnumW, litTs := true, fnMax := some 6 } o
  | .vtail o => .a { tys := Ty.isVnumW, b := 1, fnMax := some 2, xRsv := fun o => (o.fn == 0 || o.fn == 2) && o.b != .t 0 } o
  | .vshuf o => .a { tys := vall, b := 1, kaMax := some 31, fnMax := some 3,
                     xRsv := fun o => (1 ≤ o.fn.toNat && o.fn.toNat ≤ 3 && o.b != .t 0) || ((o.fn == 0 || o.fn == 3) && o.ka != 0) } o
  | .vtrn o => .a { tys := (· == .n32), d := 0, a := 0 } o
  | .vred o => .a (redDesc false) o | .vscan o => .a (redDesc true) o
  | .vbcst o => .a { tys := vall, kaMax := some 31 } o
  | .viota o => .a { tys := Ty.isVint, kaMax := some 255 } o
  | .vpack o => .a { tys := vall, b := 1, fnMax := some 0 } o
  | .vunpk o => .a { tys := vall, fnMax := some 1 } o
  | .colr o => .a (da (· == .n32)) o
  | .vscl o => .a { tys := (· == .sc20),
                    tss := some fun t => t == .e4m3 || t == .e5m2 || t == .w4 || t == .w3 } o
  | .vmov o => .a (da vall) o
  | .vbit o => .a { tys := Ty.isVint, b := 1, fnMax := some 10, xRsv := fun o => (o.fn == 4 || o.fn == 9 || o.fn == 10) && o.b != .t 0 } o
  | .mode o => .y 0 o | .mcfg o => .y 1 o | .mwld o => .y 2 o | .mbindW o => .y 3 o | .mbindOp o => .y 4 o
  | .mfreeW o => .y 5 o | .mfreeOp o => .y 6 o | .mfreeCfg o => .y 7 o | .mdrn o => .y 8 o | .mstat o => .y 9 o
  | .scsnd o => .y 10 o | .scpr o => .y 11 o | .zskp o => .y 12 o
  | .ldl o => .m 0 o | .stl o => .m 1 o | .ldc o => .m 2 o | .stc o => .m 3 o | .ldg o => .m 4 o | .stg o => .m 5 o
  | .copy o => .m 6 o | .gath o => .m 7 o | .scat o => .m 8 o | .pref o => .m 9 o | .clean o => .m 10 o | .inval o => .m 11 o
  | .alloc o => .m 12 o | .free o => .m 13 o | .hold o => .m 14 o | .aqry o => .m 15 o | .tful o => .m 16 o
  | .send o => .k 0 o | .emit o => .k 1 o | .sendc o => .k 2 o | .mcast o => .k 3 o | .mask o => .k 4 o | .unmsk o => .k 5 o
  | .walk o => .k 6 o | .split o => .k 7 o | .wstat o => .k 8 o | .kick o => .k 9 o | .lnch o => .k 10 o | .disp o => .k 11 o
  | .dflsh o => .k 12 o | .coll o => .k 13 o | .rstat o => .k 14 o
  | .phreg o => .s 0 o | .phdrp o => .s 1 o | .phsig o => .s 2 o | .phwt o => .s 3 o | .phsw o => .s 4 o | .amo o => .s 5 o
  | .cas o => .s 6 o | .famo o => .s 7 o | .fence o => .s 8 o | .bind o => .s 9 o | .unbnd o => .s 10 o | .acq o => .s 11 o
  | .rel o => .s 12 o | .osec o => .s 13 o | .oend o => .s 14 o | .otok o => .s 15 o | .futn o => .s 16 o | .fres o => .s 17 o
  | .freg o => .s 18 o
  | .nop o => .x 0 o | .trap o => .x 1 o | .brk o => .x 2 o | .time o => .x 3 o | .rtime o => .x 4 o | .metr o => .x 5 o
  | .csrr o => .x 6 o | .csrw o => .x 7 o | .erri o => .x 8 o | .rseed o => .x 9 o | .perf o => .x 10 o | .sysc o => .x 11 o
  | .halt o => .x 12 o | .frzr o => .x 13 o
  | _ => .none

/-- CSR numbers that name a register (R134, R153, R322). -/
def csrExists (n : Nat) : Bool :=
  (0x100 ≤ n && n ≤ 0x108) || (0x110 ≤ n && n ≤ 0x112) || n == 0x120 || n == 0x121

/-- CSRs that some privilege may write (R322). -/
def csrWritable (n : Nat) : Bool :=
  n == 0x101 || n == 0x102 || n == 0x110 || n == 0x111 || n == 0x120

/-- A selector field used as `use` says holds something else than zero although unused (RSV_BITS, R18). -/
def selRsv (use : Nat) (s : Sel) : Bool := use == 0 && s != .t 0

/-- A selector field holds a value illegal in it (BAD_SELECTOR, R28): destinations are t0 to t7 and z, predicate numbers 0 to 3. -/
def srcBad (use : Nat) (s : Sel) : Bool := (use == 2 && !s.isPred) || (use == 3 && s != .lit)

def dstBad (use : Nat) (s : Sel) : Bool := (use == 1 && !s.isDst) || (use == 2 && !s.isPred)

/-- Above the greatest legal value, where the field is used. -/
def overMax (m : Option Nat) (v : Nat) : Bool := match m with | some k => k < v | Option.none => false

/-- Unused and not zero. -/
def unusedSet (m : Option Nat) (v : Nat) : Bool := match m with | some _ => false | Option.none => v != 0

/-- Node head KF: bit 0 is STEER's `inv`, BAD_FIELD on any other kind; KF[5:1] is reserved in every kind (R80). -/
def OpN.kfRsv (o : OpN) : Bool := o.kf.toNat / 2 != 0

/-- Input counts of each kind (R80). -/
def headIns (kind : Nat) (n : Nat) : Bool :=
  if kind = 0 ∨ kind = 10 then true else if kind = 1 ∨ kind = 2 ∨ kind = 3 then n == 2 else n == 1

/-- DSTA modes of each kind (R80). -/
def headA (kind : Nat) (m : Nat) : Bool :=
  if kind = 4 ∨ kind = 5 ∨ kind = 7 then m == 1
  else if kind = 6 then m == 2
  else if kind = 8 ∨ kind = 10 then m == 0
  else true

/-- DSTB modes of each kind (R80). -/
def headB (kind : Nat) (m : Nat) : Bool :=
  if kind = 0 ∨ kind = 1 ∨ kind = 11 then true else if kind = 7 then m == 1 else m == 0

/-- LIT of a node head outside R20, the SEQ body length apart (BAD_LITERAL). -/
def headLitBad (kind : Nat) (l : Nat) : Bool :=
  if kind = 0 then 256 ≤ l
  else if 4 ≤ kind ∧ kind ≤ 8 then !(1 ≤ l && l ≤ 32)
  else if kind = 11 then false
  else l != 0

/-- SEQ body length 0 or above 64 (BAD_LENGTH, R20). -/
def headLenBad (kind : Nat) (l : Nat) : Bool := kind == 0 && (l == 0 || 64 < l)

/-- Group 3: fields the instruction does not use are zero (R18, R176 to R185). `cd` says LIT[15:0] is a completion destination. -/
def OpY.rsv (kind : Nat) (o : OpY) : Bool :=
  let sh := o.nq != 0 || o.ms != 0 || o.af != .i64 || o.wf != .i64 || o.f != .i64
  let l := o.lit.toNat
  match kind with
  | 0 => sh || o.a != .t 0 || o.b != .t 0 || o.c != .t 0 || o.kb != 0 || l != 0
  | 1 => o.a != .t 0 || o.b != .t 0 || o.c != .t 0 || 2 ^ 20 ≤ l
  | 2 => sh || o.c != .t 0 || l / 2 ^ 17 % 2 ^ 14 != 0
  | 3 => sh || o.b != .t 0 || o.c != .t 0 || o.kb != 0 || (o.a != .lit && l != 0)
  | 4 => sh || o.c != .t 0 || o.kb != 0 || 2 ^ 16 ≤ l
  | 5 => sh || o.a != .t 0 || o.b != .t 0 || o.c != .t 0 || o.kb != 0 || l != 0
  | 6 | 7 => sh || o.a != .t 0 || o.b != .t 0 || o.c != .t 0 || o.kb != 0 || 2 ^ 16 ≤ l
  | 8 => sh || o.a != .t 0 || o.b != .t 0 || o.c != .t 0 || 2 ^ 16 ≤ l
  | 9 => sh || o.a != .t 0 || o.b != .t 0 || o.c != .t 0 || o.kb != 0 || 2 ^ 16 ≤ l
  | 10 => sh || o.b != .t 0 || o.c != .t 0 || o.ka != 0 || o.kb != 0 || 2 ^ 16 ≤ l
  | _ => sh || o.a != .t 0 || o.b != .t 0 || o.c != .t 0 || o.kb != 0 || 2 ^ 16 ≤ l

/-- The completion destination of an array instruction (R176). -/
def OpY.cdst (o : OpY) : Dst := Dst.ofBits (o.lit.extractLsb' 0 16)

/-- M of R23. -/
def OpY.mRows (o : OpY) : Nat := 32 * 2 ^ o.ms.toNat

/-- K_e of R178. -/
def kePer (af : Ty) : Nat := if af == .bf16 then 8 else 16

/-- BAD_FIELD of group 3 (R23, R177 to R185). -/
def OpY.fieldBad (kind : Nat) (o : OpY) : Bool :=
  let ka := o.ka.toNat
  let kb := o.kb.toNat
  match kind with
  | 0 => 1 < ka
  | 1 => o.nq == 0 || o.ms == 3 || ka == 0 || 8 < ka || kb == 0 || 12 < kb || o.cdst.badField
      || ka * kePer o.af % 32 != 0 || (16 * o.nq.toNat) % (8 * kb) != 0 || 4096 < o.mRows * (16 * o.nq.toNat / kb)
  | 2 => o.lit.toNat % 2 ^ 17 % 32 != 0
  | 3 | 5 => ka != 0
  | 4 => ka != 1 || o.cdst.badField
  | 6 => ka != 1 || o.cdst.badField
  | 7 => ka != 2 || o.cdst.badField
  | 8 => 7 ≤ ka || 1 < kb || o.cdst.badField
  | 9 => ka != 0 || o.cdst.badField || o.cdst.mode == 0
  | _ => o.cdst.badField

/-- Which fields of format M an instruction uses: D, B, C as register, DST, RM (final store), scope and flags (R141, R187, R235). -/
structure MDesc where
  tys : Ty → Bool
  d : Nat := 0
  b : Nat := 1
  c : Nat := 0
  rm : Bool := false
  aq : Bool := false
  rl : Bool := false
  glob : Bool := false
  scopeAny : Bool := false
  n9 : Bool := false
  litUsed : Bool := true
  dst : Option (Bool) := Option.none   -- `some true`: mode 00 admitted too; `some false`: 01 and 10 only; none: unused

def allTy (_ : Ty) : Bool := true

/-- Only code 0 (R235: a TY of 0). -/
def ty0 (t : Ty) : Bool := t == .i64

def mDesc (kind : Nat) : MDesc :=
  match kind with
  | 0 => { tys := allTy, d := 1 }
  | 1 => { tys := allTy, c := 1, rm := true }
  | 2 => { tys := allTy, c := 1, dst := some false }
  | 3 => { tys := allTy, c := 1, rm := true, dst := some true }
  | 4 => { tys := allTy, c := 1, aq := true, rl := true, glob := true, dst := some false }
  | 5 => { tys := allTy, c := 1, rm := true, rl := true, glob := true, dst := some true }
  | 6 => { tys := Ty.isCopy, c := 1, rm := true, aq := true, rl := true, glob := true, scopeAny := true, n9 := true, litUsed := false, dst := some false }
  | 7 => { tys := Ty.isGs, c := 1, aq := true, rl := true, glob := true, n9 := true, dst := some false }
  | 8 => { tys := Ty.isGs, c := 1, rm := true, rl := true, glob := true, n9 := true, dst := some true }
  | 9 => { tys := ty0, glob := true, n9 := true }
  | 10 | 11 => { tys := ty0, c := 1, glob := true, dst := some true }
  | 12 => { tys := (· == .n32), d := 1, c := 1, n9 := true, dst := some false }
  | 15 => { tys := (· == .n32), b := 0, n9 := true, dst := some false }
  | _ => { tys := ty0, b := 0, n9 := true, litUsed := false }

/-- RSV_BITS of group 4: unused fields, a SCOPE that R235 fixes at 0 among them (log 28), LIT of COPY (R240), ALLOC LIT[31:25], AQRY LIT[31:2], FREE and HOLD N9[8], TFUL N9[8:1] (R24, R135 to R138). -/
def OpM.rsv (kind : Nat) (o : OpM) : Bool :=
  let D := mDesc kind
  let l := o.lit.toNat
  let n := o.n9.toNat
  selRsv D.d o.d || selRsv D.b o.b || selRsv D.c o.c
  || (!D.glob && (o.scope != 0 || o.aq || o.rl))
  || (!D.n9 && n != 0)
  || (D.dst.isNone && !D.glob && o.dst != Dst.none)
  || (!D.litUsed && l != 0 && (kind == 6 || o.a != .lit))
  || (D.glob && !D.scopeAny && !(D.aq && o.aq) && !(D.rl && o.rl) && o.scope != 0)
  || (match kind with
      | 6 => n / 128 % 2 != 0 || n / 16 % 2 != 0
      | 7 | 8 => 8 ≤ n
      | 9 => (n / 32 % 8 != 0)
      | 12 => 2 ^ 25 ≤ l
      | 13 | 14 => 256 ≤ n || o.ty != .i64
      | 15 => 4 ≤ l
      | 16 => 2 ≤ n || o.ty != .i64
      | _ => false)

/-- BAD_TYPE of group 4, the source type of a converting COPY included (R240). -/
def OpM.tyBad (kind : Nat) (o : OpM) : Bool :=
  !(mDesc kind).tys o.ty
  || (kind == 6 && 256 ≤ o.n9.toNat && !(o.n9.toNat % 16 < 13 && o.n9.toNat % 16 != 0 && o.n9.toNat % 16 != 4))

/-- BAD_FIELD of group 4. -/
def OpM.fieldBad (kind : Nat) (o : OpM) : Bool :=
  let D := mDesc kind
  let l := o.lit.toNat
  let n := o.n9.toNat
  o.rm == 7 || (!D.rm && o.rm != 0) || 5 ≤ o.scope.toNat
  || (D.glob && ((!D.aq && o.aq) || (!D.rl && o.rl)))
  || o.dst.badField
  || (match D.dst with
      | some true => false
      | some false => o.dst.mode == 0
      | Option.none => o.dst.mode != 0)
  || (match kind with
      | 6 => n < 256 && (o.rm != 0 || n % 16 != 0 || o.ty != .n8)
      | 12 => n % 256 == 0 || 13 ≤ l / 2 ^ 19 % 16
          || (o.b == .z && n < 256 && !(1 ≤ l % 2 ^ 19 && l % 2 ^ 19 ≤ 0x60000))
          || (o.b == .z && 256 ≤ n && !(1 ≤ l % 2 ^ 19 && l % 2 ^ 19 ≤ 256))
      | 13 | 14 => n % 256 == 0
      | 15 => 2 < n
      | _ => false)

/-- Which fields of format K an instruction uses (R146, R147, R188, R189, R329, R330, R345 to R352). -/
structure KDesc where
  cls : Bool := false
  a : Nat := 1
  b : Nat := 0
  c : Nat := 0
  dst : Bool := false
  lit : Bool := false   -- LIT has a meaning of its own (COLL)
  litZero : Bool := false   -- the entry has LIT zero whatever the selectors are
  opsUsed : Bool := true
  opsOk : Nat → Bool := fun _ => true

def kDesc (kind : Nat) : KDesc :=
  match kind with
  | 0 => { cls := true, b := 1, c := 1, opsUsed := false }
  | 1 => { cls := true, opsOk := (· < 2) }
  | 2 => { cls := true, b := 1, opsOk := (· < 4) }
  | 3 => { cls := true, b := 1, c := 1, opsUsed := false }
  | 4 | 5 => { opsUsed := false }
  | 6 => { dst := true, opsUsed := false }
  | 7 => { dst := true, opsOk := fun n => n < 16 && (n < 8 || n == 8) }
  | 8 => { dst := true, opsOk := (· < 8) }
  | 9 => { opsOk := (· < 16), litZero := true }
  | 10 => { b := 1, dst := true, opsOk := (· < 16) }
  | 11 => { b := 1, c := 1, litZero := true, opsOk := fun n => n % 512 == 0 && n / 4096 % 2 == 0 && n / 512 % 8 < 5 }
  | 12 => { a := 0, dst := true, litZero := true, opsOk := (· < 128) }
  | 13 => { b := 1, c := 1, dst := true, lit := true,
            opsOk := fun n => n / 512 % 8 < 5 && n / 16 % 4 != 3 && n / 64 % 8 < 6 }
  | _ => { a := 0, dst := true, opsOk := fun n => n < 256 && n % 4 != 3 && (n % 4 != 2 || n / 4 ≤ 35) }

/-- The TY field of COLL (R350). -/
def OpK.collTy (o : OpK) : Nat := o.ops.toNat % 16

/-- RSV_BITS of group 5: unused fields; LIT where no selector reads it or the entry has it zero (R18, R329, R345, R348, log 31); the number in OPS that SPLIT near, DFLSH all
and RSTAT coll do not read (log 32). -/
def OpK.rsv (kind : Nat) (o : OpK) : Bool :=
  let D := kDesc kind
  (!D.cls && o.cls != 0) || o.d != .t 0 || selRsv D.a o.a || selRsv D.b o.b || selRsv D.c o.c || o.col != 0
  || (!D.opsUsed && o.ops != 0) || (!D.dst && o.dst != Dst.none)
  || (!D.lit && o.lit != 0 && (D.litZero || !((D.a == 1 && o.a == .lit) || (D.b == 1 && o.b == .lit) || (D.c == 1 && o.c == .lit))))
  || (kind == 7 && o.ops.toNat == 8 && o.a != .t 0)
  || (kind == 12 && 64 ≤ o.ops.toNat && o.ops.toNat % 64 != 0)
  || (kind == 14 && o.ops.toNat % 4 == 0 && o.ops.toNat != 0)

def OpK.tyBad (kind : Nat) (o : OpK) : Bool :=
  kind == 13 && !(o.collTy == 8 || o.collTy == 9 || o.collTy == 10 || o.collTy == 1 || o.collTy == 5)

def OpK.fieldBad (kind : Nat) (o : OpK) : Bool :=
  let D := kDesc kind
  6 ≤ o.col.toNat || !D.opsOk o.ops.toNat || o.dst.badField || (D.dst && o.dst.mode == 0)
  || (kind == 13 && (o.lit.toNat == 0 || 0x10000000 < o.lit.toNat
        || (o.ops.toNat / 64 % 8 != 0 && (o.ops.toNat / 16 % 4 == 1 || o.collTy == 1 || o.collTy == 5))))

def OpK.litBad (kind : Nat) (o : OpK) : Bool :=
  ((kind == 0 || kind == 3) && o.c == .lit && (2 ^ 16 ≤ o.lit.toNat || o.lit.toNat % 4 != 0))
  || ((kind == 4 || kind == 5) && o.a == .lit && 2 ^ 16 ≤ o.lit.toNat)

/-- Which fields of format S an instruction uses (R190, R235 to R248). -/
structure SDesc where
  tys : Ty → Bool := ty0
  fnMax : Option Nat := Option.none
  d : Nat := 0
  a : Nat := 1
  b : Nat := 0
  c : Nat := 0
  aq : Bool := false
  rl : Bool := false
  scope : Bool := false
  k8 : Option Nat := Option.none
  lit : Bool := false
  guard : Bool := true
  dst : Option Bool := Option.none

def amoTy (t : Ty) : Bool := t == .i32 || t == .n32 || t == .i64 || t == .n64 || t == .f32

def sDesc (kind : Nat) : SDesc :=
  match kind with
  | 0 => { fnMax := some 3, dst := some false }
  | 1 => { fnMax := some 0 }
  | 2 => { fnMax := some 0, d := 1, rl := true, scope := true }
  | 3 => { fnMax := some 0, d := 1, aq := true, scope := true, dst := some false }
  | 4 => { fnMax := some 0, d := 1, aq := true, rl := true, scope := true, dst := some false }
  | 5 => { tys := amoTy, fnMax := some 5, b := 1, c := 1, aq := true, rl := true, scope := true, lit := true, dst := some true }
  | 6 => { tys := fun t => amoTy t && t != .f32, fnMax := some 0, b := 1, c := 1, aq := true, rl := true, scope := true, lit := true, dst := some false }
  | 7 => { tys := amoTy, fnMax := some 6, b := 1, c := 1, aq := true, rl := true, scope := true, lit := true, dst := some false }
  | 8 => { a := 0, aq := true, rl := true, scope := true }
  | 9 | 10 => { b := 1, c := 1, dst := some true }
  | 11 | 12 => { scope := true }
  | 13 => { a := 0, k8 := some 15, guard := false }
  | 14 => { a := 0, guard := false }
  | 15 => { a := 0, scope := true, dst := some false }
  | 16 => { b := 1, rl := true, scope := true, lit := true, dst := some true }
  | 17 => { b := 1, c := 1, rl := true, scope := true, lit := true, dst := some true }
  | _ => { b := 1, aq := true, scope := true, lit := true, dst := some false }

/-- RSV_BITS of group 6: unused fields, a SCOPE that R235 fixes at 0 among them (log 28); LIT is zero in R190 and R245 whatever the selectors are (R18, log 31). -/
def OpS.rsv (kind : Nat) (o : OpS) : Bool :=
  let D := sDesc kind
  selRsv D.d o.d || selRsv D.a o.a || selRsv D.b o.b || selRsv D.c o.c || unusedSet D.fnMax o.fn.toNat
  || unusedSet D.k8 o.k8.toNat
  || (kind ≤ 4 && (o.ty != .i64 || (!D.aq && o.aq) || (!D.rl && o.rl))) || (!D.scope && o.scope != 0)
  || (!D.lit && o.lit != 0 && (!(kind == 9 || kind == 10) || !(o.a == .lit || o.b == .lit || o.c == .lit)))

def OpS.tyBad (kind : Nat) (o : OpS) : Bool :=
  !(sDesc kind).tys o.ty || ((kind == 5 || kind == 7) && o.ty == .f32 && 1 ≤ o.fn.toNat && o.fn.toNat ≤ 5)

def OpS.fieldBad (kind : Nat) (o : OpS) : Bool :=
  let D := sDesc kind
  overMax D.fnMax o.fn.toNat || overMax D.k8 o.k8.toNat || 5 ≤ o.scope.toNat
  || (!D.aq && o.aq) || (!D.rl && o.rl) || (kind == 0 && o.fn == 0)
  || o.dst.badField
  || (match D.dst with
      | some true => false
      | some false => o.dst.mode == 0
      | Option.none => o.dst.mode != 0)
  || (!D.guard && (o.pr != 0 || o.pn))

/-- Which fields of format X an instruction uses (R318). -/
structure XDesc where
  fnMax : Nat := 0
  d : Nat := 0
  a : Nat := 0
  csr : Bool := false
  dst : Bool := false

def xDesc (kind : Nat) : XDesc :=
  match kind with
  | 3 | 4 => { d := 1 }
  | 5 | 10 => { d := 1, fnMax := 7 }
  | 6 => { d := 1, csr := true }
  | 7 => { a := 1, csr := true }
  | 8 | 9 => { a := 1 }
  | 11 => { a := 1, fnMax := 7 }
  | 13 => { dst := true }
  | _ => {}

def OpX.rsv (kind : Nat) (o : OpX) : Bool :=
  let D := xDesc kind
  selRsv D.d o.d || selRsv D.a o.a || o.b != .t 0 || (o.lit != 0 && !(D.a == 1 && o.a == .lit))

def OpX.fieldBad (kind : Nat) (o : OpX) : Bool :=
  let D := xDesc kind
  D.fnMax < o.fn.toNat
  || (if D.csr then !csrExists o.csr.toNat || (kind == 7 && !csrWritable o.csr.toNat) else o.csr != 0)
  || o.dst.badField || (!D.dst && o.dst != Dst.none)

/-- PR = pt with PN = 1 (R29). -/
def guardBad (pr : BitVec 2) (pn : Bool) : Bool := pr == 0 && pn

/-- RSV_BITS of one word, its format's reserved bits apart (those are in Decode.lean, which sees the word). -/
def Instr.rsvBits (i : Instr) : Bool :=
  match i.shape with
  | .n _ o => o.kfRsv
  | .a D o =>
    (!D.tyUsed && o.ty != .i64) || selRsv D.d o.d || selRsv D.a o.a || selRsv D.b o.b || selRsv D.c o.c
    || unusedSet D.fnMax o.fn.toNat || (D.tss.isNone && o.ts != .i64) || unusedSet D.kaMax o.ka.toNat
    || unusedSet D.kbMax o.kb.toNat
    || (!D.litOff && o.lit != 0 && !(D.a % 2 == 1 && o.a == .lit) && !(D.b % 2 == 1 && o.b == .lit) && !(D.c == 1 && o.c == .lit))
    || D.xRsv o
  | .y k o => o.rsv k
  | .m k o => o.rsv k
  | .k k o => o.rsv k
  | .s k o => o.rsv k
  | .x k o => o.rsv k
  | .none => false

/-- BAD_SELECTOR of one word, input counts apart. -/
def Instr.badSel (i : Instr) : Bool :=
  match i.shape with
  | .a D o => dstBad D.d o.d || srcBad D.a o.a || srcBad D.b o.b || srcBad D.c o.c
  | .m k o => dstBad (mDesc k).d o.d
  | .s k o => dstBad (sDesc k).d o.d
  | .x k o => dstBad (xDesc k).d o.d
  | _ => false

/-- BAD_TYPE of one word. -/
def Instr.badType (i : Instr) : Bool :=
  match i.shape with
  | .a D o => (D.tyUsed && !D.tys o.ty) || (match D.tss with | some f => !f o.ts | Option.none => false) || D.xTy o
  | .y k o => k == 1 && !o.combo
  | .m k o => o.tyBad k
  | .k k o => o.tyBad k
  | .s k o => o.tyBad k
  | _ => false

/-- BAD_FIELD of one word. -/
def Instr.badField (i : Instr) : Bool :=
  match i.shape with
  | .n k o => !headIns k (o.nin.toNat + 1) || !headA k o.dsta.mode.toNat || !headB k o.dstb.mode.toNat
      || o.dsta.badField || o.dstb.badField || (k != 1 && o.kf.toNat % 2 == 1)
  | .a D o => overMax D.fnMax o.fn.toNat || overMax D.kaMax o.ka.toNat || overMax D.kbMax o.kb.toNat || guardBad o.pr o.pn || D.xField o
  | .y k o => o.fieldBad k
  | .m k o => o.fieldBad k || guardBad o.pr o.pn
  | .k k o => o.fieldBad k || guardBad o.pr o.pn
  | .s k o => o.fieldBad k || guardBad o.pr o.pn
  | .x k o => o.fieldBad k || guardBad o.pr o.pn
  | .none => false

/-- The destinations of a word that the loader checks against the window (R21, R35), the completion destination of an array
instruction included (R176). -/
def Instr.dsts (i : Instr) : List Dst :=
  match i.shape with
  | .n _ o => [o.dsta, o.dstb]
  | .y k o => if k = 0 ∨ k = 2 ∨ k = 3 ∨ k = 5 then [] else [o.cdst]
  | .m _ o => [o.dst]
  | .k _ o => [o.dst]
  | .s _ o => [o.dst]
  | .x _ o => [o.dst]
  | _ => []

/-- BAD_NODE_REF that one word shows by itself: mode 00 with a node or a port. -/
def Instr.badNone (i : Instr) : Bool := i.dsts.any Dst.badNone

/-- BAD_LITERAL of one word (R20, R34, R146, R147). -/
def Instr.badLit (i : Instr) : Bool :=
  match i.shape with
  | .n k o => headLitBad k o.lit.toNat
  | .a D o => !D.litOff && ((D.a % 2 == 1 && o.a == .lit) || (D.b % 2 == 1 && o.b == .lit) || (D.c == 1 && o.c == .lit))
      && !(litOk (if D.litTs then o.ts else o.ty) o.lit)
  | .m k o => k != 12 && (o.a == .lit || ((mDesc k).b == 1 && o.b == .lit) || ((mDesc k).c == 1 && o.c == .lit)) && !(litOk o.ty o.lit)
  | .k k o => o.litBad k
  | .s k o => (((sDesc k).a == 1 && o.a == .lit) || ((sDesc k).b == 1 && o.b == .lit) || ((sDesc k).c == 1 && o.c == .lit))
      && !(litOk o.ty o.lit)
  | _ => false

/-- BAD_LENGTH that a head shows by itself (R20, R35). -/
def Instr.badLen (i : Instr) : Bool :=
  match i.shape with
  | .n k o => headLenBad k o.lit.toNat || 256 < o.slot.toNat + o.nin.toNat + 1
  | _ => false

/-- The first reason for which one word, taken by itself, fails (R35). -/
def Instr.reason (i : Instr) : Option Reason :=
  if i.rsvBits then some .rsvBits
  else if i.badSel then some .badSelector
  else if i.badType then some .badType
  else if i.badField then some .badField
  else if i.badNone then some .badNodeRef
  else if i.badLit then some .badLiteral
  else if i.badLen then some .badLength
  else Option.none

/-- A step that is the word of a node store: the rows SEQ to FRZR of the opcode table. -/
def Instr.isWord (i : Instr) : Bool :=
  match i.shape with
  | .none => false
  | _ => true

/-- A node head (group 0). -/
def Instr.isHead (i : Instr) : Bool :=
  match i.shape with
  | .n _ _ => true
  | _ => false

end Sys2Proof
end

