-- ==== Sys2Proof/WellFormed.lean ====
section
/-! DEFINITION. Well-formed instructions: a word of the node store that passes every check the loader makes on it alone (R35).
The checks themselves are in Machine/WordCheck.lean. -/

namespace Sys2Proof

/-- A well-formed word: it passes every check that the loader makes on it alone. -/
def Instr.wellFormed (i : Instr) : Bool := i.isWord && i.reason.isNone

abbrev WellFormed (i : Instr) : Prop := i.wellFormed = true

end Sys2Proof
end

