-- ==== Sys2Proof/Decode.lean ====
section
/-! DEFINITION. From words to instructions and back (R17 to R33): field extraction, the opcode map, the reserved bits of each
format, the decoder, which refuses a word by the reason of R35, and the encoder, written from the same tables. -/

namespace Sys2Proof

/-- The type of a code (R30). -/
def Ty.ofCode (b : BitVec 4) : Ty :=
  match b.toNat with
  | 0 => .i64 | 1 => .i32 | 2 => .i16 | 3 => .i8 | 4 => .n64 | 5 => .n32 | 6 => .n16 | 7 => .n8
  | 8 => .f32 | 9 => .bf16 | 10 => .f16 | 11 => .e4m3 | 12 => .e5m2 | 13 => .w4 | 14 => .w3 | _ => .sc20

/-- The 4 bits of a type (R30). -/
def Ty.toBits (t : Ty) : BitVec 4 := BitVec.ofNat 4 t.code

/-- The selector of a code (R28). -/
def Sel.ofCode (b : BitVec 4) : Sel :=
  match b.toNat with
  | 0 => .t 0 | 1 => .t 1 | 2 => .t 2 | 3 => .t 3 | 4 => .t 4 | 5 => .t 5 | 6 => .t 6 | 7 => .t 7
  | 8 => .inp 0 | 9 => .inp 1 | 10 => .inp 2 | 11 => .inp 3 | 12 => .lit | 13 => .z | 14 => .tag | _ => .fp

/-- The 4 bits of a selector (R28). -/
def Sel.toBits (s : Sel) : BitVec 4 := BitVec.ofNat 4 s.code

/-- Bit slice w[lo + n - 1 : lo] of a word (R6). -/
def fld (w : NWord) (lo n : Nat) : BitVec n := w.extractLsb' lo n

/-- One bit of a word. -/
def bit (w : NWord) (k : Nat) : Bool := w.getLsbD k

def selAt (w : NWord) (lo : Nat) : Sel := Sel.ofCode (fld w lo 4)

def tyAt (w : NWord) (lo : Nat) : Ty := Ty.ofCode (fld w lo 4)

def dstAt (w : NWord) (lo : Nat) : Dst := Dst.ofBits (fld w lo 16)

/-- Format N (R19). -/
def OpN.ofWord (w : NWord) : OpN :=
  { nin := fld w 86 2, slot := fld w 78 8, dsta := dstAt w 62, dstb := dstAt w 46, req := fld w 44 2, kf := fld w 38 6,
    ch := fld w 35 3, lit := fld w 0 32 }

/-- Format A (R22). -/
def OpA.ofWord (w : NWord) : OpA :=
  { ty := tyAt w 84, d := selAt w 80, a := selAt w 76, b := selAt w 72, c := selAt w 68, pr := fld w 66 2, pn := bit w 65,
    fn := fld w 60 5, ts := tyAt w 56, ka := fld w 48 8, kb := fld w 40 8, lit := fld w 0 32 }

/-- Format Y (R23). -/
def OpY.ofWord (w : NWord) : OpY :=
  { nq := fld w 82 6, ms := fld w 80 2, af := tyAt w 76, wf := tyAt w 72, f := tyAt w 68, a := selAt w 64, b := selAt w 60,
    c := selAt w 56, ka := fld w 48 8, kb := fld w 40 8, lit := fld w 0 32 }

/-- Format M (R24). -/
def OpM.ofWord (w : NWord) : OpM :=
  { ty := tyAt w 84, d := selAt w 80, a := selAt w 76, b := selAt w 72, c := selAt w 68, pr := fld w 66 2, pn := bit w 65,
    rm := fld w 62 3, scope := fld w 59 3, aq := bit w 58, rl := bit w 57, n9 := fld w 48 9, dst := dstAt w 32, lit := fld w 0 32 }

/-- Format K (R25). -/
def OpK.ofWord (w : NWord) : OpK :=
  { cls := fld w 84 4, d := selAt w 80, a := selAt w 76, b := selAt w 72, c := selAt w 68, pr := fld w 66 2, pn := bit w 65,
    col := fld w 62 3, ops := fld w 48 14, dst := dstAt w 32, lit := fld w 0 32 }

/-- Format S (R26). -/
def OpS.ofWord (w : NWord) : OpS :=
  { fn := fld w 84 4, d := selAt w 80, a := selAt w 76, b := selAt w 72, c := selAt w 68, pr := fld w 66 2, pn := bit w 65,
    ty := tyAt w 61, scope := fld w 58 3, aq := bit w 57, rl := bit w 56, k8 := fld w 48 8, dst := dstAt w 32, lit := fld w 0 32 }

/-- Format X (R27). -/
def OpX.ofWord (w : NWord) : OpX :=
  { fn := fld w 84 4, d := selAt w 80, a := selAt w 76, b := selAt w 72, pr := fld w 66 2, pn := bit w 65, csr := fld w 48 12,
    dst := dstAt w 32, lit := fld w 0 32 }

/-- MBIND has two forms, chosen by KA (R180); a KA of 2 or more is the operation form with a field out of range. -/
def mkMbind (o : OpY) : Instr := if o.ka == 0 then .mbindW o else .mbindOp o

/-- MFREE has three forms, chosen by KA (R182). -/
def mkMfree (o : OpY) : Instr := if o.ka == 0 then .mfreeW o else if o.ka == 1 then .mfreeOp o else .mfreeCfg o

-- The columns of R33, index 0 first.
def colN : List (OpN → Instr) :=
  [Instr.seq, Instr.steer, Instr.merge, Instr.gate, Instr.loop, Instr.next, Instr.exit, Instr.call, Instr.retn, Instr.join]
  ++ [Instr.sink, Instr.const, Instr.prune]

def colA1 : List (OpA → Instr) :=
  [Instr.add, Instr.sub, Instr.mul, Instr.mulh, Instr.div, Instr.rem, Instr.min, Instr.max, Instr.and, Instr.or]
  ++ [Instr.xor, Instr.andn, Instr.shl, Instr.shr, Instr.sar, Instr.rot, Instr.clz, Instr.popc, Instr.bext, Instr.bins]
  ++ [Instr.sel, Instr.cmp, Instr.plog, Instr.mov, Instr.lit, Instr.lith, Instr.lea, Instr.tagr, Instr.idr]

def colA2 : List (OpA → Instr) :=
  [Instr.vadd, Instr.vsub, Instr.vmul, Instr.vfma, Instr.vdiv, Instr.vsqrt, Instr.vrcp, Instr.vrsq, Instr.vexp, Instr.vlog]
  ++ [Instr.vtanh, Instr.vmin, Instr.vmax, Instr.vabs, Instr.vneg, Instr.vcmp, Instr.vsel, Instr.vcvt, Instr.vrnd, Instr.vtail]
  ++ [Instr.vshuf, Instr.vtrn, Instr.vred, Instr.vscan, Instr.vbcst, Instr.viota, Instr.vpack, Instr.vunpk, Instr.colr, Instr.vscl]
  ++ [Instr.vmov, Instr.vbit]

def colY : List (OpY → Instr) :=
  [Instr.mode, Instr.mcfg, Instr.mwld, mkMbind, mkMfree, Instr.mdrn, Instr.mstat, Instr.scsnd, Instr.scpr, Instr.zskp]

def colM : List (OpM → Instr) :=
  [Instr.ldl, Instr.stl, Instr.ldc, Instr.stc, Instr.ldg, Instr.stg, Instr.copy, Instr.gath, Instr.scat, Instr.pref]
  ++ [Instr.clean, Instr.inval, Instr.alloc, Instr.free, Instr.hold, Instr.aqry, Instr.tful]

def colK : List (OpK → Instr) :=
  [Instr.send, Instr.emit, Instr.sendc, Instr.mcast, Instr.mask, Instr.unmsk, Instr.walk, Instr.split, Instr.wstat, Instr.kick]
  ++ [Instr.lnch, Instr.disp, Instr.dflsh, Instr.coll, Instr.rstat]

def colS : List (OpS → Instr) :=
  [Instr.phreg, Instr.phdrp, Instr.phsig, Instr.phwt, Instr.phsw, Instr.amo, Instr.cas, Instr.famo, Instr.fence, Instr.bind]
  ++ [Instr.unbnd, Instr.acq, Instr.rel, Instr.osec, Instr.oend, Instr.otok, Instr.futn, Instr.fres, Instr.freg]

def colX : List (OpX → Instr) :=
  [Instr.nop, Instr.trap, Instr.brk, Instr.time, Instr.rtime, Instr.metr, Instr.csrr, Instr.csrw, Instr.erri, Instr.rseed]
  ++ [Instr.perf, Instr.sysc, Instr.halt, Instr.frzr]

/-- The instruction a word's opcode and fields name, before any check; none for a reserved opcode (R33). -/
def decodeRaw (w : NWord) : Option Instr :=
  let ix := (fld w 88 5).toNat
  match (fld w 93 3).toNat with
  | 0 => (colN[ix]?).map (· (OpN.ofWord w))
  | 1 => (colA1[ix]?).map (· (OpA.ofWord w))
  | 2 => (colA2[ix]?).map (· (OpA.ofWord w))
  | 3 => (colY[ix]?).map (· (OpY.ofWord w))
  | 4 => (colM[ix]?).map (· (OpM.ofWord w))
  | 5 => (colK[ix]?).map (· (OpK.ofWord w))
  | 6 => (colS[ix]?).map (· (OpS.ofWord w))
  | _ => (colX[ix]?).map (· (OpX.ofWord w))

/-- The reserved bits of the word's format are not all zero (R19, R22, R23, R27). -/
def fmtRsv (w : NWord) : Bool :=
  match (fld w 93 3).toNat with
  | 0 => fld w 32 3 != 0
  | 1 | 2 | 3 => fld w 32 8 != 0
  | 7 => fld w 68 4 != 0 || fld w 60 5 != 0
  | _ => false

/-- The instruction of a word, or the first reason for which the word, taken by itself, fails validation (R35). -/
def checkWord (w : NWord) : Except Reason Instr :=
  match decodeRaw w with
  | none => .error .rsvOpcode
  | some i =>
    if fmtRsv w then .error .rsvBits
    else match i.reason with
      | some r => .error r
      | none => .ok i

/-- The decoder: the instruction of a word that passes validation, none for any other word. -/
def decode (w : NWord) : Option Instr :=
  match checkWord w with
  | .ok i => some i
  | .error _ => none

/-- A word from its 12 bytes, byte 0 holding w[7:0] (R17). -/
def wordOfBytes : List Byte → Nat
  | [] => 0
  | b :: bs => b.toNat + 256 * wordOfBytes bs

/-- The 12 bytes of a word (R17). -/
def bytesOfWord (w : NWord) : List Byte := (List.range 12).map fun k => fld w (8 * k) 8

/-- Why bytes give no instruction: fewer than 12 are left, or the word fails validation. -/
inductive DecodeErr
  | short
  | word (r : Reason)
  deriving DecidableEq, Repr

/-- Decoding from bytes: the instruction and the bytes after it, or the name of what is wrong. -/
def decodeBytes (bs : List Byte) : Except DecodeErr (Instr × List Byte) :=
  if bs.length < 12 then .error .short
  else match checkWord (BitVec.ofNat 96 (wordOfBytes (bs.take 12))) with
    | .ok i => .ok (i, bs.drop 12)
    | .error r => .error (.word r)

/-- The instruction read from a word numbered as spec/opcode_table.json numbers bits. A K1 word has 96 bits, the first byte lowest. -/
def decodeTableWord (nbits w : Nat) : Option Instr :=
  match decodeBytes (bytesOfWord (BitVec.ofNat 96 (w % 2 ^ nbits))) with
  | .ok (i, _) => some i
  | .error _ => none

/-- The field `x` above the field `y`. -/
def cat {n m : Nat} (x : BitVec n) (y : BitVec m) : BitVec (n + m) := x ++ y

/-- One bit as a bit vector. -/
def b1 (b : Bool) : BitVec 1 := BitVec.ofBool b

def OpN.toWord (op : BitVec 8) (o : OpN) : NWord :=
  (cat (cat (cat (cat (cat (cat (cat (cat (cat op o.nin) o.slot) o.dsta.toBits) o.dstb.toBits) o.req) o.kf) o.ch) (0 : BitVec 3)) o.lit).setWidth 96

def OpA.toWord (op : BitVec 8) (o : OpA) : NWord :=
  (cat (cat (cat (cat (cat (cat (cat (cat (cat (cat (cat (cat (cat op o.ty.toBits) o.d.toBits) o.a.toBits) o.b.toBits) o.c.toBits) o.pr) (b1 o.pn)) o.fn) o.ts.toBits) o.ka) o.kb) (0 : BitVec 8)) o.lit).setWidth 96

def OpY.toWord (op : BitVec 8) (o : OpY) : NWord :=
  (cat (cat (cat (cat (cat (cat (cat (cat (cat (cat (cat (cat op o.nq) o.ms) o.af.toBits) o.wf.toBits) o.f.toBits) o.a.toBits) o.b.toBits) o.c.toBits) o.ka) o.kb) (0 : BitVec 8)) o.lit).setWidth 96

def OpM.toWord (op : BitVec 8) (o : OpM) : NWord :=
  (cat (cat (cat (cat (cat (cat (cat (cat (cat (cat (cat (cat (cat (cat op o.ty.toBits) o.d.toBits) o.a.toBits) o.b.toBits) o.c.toBits) o.pr) (b1 o.pn)) o.rm) o.scope) (b1 o.aq)) (b1 o.rl)) o.n9) o.dst.toBits) o.lit).setWidth 96

def OpK.toWord (op : BitVec 8) (o : OpK) : NWord :=
  (cat (cat (cat (cat (cat (cat (cat (cat (cat (cat (cat op o.cls) o.d.toBits) o.a.toBits) o.b.toBits) o.c.toBits) o.pr) (b1 o.pn)) o.col) o.ops) o.dst.toBits) o.lit).setWidth 96

def OpS.toWord (op : BitVec 8) (o : OpS) : NWord :=
  (cat (cat (cat (cat (cat (cat (cat (cat (cat (cat (cat (cat (cat (cat op o.fn) o.d.toBits) o.a.toBits) o.b.toBits) o.c.toBits) o.pr) (b1 o.pn)) o.ty.toBits) o.scope) (b1 o.aq)) (b1 o.rl)) o.k8) o.dst.toBits) o.lit).setWidth 96

def OpX.toWord (op : BitVec 8) (o : OpX) : NWord :=
  (cat (cat (cat (cat (cat (cat (cat (cat (cat (cat (cat op o.fn) o.d.toBits) o.a.toBits) o.b.toBits) (0 : BitVec 4)) o.pr) (b1 o.pn)) (0 : BitVec 5)) o.csr) o.dst.toBits) o.lit).setWidth 96

/-- The encoder: the word of an instruction, from the opcode map of R33; none for a step that no word encodes. -/
def encode (i : Instr) : Option NWord :=
  match i with
  | .seq o => some (o.toWord 0x00)
  | .steer o => some (o.toWord 0x01)
  | .merge o => some (o.toWord 0x02)
  | .gate o => some (o.toWord 0x03)
  | .loop o => some (o.toWord 0x04)
  | .next o => some (o.toWord 0x05)
  | .exit o => some (o.toWord 0x06)
  | .call o => some (o.toWord 0x07)
  | .retn o => some (o.toWord 0x08)
  | .join o => some (o.toWord 0x09)
  | .sink o => some (o.toWord 0x0A)
  | .const o => some (o.toWord 0x0B)
  | .prune o => some (o.toWord 0x0C)
  | .add o => some (o.toWord 0x20)
  | .sub o => some (o.toWord 0x21)
  | .mul o => some (o.toWord 0x22)
  | .mulh o => some (o.toWord 0x23)
  | .div o => some (o.toWord 0x24)
  | .rem o => some (o.toWord 0x25)
  | .min o => some (o.toWord 0x26)
  | .max o => some (o.toWord 0x27)
  | .and o => some (o.toWord 0x28)
  | .or o => some (o.toWord 0x29)
  | .xor o => some (o.toWord 0x2A)
  | .andn o => some (o.toWord 0x2B)
  | .shl o => some (o.toWord 0x2C)
  | .shr o => some (o.toWord 0x2D)
  | .sar o => some (o.toWord 0x2E)
  | .rot o => some (o.toWord 0x2F)
  | .clz o => some (o.toWord 0x30)
  | .popc o => some (o.toWord 0x31)
  | .bext o => some (o.toWord 0x32)
  | .bins o => some (o.toWord 0x33)
  | .sel o => some (o.toWord 0x34)
  | .cmp o => some (o.toWord 0x35)
  | .plog o => some (o.toWord 0x36)
  | .mov o => some (o.toWord 0x37)
  | .lit o => some (o.toWord 0x38)
  | .lith o => some (o.toWord 0x39)
  | .lea o => some (o.toWord 0x3A)
  | .tagr o => some (o.toWord 0x3B)
  | .idr o => some (o.toWord 0x3C)
  | .vadd o => some (o.toWord 0x40)
  | .vsub o => some (o.toWord 0x41)
  | .vmul o => some (o.toWord 0x42)
  | .vfma o => some (o.toWord 0x43)
  | .vdiv o => some (o.toWord 0x44)
  | .vsqrt o => some (o.toWord 0x45)
  | .vrcp o => some (o.toWord 0x46)
  | .vrsq o => some (o.toWord 0x47)
  | .vexp o => some (o.toWord 0x48)
  | .vlog o => some (o.toWord 0x49)
  | .vtanh o => some (o.toWord 0x4A)
  | .vmin o => some (o.toWord 0x4B)
  | .vmax o => some (o.toWord 0x4C)
  | .vabs o => some (o.toWord 0x4D)
  | .vneg o => some (o.toWord 0x4E)
  | .vcmp o => some (o.toWord 0x4F)
  | .vsel o => some (o.toWord 0x50)
  | .vcvt o => some (o.toWord 0x51)
  | .vrnd o => some (o.toWord 0x52)
  | .vtail o => some (o.toWord 0x53)
  | .vshuf o => some (o.toWord 0x54)
  | .vtrn o => some (o.toWord 0x55)
  | .vred o => some (o.toWord 0x56)
  | .vscan o => some (o.toWord 0x57)
  | .vbcst o => some (o.toWord 0x58)
  | .viota o => some (o.toWord 0x59)
  | .vpack o => some (o.toWord 0x5A)
  | .vunpk o => some (o.toWord 0x5B)
  | .colr o => some (o.toWord 0x5C)
  | .vscl o => some (o.toWord 0x5D)
  | .vmov o => some (o.toWord 0x5E)
  | .vbit o => some (o.toWord 0x5F)
  | .mode o => some (o.toWord 0x60)
  | .mcfg o => some (o.toWord 0x61)
  | .mwld o => some (o.toWord 0x62)
  | .mbindW o => some (o.toWord 0x63)
  | .mbindOp o => some (o.toWord 0x63)
  | .mfreeW o => some (o.toWord 0x64)
  | .mfreeOp o => some (o.toWord 0x64)
  | .mfreeCfg o => some (o.toWord 0x64)
  | .mdrn o => some (o.toWord 0x65)
  | .mstat o => some (o.toWord 0x66)
  | .scsnd o => some (o.toWord 0x67)
  | .scpr o => some (o.toWord 0x68)
  | .zskp o => some (o.toWord 0x69)
  | .ldl o => some (o.toWord 0x80)
  | .stl o => some (o.toWord 0x81)
  | .ldc o => some (o.toWord 0x82)
  | .stc o => some (o.toWord 0x83)
  | .ldg o => some (o.toWord 0x84)
  | .stg o => some (o.toWord 0x85)
  | .copy o => some (o.toWord 0x86)
  | .gath o => some (o.toWord 0x87)
  | .scat o => some (o.toWord 0x88)
  | .pref o => some (o.toWord 0x89)
  | .clean o => some (o.toWord 0x8A)
  | .inval o => some (o.toWord 0x8B)
  | .alloc o => some (o.toWord 0x8C)
  | .free o => some (o.toWord 0x8D)
  | .hold o => some (o.toWord 0x8E)
  | .aqry o => some (o.toWord 0x8F)
  | .tful o => some (o.toWord 0x90)
  | .send o => some (o.toWord 0xA0)
  | .emit o => some (o.toWord 0xA1)
  | .sendc o => some (o.toWord 0xA2)
  | .mcast o => some (o.toWord 0xA3)
  | .mask o => some (o.toWord 0xA4)
  | .unmsk o => some (o.toWord 0xA5)
  | .walk o => some (o.toWord 0xA6)
  | .split o => some (o.toWord 0xA7)
  | .wstat o => some (o.toWord 0xA8)
  | .kick o => some (o.toWord 0xA9)
  | .lnch o => some (o.toWord 0xAA)
  | .disp o => some (o.toWord 0xAB)
  | .dflsh o => some (o.toWord 0xAC)
  | .coll o => some (o.toWord 0xAD)
  | .rstat o => some (o.toWord 0xAE)
  | .phreg o => some (o.toWord 0xC0)
  | .phdrp o => some (o.toWord 0xC1)
  | .phsig o => some (o.toWord 0xC2)
  | .phwt o => some (o.toWord 0xC3)
  | .phsw o => some (o.toWord 0xC4)
  | .amo o => some (o.toWord 0xC5)
  | .cas o => some (o.toWord 0xC6)
  | .famo o => some (o.toWord 0xC7)
  | .fence o => some (o.toWord 0xC8)
  | .bind o => some (o.toWord 0xC9)
  | .unbnd o => some (o.toWord 0xCA)
  | .acq o => some (o.toWord 0xCB)
  | .rel o => some (o.toWord 0xCC)
  | .osec o => some (o.toWord 0xCD)
  | .oend o => some (o.toWord 0xCE)
  | .otok o => some (o.toWord 0xCF)
  | .futn o => some (o.toWord 0xD0)
  | .fres o => some (o.toWord 0xD1)
  | .freg o => some (o.toWord 0xD2)
  | .nop o => some (o.toWord 0xE0)
  | .trap o => some (o.toWord 0xE1)
  | .brk o => some (o.toWord 0xE2)
  | .time o => some (o.toWord 0xE3)
  | .rtime o => some (o.toWord 0xE4)
  | .metr o => some (o.toWord 0xE5)
  | .csrr o => some (o.toWord 0xE6)
  | .csrw o => some (o.toWord 0xE7)
  | .erri o => some (o.toWord 0xE8)
  | .rseed o => some (o.toWord 0xE9)
  | .perf o => some (o.toWord 0xEA)
  | .sysc o => some (o.toWord 0xEB)
  | .halt o => some (o.toWord 0xEC)
  | .frzr o => some (o.toWord 0xED)
  | _ => none

end Sys2Proof
end

