-- ==== Sys2Proof/Machine/Num.lean ====
section
/-! DEFINITION. Numbers (R57 to R79): exact values, the lane's extended value, the intermediate narrowings, the final roundings and the
order of R71. Everything is exact arithmetic on integers. -/

namespace Sys2Proof.Machine

/-- A lane: 32 container bits and the sticky tail (R57). -/
structure Lane where
  v : Word
  g : Bool
  s : Bool
  deriving DecidableEq, Repr

/-- A lane of zeros. -/
def Lane.zero : Lane := ⟨0, false, false⟩

/-- A container with a zero tail. -/
def Lane.ofWord (w : Word) : Lane := ⟨w, false, false⟩

/-- The lane's tail as the two bits {G, S}. -/
def Lane.tail (l : Lane) : BitVec 2 := BitVec.ofNat 2 (2 * l.g.toNat + l.s.toNat)

/-- An exact value: NaN (signalling or not), an infinity, or (−1)^neg × num / den × 2^e with den > 0. Zero keeps its sign. -/
inductive Val
  | nan (sig : Bool)
  | inf (neg : Bool)
  | fin (neg : Bool) (num den : Nat) (e : Int)
  deriving DecidableEq, Repr

/-- The exceptions of R78 that an operation raises. -/
structure Exc where
  inv : Bool := false
  ovf : Bool := false
  dbz : Bool := false
  deriving DecidableEq, Repr

def Exc.none : Exc := {}

def Exc.or (a b : Exc) : Exc := ⟨a.inv || b.inv, a.ovf || b.ovf, a.dbz || b.dbz⟩

def Exc.any (a : Exc) : Bool := a.inv || a.ovf || a.dbz

/-- Only overflow and invalid: what a final store can raise (R65 to R68). -/
def Exc.store (a : Exc) : Bool := a.inv || a.ovf

namespace Val

def zero (neg : Bool) : Val := .fin neg 0 1 0

def ofInt (i : Int) : Val := .fin (i < 0) i.natAbs 1 0

def isZero : Val → Bool
  | .fin _ 0 _ _ => true
  | _ => false

def isNan : Val → Bool
  | .nan _ => true
  | _ => false

def isSnan : Val → Bool
  | .nan s => s
  | _ => false

def neg : Val → Bool
  | .nan _ => false
  | .inf n => n
  | .fin n _ _ _ => n

def flip : Val → Val
  | .nan s => .nan s
  | .inf n => .inf (!n)
  | .fin n a d e => .fin (!n) a d e

/-- A finite value scaled to integers over a common exponent: numerator, with sign. -/
def scaled (neg : Bool) (num : Nat) (e k : Int) : Int :=
  let m : Int := (num * 2 ^ (e - k).toNat : Nat)
  if neg then -m else m

end Val

/-- floor(log2 (num / den)) for num, den > 0. -/
def logQ (num den : Nat) : Int :=
  let k : Int := (Nat.log2 num : Int) - (Nat.log2 den : Int)
  let ge : Bool := if k ≥ 0 then den * 2 ^ k.toNat ≤ num else den ≤ num * 2 ^ (-k).toNat
  if ge then k else k - 1

/-- floor(num / den × 2^(e − q)), and whether something is left over. -/
def quotAt (num den : Nat) (e q : Int) : Nat × Bool :=
  let n : Nat := if e ≥ q then num * 2 ^ (e - q).toNat else num
  let d : Nat := if e ≥ q then den else den * 2 ^ (q - e).toNat
  (n / d, n % d != 0)

/-- The exponent of the last place of a format at magnitude num / den × 2^e (R61's quantum). -/
def quantumExp (f : FltFmt) (num den : Nat) (e : Int) : Int := max (logQ num den + e) f.emin - f.p + 1

/-- m × 2^e in f32 layout, m > 0, truncated to f32's places (R59). -/
def packF32 (neg : Bool) (m : Nat) (e : Int) : Word :=
  let sgn : Nat := if neg then 2 ^ 31 else 0
  if m = 0 then BitVec.ofNat 32 sgn
  else
    let lead : Int := (Nat.log2 m : Int) + e
    if lead < -126 then BitVec.ofNat 32 (sgn + (quotAt m 1 e (-149)).1)
    else
      let fr : Nat := (quotAt m 1 e (lead - 23)).1
      BitVec.ofNat 32 (sgn + (lead + 127).toNat * 2 ^ 23 + (fr - 2 ^ 23))

/-- The f32 default NaN (R59). -/
def qnan : Word := 0x7FC00000

def f32Inf (neg : Bool) : Word := if neg then 0xFF800000 else 0x7F800000

def f32Zero (neg : Bool) : Word := if neg then 0x80000000 else 0

/-- Exponent field, fraction and sign of an f32-layout container. -/
def fexp (c : Word) : Nat := c.toNat / 2 ^ 23 % 256
def ffrac (c : Word) : Nat := c.toNat % 2 ^ 23
def fneg (c : Word) : Bool := c.msb

def f32Nan (c : Word) : Bool := fexp c == 255 && ffrac c != 0
def f32IsInf (c : Word) : Bool := fexp c == 255 && ffrac c == 0
def f32Snan (c : Word) : Bool := f32Nan c && ffrac c < 2 ^ 22

/-- ext of a float lane (R58): the container's significand followed by G and S. -/
def extF (l : Lane) : Val :=
  if f32Nan l.v then .nan (f32Snan l.v)
  else if f32IsInf l.v then .inf (fneg l.v)
  else
    let m : Nat := if fexp l.v = 0 then ffrac l.v else ffrac l.v + 2 ^ 23
    let e : Int := (max (fexp l.v) 1 : Nat)
    .fin (fneg l.v) (4 * m + 2 * l.g.toNat + l.s.toNat) 1 (e - 152)

/-- The n-bit pattern of a container, extended by the type (R57, R101). -/
def intOf (t : Ty) (c : Word) : Int :=
  let k : Nat := c.toNat % 2 ^ min t.bits 32
  if t.isSigned && 2 ^ (min t.bits 32 - 1) ≤ k then (k : Int) - 2 ^ min t.bits 32 else k

/-- ext of an integer lane (R58): the value plus (2G + S) / 4. -/
def extI (t : Ty) (l : Lane) : Val :=
  let q : Int := 4 * intOf t l.v + 2 * l.g.toNat + l.s.toNat
  .fin (q < 0) q.natAbs 1 (-2)

/-- ext of a lane read as a type. -/
def ext (t : Ty) (l : Lane) : Val := if t.isFlt then extF l else extI t l

/-- Least and greatest value of an integer or weight type (R60). -/
def minT (t : Ty) : Int := if t.isSigned then -(2 ^ (t.bits - 1)) else 0
def maxT (t : Ty) : Int := if t.isSigned then 2 ^ (t.bits - 1) - 1 else 2 ^ t.bits - 1

/-- An integer as the container of a type: wrapped to n bits and extended (R57, R64). -/
def wrapT (t : Ty) (x : Int) : Word :=
  let k : Nat := (x % 2 ^ min t.bits 32).toNat
  if t.isSigned && 2 ^ (min t.bits 32 - 1) ≤ k then BitVec.ofInt 32 ((k : Int) - 2 ^ min t.bits 32) else BitVec.ofNat 32 k

/-- The largest finite value of a format plus three quarters of its last place there (R61). -/
def roTop (f : FltFmt) (neg : Bool) (t : Ty) : Lane :=
  let m : Nat := 4 * f.maxM + 3
  let e : Int := f.maxE - 2
  if t == .f32 then ⟨packF32 neg f.maxM f.maxE, true, true⟩ else Lane.ofWord (packF32 neg m e)

/-- ro_narrow (R61): the lane that an exact result becomes in float type t. The NaN's signalling bit is the source's business. -/
def roNarrow (x : Val) (t : Ty) : Lane × Exc :=
  let f := t.fmt
  match x with
  | .nan _ => (Lane.ofWord qnan, Exc.none)
  | .inf n => if t == .e4m3 then (roTop f n t, { ovf := true }) else (Lane.ofWord (f32Inf n), Exc.none)
  | .fin n num den e =>
    if num = 0 then (Lane.ofWord (f32Zero n), Exc.none)
    else
      let q : Int := quantumExp f num den e - 2
      let r := quotAt num den e q
      let m : Nat := if r.2 then r.1 ||| 1 else r.1
      if !f.within (m / 4) (q + 2) then (roTop f n t, { ovf := true })
      else if t == .f32 then
        (⟨if m / 4 = 0 then f32Zero n else packF32 n (m / 4) (q + 2), m / 2 % 2 == 1, m % 2 == 1⟩, Exc.none)
      else (Lane.ofWord (packF32 n m q), Exc.none)

/-- The integer narrowing of R63. -/
def intNarrow (x : Val) (t : Ty) : Lane × Exc :=
  match x with
  | .nan _ => (Lane.zero, { inv := true })
  | .inf n => if n then (Lane.ofWord (wrapT t (minT t)), { inv := true }) else (⟨wrapT t (maxT t), true, true⟩, { inv := true })
  | .fin n num den e =>
    let r := quotAt num den e (-2)
    -- floor of four times the value, with stickiness
    let q : Int := if n then (if r.2 then -(r.1 : Int) - 1 else -(r.1 : Int)) else (r.1 : Int)
    let fl : Int := q / 4
    let frac : Nat := (q % 4).toNat
    let fr : Nat := if r.2 then frac ||| 1 else frac
    if maxT t + 1 ≤ fl then (⟨wrapT t (maxT t), true, true⟩, { inv := true })
    else if fl < minT t - 1 || (fl == minT t - 1 && fr == 0) then (Lane.ofWord (wrapT t (minT t)), { inv := true })
    else if fl < minT t then (Lane.ofWord (wrapT t (minT t)), Exc.none)
    else (⟨wrapT t fl, fr / 2 == 1, fr % 2 == 1⟩, Exc.none)

/-- Narrowing to any numeric type: R61 for floats, R63 for integers and weights. -/
def narrow (x : Val) (t : Ty) : Lane × Exc := if t.isFlt then roNarrow x t else intNarrow x t

-- Arithmetic on exact values (R69, R70, R78).

def vadd (a b : Val) : Val × Exc :=
  let sn : Exc := { inv := a.isSnan || b.isSnan }
  match a, b with
  | .nan _, _ => (.nan false, sn)
  | _, .nan _ => (.nan false, sn)
  | .inf x, .inf y => if x == y then (.inf x, Exc.none) else (.nan false, { inv := true })
  | .inf x, _ => (.inf x, Exc.none)
  | _, .inf y => (.inf y, Exc.none)
  | .fin na ma da ea, .fin nb mb db eb =>
    let k : Int := min ea eb
    let s : Int := Val.scaled na (ma * db) ea k + Val.scaled nb (mb * da) eb k
    if s = 0 then (.fin (na && nb) 0 1 0, Exc.none) else (.fin (s < 0) s.natAbs (da * db) k, Exc.none)

def vmul (a b : Val) : Val × Exc :=
  let sn : Exc := { inv := a.isSnan || b.isSnan }
  match a, b with
  | .nan _, _ => (.nan false, sn)
  | _, .nan _ => (.nan false, sn)
  | .inf x, y => if y.isZero then (.nan false, { inv := true }) else (.inf (x != y.neg), Exc.none)
  | x, .inf y => if x.isZero then (.nan false, { inv := true }) else (.inf (x.neg != y), Exc.none)
  | .fin na ma da ea, .fin nb mb db eb => (.fin (na != nb) (ma * mb) (da * db) (ea + eb), Exc.none)

def vdiv (a b : Val) : Val × Exc :=
  let sn : Exc := { inv := a.isSnan || b.isSnan }
  match a, b with
  | .nan _, _ => (.nan false, sn)
  | _, .nan _ => (.nan false, sn)
  | .inf _, .inf _ => (.nan false, { inv := true })
  | .inf x, y => (.inf (x != y.neg), Exc.none)
  | x, .inf y => (.fin (x.neg != y) 0 1 0, Exc.none)
  | .fin na ma da ea, .fin nb mb db eb =>
    if mb = 0 then
      if ma = 0 then (.nan false, { inv := true }) else (.inf (na != nb), { dbz := true })
    else (.fin (na != nb) (ma * db) (da * mb) (ea - eb), Exc.none)

/-- a × b + c with one narrowing to come (R102). -/
def vfma (a b c : Val) : Val × Exc :=
  let p := vmul a b
  let r := vadd p.1 c
  (r.1, p.2.or r.2)

/-- floor(√n) by bitwise trial from bit k downward. -/
def isqrtGo : Nat → Nat → Nat → Nat
  | 0, _, r => r
  | k + 1, n, r =>
    let t : Nat := r + 2 ^ k
    isqrtGo k n (if t * t ≤ n then t else r)

def isqrt (n : Nat) : Nat := isqrtGo (Nat.log2 n / 2 + 1) n 0

/-- √x as a value whose round-to-odd narrowing at up to 40 places is that of the exact root: 80 binary places and a sticky place below them. -/
def sqrtVal (num : Nat) (e : Int) : Val :=
  let e2 : Int := if e % 2 = 0 then e else e - 1
  let n2 : Nat := if e % 2 = 0 then num else num * 2
  let r : Nat := isqrt (n2 * 2 ^ 160)
  let m : Nat := if r * r = n2 * 2 ^ 160 then 2 * r else 2 * r + 1
  .fin false m 1 (e2 / 2 - 81)

-- The order of R71.

/-- The class of a float lane in R71's order, from −NaN to +NaN. -/
def ordClass (l : Lane) : Int :=
  let n := fneg l.v
  let sg : Int := if n then -1 else 1
  if f32Nan l.v then 4 * sg
  else if f32IsInf l.v then 3 * sg
  else if (extF l).isZero then sg
  else 2 * sg

/-- The place within the class. -/
def ordPlace (l : Lane) : Int :=
  let sg : Int := if fneg l.v then -1 else 1
  if f32Nan l.v then sg * l.v.toNat
  else match extF l with
    | .fin _ num _ e => sg * ((num : Int) * 2 ^ (e + 152).toNat)
    | _ => 0

/-- Less, equal or greater in the order of R71. -/
def ordLane (t : Ty) (a b : Lane) : Ordering :=
  if t.isFlt then
    if ordClass a = ordClass b then compare (ordPlace a) (ordPlace b) else compare (ordClass a) (ordClass b)
  else compare (4 * intOf t a.v + 2 * a.g.toNat + a.s.toNat) (4 * intOf t b.v + 2 * b.g.toNat + b.s.toNat)

/-- The condition codes of R94 applied to an ordering. -/
def condOk (fn : Nat) (o : Ordering) : Bool :=
  match fn with
  | 0 => o == .eq
  | 1 => o != .eq
  | 2 => o == .lt
  | 3 => o != .gt
  | 4 => o == .gt
  | _ => o != .lt

-- Final rounding (R65 to R68).

/-- The rounding decision: given the truncated magnitude, the remainder as a fraction of the last place (numerator over denominator), the
sign and a mode, whether the magnitude goes up by one (R32, R65). RO is handled by `roundMag`. -/
def roundUp (rm : Nat) (neg : Bool) (m : Nat) (r d : Nat) : Bool :=
  match rm with
  | 0 => if 2 * r = d then m % 2 == 1 else d < 2 * r
  | 1 => d ≤ 2 * r
  | 3 => !neg && r != 0
  | 4 => neg && r != 0
  | _ => false

/-- Round num / den × 2^e to a multiple of 2^q: the multiple, and whether it went away from zero. `up` decides for SR. -/
def roundMag (rm : Nat) (neg : Bool) (num den : Nat) (e q : Int) (up : Bool) : Nat × Bool :=
  let n : Nat := if e ≥ q then num * 2 ^ (e - q).toNat else num
  let d : Nat := if e ≥ q then den else den * 2 ^ (q - e).toNat
  let m : Nat := n / d
  let r : Nat := n % d
  if rm = 5 then (if r = 0 then m else m ||| 1, r != 0 && m % 2 == 0)
  else if rm = 6 then (if up then m + 1 else m, up)
  else if roundUp rm neg m r d then (m + 1, true) else (m, false)

/-- The result of a final rounding to a float type, as a value in f32 layout; NaN and infinities are containers (R65, R66). -/
inductive FltRes
  | nan (neg : Bool)
  | inf (neg : Bool)
  | fin (neg : Bool) (m : Nat) (e : Int)
  deriving DecidableEq, Repr

/-- overflow_result of R66. `up` says that SR went away from zero. -/
def overflowResult (t : Ty) (rm : Nat) (neg up : Bool) : FltRes :=
  let f := t.fmt
  let big : FltRes := .fin neg f.maxM f.maxE
  if t == .e4m3 then big
  else
    match rm with
    | 0 | 1 => .inf neg
    | 3 => if neg then big else .inf false
    | 4 => if neg then .inf true else big
    | 6 => if up then .inf neg else big
    | _ => big

/-- final_round of R65 to a float type. -/
def finalFlt (v : Val) (vneg : Bool) (t : Ty) (rm : Nat) (up : Bool) : FltRes × Exc :=
  let f := t.fmt
  match v with
  | .nan s => (.nan vneg, { inv := s })
  | .inf n => if t == .e4m3 then (.fin n f.maxM f.maxE, { ovf := true }) else (.inf n, Exc.none)
  | .fin n num den e =>
    if num = 0 then (.fin n 0 0, Exc.none)
    else
      let q : Int := quantumExp f num den e
      let r := roundMag rm n num den e q up
      if f.within r.1 q then (.fin n r.1 q, Exc.none)
      else (overflowResult t rm n r.2, { ovf := true })

/-- The sign bit of a lane. -/
def laneNeg (ts : Ty) (l : Lane) : Bool := if ts.isFlt then fneg l.v else intOf ts l.v < 0

/-- R67: the expansion of |v| with G and then S repeated, as a natural number over 2^e. -/
def srExpansion (ts : Ty) (l : Lane) : Nat × Int :=
  let fill : Nat := if l.s then 2 ^ 60 - 1 else 0
  if ts.isFlt then
    let m : Nat := if fexp l.v = 0 then ffrac l.v else ffrac l.v + 2 ^ 23
    let e : Int := (max (fexp l.v) 1 : Nat)
    ((2 * m + l.g.toNat) * 2 ^ 60 + fill, e - 150 - 61)
  else
    let fr : Nat := l.g.toNat * 2 ^ 15 + (if l.s then 2 ^ 15 - 1 else 0)
    ((intOf ts l.v * 2 ^ 16 + fr).natAbs, -16)

/-- R67: the 16 bits below the last place 2^q of the expansion, taken by their position: where a tail lies at or above the units place (a float lane of 2^24 or more and
an integer target) S is repeated below G first (log 34). -/
def srBits (x : Nat × Int) (q : Int) : Nat :=
  if q ≤ x.2 then 0
  else
    let n : Nat := (q - x.2).toNat
    if n < 16 then x.1 % 2 ^ n * 2 ^ (16 - n) else x.1 % 2 ^ n / 2 ^ (n - 16)

/-- rotl of R67. -/
def rotl32 (w : Word) (k : Nat) : Word := w.rotateLeft (k % 32)

/-- The draw of lane i (R67). -/
def srDraw (state : Word) (i : Nat) : Nat := (rotl32 state i).toNat % 2 ^ 16

/-- The advance of the generator (R67). -/
def rngNext (st : Word) : Word :=
  let a : Word := st ^^^ (st <<< 13)
  let b : Word := a ^^^ (a >>> 17)
  b ^^^ (b <<< 5)

/-- Whether SR takes lane l of type ts away from zero, its target's last place being 2^q (R67). -/
def srUp (ts : Ty) (l : Lane) (q : Int) (r : Nat) : Bool := 2 ^ 16 ≤ srBits (srExpansion ts l) q + r

/-- SR's truncation uses the container, G and S; the exact ext decides the other modes. The last place of a float target at ext. -/
def targetQ (t : Ty) (v : Val) : Int :=
  if t.isFlt then
    match v with
    | .fin _ num den e => if num = 0 then 0 else quantumExp t.fmt num den e
    | _ => 0
  else 0

/-- The result of a final store of an integer type (R68): the integer, saturated. -/
def finalInt (v : Val) (t : Ty) (rm : Nat) (up : Bool) : Int × Exc :=
  match v with
  | .nan _ => (0, { inv := true })
  | .inf n => (if n then minT t else maxT t, { inv := true })
  | .fin n num den e =>
    let r := roundMag rm n num den e 0 up
    let x : Int := if n then -(r.1 : Int) else (r.1 : Int)
    if x < minT t then (minT t, { inv := true })
    else if maxT t < x then (maxT t, { inv := true })
    else (x, Exc.none)

/-- A final rounding's result as a lane: VRND's result (R107). -/
def FltRes.lane (r : FltRes) : Lane :=
  match r with
  | .nan n => Lane.ofWord (if n then 0xFFC00000 else qnan)
  | .inf n => Lane.ofWord (f32Inf n)
  | .fin n m e => Lane.ofWord (if m = 0 then f32Zero n else packF32 n m e)

/-- The final rounding of lane l, read as type ts, to type t (R65, R68): VRND's result lane. `draw` is the lane's SR draw. -/
def finalLane (ts t : Ty) (rm : Nat) (l : Lane) (draw : Nat) : Lane × Exc :=
  let v := ext ts l
  let up := rm == 6 && srUp ts l (targetQ t v) draw
  if t.isFlt then
    let r := finalFlt v (laneNeg ts l) t rm up
    (r.1.lane, r.2)
  else
    let r := finalInt v t rm up
    (Lane.ofWord (wrapT t r.1), r.2)

-- Stored forms (R59, R60).

/-- Fraction bits and exponent bias of a float type's stored form. -/
def fracBits : Ty → Nat
  | .f32 => 23 | .bf16 => 7 | .f16 => 10 | .e4m3 => 3 | _ => 2

def biasOf : Ty → Nat
  | .f32 | .bf16 => 127 | .f16 | .e5m2 => 15 | _ => 7

/-- A float type's stored pattern of m × 2^e, exactly representable. -/
def packStored (t : Ty) (neg : Bool) (m : Nat) (e : Int) : Nat :=
  let sgn : Nat := if neg then 2 ^ (t.bits - 1) else 0
  let fb := fracBits t
  if m = 0 then sgn
  else
    let lead : Int := (Nat.log2 m : Int) + e
    if lead < t.fmt.emin then sgn + (quotAt m 1 e (t.fmt.emin - fb)).1
    else sgn + (lead + biasOf t).toNat * 2 ^ fb + ((quotAt m 1 e (lead - fb)).1 - 2 ^ fb)

/-- The default NaN of a format (R59), without its sign. -/
def nanStored : Ty → Nat
  | .f32 => 0x7FC00000 | .bf16 => 0x7FC0 | .f16 => 0x7E00 | .e4m3 => 0x7F | _ => 0x7E

def infStored : Ty → Nat
  | .f32 => 0x7F800000 | .bf16 => 0x7F80 | .f16 => 0x7C00 | _ => 0x7C

def FltRes.stored (r : FltRes) (t : Ty) : Nat :=
  match r with
  | .nan n => nanStored t + (if n then 2 ^ (t.bits - 1) else 0)
  | .inf n => infStored t + (if n then 2 ^ (t.bits - 1) else 0)
  | .fin n m e => packStored t n m e

/-- The type that ext of R58 reads a lane in at a final store of type t: an integer's whole container, two's complement for i types and weights, unsigned for n
types (R57, log 97). -/
def wholeTy (t : Ty) : Ty := if t.isInt || t == .w4 || t == .w3 then (if t.isSigned then .i32 else .n32) else t

/-- The stored pattern of one element of a final store: the lane is read as ts, written as t (R65, R68, R143). -/
def storeLane (ts t : Ty) (rm : Nat) (l : Lane) (draw : Nat) : Nat × Exc :=
  if t == .sc20 then (l.v.toNat % 2 ^ 20, Exc.none)
  else
    let v := ext ts l
    let up := rm == 6 && srUp ts l (targetQ t v) draw
    if t.isFlt then
      let r := finalFlt v (laneNeg ts l) t rm up
      (r.1.stored t, r.2)
    else
      let r := finalInt v t rm up
      ((r.1 % 2 ^ t.bits).toNat, r.2)

/-- A stored pattern expanded into a lane, exactly, with a zero tail (R59, R60, R143). -/
def loadLane (t : Ty) (k : Nat) : Lane :=
  if t.isFlt then
    if t == .f32 then Lane.ofWord (BitVec.ofNat 32 k)
    else
      let fb := fracBits t
      let ex : Nat := k / 2 ^ fb % 2 ^ (t.bits - 1 - fb)
      let fr : Nat := k % 2 ^ fb
      let n : Bool := 2 ^ (t.bits - 1) ≤ k % 2 ^ t.bits
      let top : Nat := 2 ^ (t.bits - 1 - fb) - 1
      if (t == .e4m3 && ex == top && fr == 7) || (t != .e4m3 && ex == top && fr != 0) then
        Lane.ofWord (if n then 0xFFC00000 else qnan)
      else if t != .e4m3 && ex == top then Lane.ofWord (f32Inf n)
      else if ex = 0 then Lane.ofWord (if fr = 0 then f32Zero n else packF32 n fr (t.fmt.emin - fb))
      else Lane.ofWord (packF32 n (fr + 2 ^ fb) ((ex : Int) - biasOf t - fb))
  else if t == .sc20 then Lane.ofWord (BitVec.ofNat 32 (k % 2 ^ 20))
  else Lane.ofWord (wrapT t k)

/-- The value of an sc20 scale (R60): a zero scale, a NaN scale, or its number. -/
def scaleVal (w : Word) : Val :=
  let e : Nat := w.toNat / 2 ^ 12 % 256
  let m : Nat := w.toNat % 2 ^ 12
  if e = 0 then Val.zero false
  else if e = 255 then .nan false
  else .fin false (4096 + m) 1 ((e : Int) - 127 - 12)

/-- An SR or fixed-mode float addition at home or in a router (R76, R243): ro_narrow of the sum of two f32 lanes. -/
def addF32 (a b : Lane) : Lane × Exc :=
  let s := vadd (extF a) (extF b)
  let r := roNarrow s.1 .f32
  (r.1, s.2.or r.2)

end Sys2Proof.Machine
end

