-- ==== Sys2Proof/Machine/State.lean ====
section
/-! DEFINITION. The state of a ZW-K1-M24 module as plain data: elements, clusters, the networks, memory, and the module. Every type
is data; sparse collections are `Table`s sorted by key, memories are canonical lists of bytes. -/

namespace Sys2Proof.Machine

/-- The model stops on these; each is a malformed turn of the agenda, which no hardware meets. -/
inductive Fault
  /-- Raised by a body word's meaning when the agenda issues it on no running activation, and by a head's meaning when no ready node
  was chosen. Safe: the hardware issues words of running activations only. -/
  | noActivation
  /-- Raised by the step when the word it fetches fails the checks of R35. Safe: a runnable context holds validated words (R36). -/
  | badFetch (r : Reason)
  /-- Raised by the step when a turn of the agenda gives an instruction word as an event. Safe: words are issued by elements only. -/
  | notAnEvent
  deriving DecidableEq, Repr

/-- An instruction without a meaning. -/
inductive Refusal
  /-- Raised by the dispatch for an instruction that has no meaning yet, under its mnemonic. Safe: the model stops. -/
  | notModelled (mnemonic : String)
  deriving DecidableEq, Repr

/-- A sparse table by number, rows in rising order of number. -/
structure Table (α : Type) where
  rows : List (Nat × α)
  deriving DecidableEq, Repr

def Table.empty {α : Type} : Table α := ⟨[]⟩

-- Activations -------------------------------------------------------------------------------------------------------

/-- A frame header (R43); `widths` holds NF widths, field 0 first. -/
structure FrameHdr where
  tag : DWord := 0
  fill : Nat := 0
  widths : List Nat := []
  nslot : Nat := 0
  parent : Word := 0
  ctx : Nat := 0
  ret : Dst := Dst.none
  comp : Word := 0
  deriving DecidableEq, Repr

/-- A continuation: a frame handle, a node and a port. -/
structure Cont where
  fh : Word
  node : Nat
  port : Nat
  deriving DecidableEq, Repr

/-- A token (R38). `handler` marks a SENDC token, whose node the receiver's class table gives (R146); `trap` marks a trap token (R55), `acq` a token whose receiver first invalidates its cluster
read cache (R230); `sect` is the issue number under which a section instance sent a token to its own frame, which a squash takes back (R232). -/
structure Token where
  payload : DWord := 0
  tag : DWord := 0
  fh : Word := 0
  node : Nat := 0
  port : Nat := 0
  tail : BitVec 4 := 0
  fill : Nat := 0
  col : Nat := 0
  e : Bool := false
  cls : Nat := 0
  handler : Bool := false
  trap : Bool := false
  acq : Bool := false
  sect : Option Nat := none
  deriving DecidableEq, Repr

/-- What a frame slot holds of a token (R44), as an activation latches it. -/
structure InSlot where
  payload : DWord := 0
  tail : BitVec 4 := 0
  e : Bool := false
  col : Nat := 0
  cls : Nat := 0
  deriving DecidableEq, Repr

/-- Where an operation comes from, as fault records, replies and the ordering rules name it: absolute element, context, frame, node
and word, the header's tag, E OR XS at issue, the activation's number, the operation's place in the element's issue order, the
request slot it holds and its continuation. -/
structure Org where
  elem : Nat := 0
  ctx : Nat := 0
  fh : Word := 0
  node : Nat := 0
  word : Nat := 0
  tag : DWord := 0
  fill : Nat := 0
  e : Bool := false
  aid : Nat := 0
  seq : Nat := 0
  slot : Option Nat := none
  cont : Option Cont := none
  deriving DecidableEq, Repr

/-- A running activation (R52). `pc` is the index of its next body word, 1 to `len`; `hold` counts the cycles, the present one included, in which an instruction of
several cycles holds its slot (R144); `wrote` lists the lanes that it has written to temporaries, which later
activations of the partition may find there at entry. -/
structure Act where
  aid : Nat
  fh : Word
  node : Nat
  ctx : Nat
  hdr : FrameHdr
  nin : Nat
  len : Nat
  dsta : Dst
  dstb : Dst
  pc : Nat
  ins : List InSlot
  temps : List (List Lane)
  preds : List (List Bool)
  width : Nat
  e : Bool
  xs : Bool
  reqSet : Nat
  held : Bool := false
  hold : Nat := 0
  wrote : List Lane := []
  deriving DecidableEq, Repr

/-- A node on a ready list, in the order in which nodes became ready (R47). -/
structure ReadyEntry where
  fh : Word
  node : Nat
  ch : Nat
  since : Nat := 0
  deriving DecidableEq, Repr

-- Elements ----------------------------------------------------------------------------------------------------------

/-- What holds a request slot (R121). A waiting allocation can be promoted (R129). -/
inductive ReqKind
  | alloc | frame | idle | query | cluster | array | walker | phaser | global | engine | command
  deriving DecidableEq, Repr

/-- A request slot in use. -/
structure Req where
  kind : ReqKind
  target : Nat := 0
  ctx : Nat := 0
  pool : Nat := 0
  key : Word := 0
  deriving DecidableEq, Repr

/-- A handle-table entry (R119). -/
structure HEntry where
  v : Bool := false
  pool : Nat := 0
  ctx : Nat := 0
  gen : Nat := 1
  cons : Nat := 0
  fe : Bool := false
  esc : Bool := false
  base : Nat := 0
  size : Nat := 0
  deriving DecidableEq, Repr

/-- A pool of a context (R118). -/
structure Pool where
  base : Nat := 0
  size : Nat := 0
  esc : Nat := 0
  deriving DecidableEq, Repr

/-- A context-store entry (R118), its fault policy (R273) and, as the model's own marks,
the region whose stack wrote it, whether a stack is resident in it, and whether that stack runs with service privilege (R317). -/
structure CtxEntry where
  wbase : Nat := 0
  wlen : Nat := 0
  lmax : Nat := 0
  bypl : Nat := 4
  mask : BitVec 16 := 0
  trap : Dst := Dst.none
  idle : Dst := Dst.none
  pv : BitVec 4 := 0
  pools : List Pool := [{}, {}, {}, {}]
  fpol : Nat := 0
  region : Nat := 0
  live : Bool := false
  service : Bool := false
  deriving DecidableEq, Repr

/-- A request for storage (R126, R137) at the absolute element `target`. `unit` marks a walker's request (cluster, unit); `idle` an idle-frame request (R163); `put`
is the token to deliver into the new frame; `hdr` the header the grant writes. -/
structure AllocReq where
  org : Org
  target : Nat
  unit : Option (Nat × Nat) := none
  idle : Bool := false
  ctx : Nat
  pool : Nat
  gran : Nat
  alog : Nat
  cons : Nat
  key : Word
  hdr : Option FrameHdr := none
  put : Option Token := none
  bypass : Nat := 0
  deriving DecidableEq, Repr

/-- The state of a third of a local store (R125); a waking third becomes ON at a time in nanoseconds of the wall clock. -/
inductive Third
  | on | off
  | waking (at_ : Nat)
  deriving DecidableEq, Repr

/-- An entry of an element's error log (R132). -/
structure ErrLog where
  array : Nat
  ue : Bool
  ovf : Bool
  ctx : Nat
  syn : Nat
  count : Nat
  addr : Nat
  deriving DecidableEq, Repr

/-- A byte that an access moves: its global address, the local byte it moves to or from, the bits of it that move, and their value. -/
structure Piece where
  va : Nat
  la : Nat := 0
  mask : Byte := 0xFF
  val : Byte := 0
  deriving DecidableEq, Repr

/-- An atomic operation's work at home (R243). -/
structure AtomOp where
  fn : Nat
  ty : Ty
  v : DWord
  tail : BitVec 2 := 0
  cas : Option DWord := none
  fetch : Bool := false
  deriving DecidableEq, Repr

/-- A translation of one page (R210): virtual base, size, physical or host base, tier, NW, NC. -/
structure Leaf where
  va : Nat
  size : Nat
  pa : Nat
  tier : Nat
  nw : Bool
  nc : Bool
  deriving DecidableEq, Repr

/-- What an entry of the memory queue does. Cluster accesses, fences, and a FREE or TFUL on its way to element `target` stand in it as marks of the order (R135,
R219, R220, R225); `stl` is a local store that an earlier access holds back from other observers (R219). -/
inductive AccKind
  | load (c : Option Nat)
  | store
  | atomic (op : AtomOp)
  | futn
  | fres (v : Word)
  | freg (k : Cont)
  | clean (va len : Nat)
  | pref (home : Bool)
  | inval (va len : Nat)
  | ldc (target c : Nat)
  | stc (target : Nat)
  | stl
  | freed (target : Nat)
  | fence
  | acq (ph : Word)
  | rel (ph : Word)
  deriving DecidableEq, Repr

/-- An access of an element's memory queue, in issue order. `xl` holds the translations obtained, `done` the lines already performed,
`walk` that a walk is pending for its next page, `wait` that it waits in the fault queue, `out` that it has left and waits for its acknowledgement; `joined` lists
the contributors of a merged atomic, by element and place in the issue order, and `alone` is its own operation (R206, R227). `left` says that it had left its cluster
when its partition was frozen (R293). -/
structure Acc where
  org : Org
  kind : AccKind
  aq : Bool := false
  rl : Bool := false
  scope : Nat := 0
  pcs : List Piece := []
  done : List Nat := []
  xl : List Leaf := []
  walk : Bool := false
  wait : Bool := false
  out : Bool := false
  joined : List (Nat × Nat) := []
  alone : Option AtomOp := none
  left : Bool := false
  deriving DecidableEq, Repr

/-- A COPY, GATH or SCAT command (R239 to R241). -/
inductive EngKind
  | copy (dl sl cv : Bool) (ts ty : Ty) (rm : Nat) (dst src : DWord) (n : Nat) (rng : Word)
  | gath (c : Option Nat) (pcs : List Piece)
  | scat (lanes : List (List Piece))
  deriving DecidableEq, Repr

/-- A command in a copy engine. `at_` is its next line (COPY) or lane (SCAT), `started` that it is one of the four that run, `written`
the bytes written, `exc` that an element raised, `poison` the code of a fault under POISON. -/
structure EngCmd where
  org : Org
  kind : EngKind
  aq : Bool
  rl : Bool
  scope : Nat
  started : Bool := false
  at_ : Nat := 0
  written : Nat := 0
  exc : Bool := false
  xl : List Leaf := []
  walk : Bool := false
  wait : Bool := false
  poison : Option Nat := none
  finished : Bool := false
  deriving DecidableEq, Repr

/-- A cluster access (R187): reads come back as bytes at C, writes carry masked bytes. -/
structure ClusAcc where
  target : Nat
  write : Bool
  pcs : List Piece
  c : Nat
  deriving DecidableEq, Repr

/-- An array instruction's message (R176). -/
inductive ArrOp
  | mcfg (g rows cols n m : Nat) (af wf f : Ty)
  | mbind (a d : Word)
  | mfreeOp
  | mfreeCfg
  | mdrn (rm : Nat) (after : Bool)
  | mstat
  | scsnd (h : Word)
  | scpr (k : Nat)
  | zskp (m : Nat)
  deriving DecidableEq, Repr

/-- A phaser message (R168). A wait carries its waiter, the phase waited for and AQ. -/
inductive PhOp
  | reg (mode : Nat)
  | sig (sp : Word)
  | drop (mode : Nat) (sp : Word)
  | wait (q : Word) (k : Cont) (aq : Bool)
  | sigWait (sp : Word) (q : Word) (k : Cont) (aq : Bool)
  deriving DecidableEq, Repr

/-- A launch record (R156). -/
structure LaunchRec where
  hseed : Nat := 0
  done : Nat := 0
  args : Nat := 0
  org : List Nat := []
  tile : List Nat := []
  ext : List Nat := []
  dims : Nat := 0
  order : Nat := 0
  entry : Nat := 0
  port : Nat := 0
  colq : Nat := 0
  ctx : Nat := 0
  region : Nat := 0
  nslot : Nat := 0
  place : Bool := false
  split : Bool := false
  donek : Bool := false
  rsv : Bool := false
  deriving DecidableEq, Repr

/-- A dispatch entry as an element hands it to the dispatch engine (R344, R345): header bits, payload pointer, table address, AQ. -/
structure DispCmd where
  hdr : Nat
  ptr : Nat
  table : Nat
  aq : Bool
  deriving DecidableEq, Repr

/-- A COLL command (R350): the values of its operands. -/
structure CollCmd where
  kind : Nat
  ty : Ty
  rm : Nat
  aq : Bool
  rl : Bool
  desc : Nat
  src : Nat
  dst : Nat
  n : Nat
  deriving DecidableEq, Repr

/-- What a send queue holds, and what travels. -/
inductive Msg
  | tok (t : Token)
  | alloc (r : AllocReq)
  | grant (r : AllocReq) (h : Word) (base : Nat)
  | refuse (r : AllocReq) (code : Nat)
  | promote (fromElem : Nat) (slot : Nat) (unit : Option (Nat × Nat)) (ctx pool : Nat) (key : Word)
  | free (o : Org) (h : Word) (k : Nat)
  | hold (o : Org) (h : Word) (k : Nat)
  | tful (o : Org) (h : Word) (full : Bool)
  | aqry (o : Org) (kind : Nat) (a : Word) (pool : Nat)
  | reply (o : Org) (t : Option Token)
  | refused (o : Org) (code : Nat)
  | notice (o : Org)
  | clusAcc (o : Org) (c : ClusAcc)
  | clusRep (o : Org) (c : ClusAcc) (code : Nat)
  | mwld (o : Org) (row col : Nat) (off : Nat) (data : List Byte) (last fin : Bool)
  | arr (o : Org) (op : ArrOp)
  | splitReq (o : Org) (d unit : Nat) (near : Bool) (ctx region at_ : Nat)
  | split (o : Org) (unit : Nat) (thief : Option Nat) (resUnit : Nat) (ctx region : Nat)
  | splitRes (o : Org) (code : Nat) (resUnit : Nat) (rec : LaunchRec) (lo hi : Nat) (pid : Nat)
  | wstat (o : Org) (unit : Nat)
  | ph (o : Org) (num : Nat) (op : PhOp) (rl : Bool) (scope : Nat)
  | link (k : Cont) (w : DWord)
  | release (k : Cont) (phase : Word) (regs : List (Nat × Nat)) (acq : List DWord) (chain : Bool)
  | bind (o : Org) (num : Nat) (base len : DWord) (undo : Bool)
  | engine (c : EngCmd)
  | disp (o : Org) (c : DispCmd) (scope : Nat)
  | dflsh (o : Org) (mod : Nat) (all : Bool)
  | coll (o : Org) (c : CollCmd) (scope : Nat)
  | kick (o : Org) (f q : Nat) (w : Word)
  | lnch (o : Org) (q : Nat) (n : Nat) (pkts : List (List Byte))
  | sysc (o : Org) (v : Nat) (a : DWord)
  | globRep (o : Org) (a : AccKind) (pcs : List Piece)
  | ack (o : Org) (payload : DWord)
  | mreq (o : Org) (line pa : Nat)
  | refill (target list : Nat) (o : Org) (back : Bool)
  | frost
  deriving DecidableEq, Repr

/-- An entry of an element's send queue (R145, R220). `scope` is the scope an engine command or an ordering token waits at; `otok`
marks an OTOK token, which waits for engine completions as well (R233); `paid` the token of an LDC that a section instance holds, which was counted as sent at issue
(R232, R279). -/
structure SendItem where
  org : Org
  msg : Msg
  scope : Option Nat := none
  otok : Bool := false
  paid : Bool := false
  deriving DecidableEq, Repr

/-- An instance of an ordered section (R231, R232): `buf` lists (element × 2^19 + address, mask, byte), `closed` that OEND executed, `wait`
that it was squashed and has not fired again, `direct` that it runs unbuffered when it does; `stcs` lists its STCs, with their target and the places of their bytes in `buf`, `reach`
marks the banks that it stored to unbuffered, and `from_` is the issue place of its OSEC. -/
structure Sect where
  num : Nat
  ctx : Nat
  fh : Word
  key : Word
  node : Nat
  ins : List InSlot
  buf : List (Nat × Byte × Byte) := []
  sig : BitVec 256 := 0
  hold : List SendItem := []
  closed : Bool := false
  direct : Bool := false
  wait : Bool := false
  stcs : List (Org × Nat × Nat × Nat) := []
  reach : BitVec 256 := 0
  from_ : Nat := 0
  deriving DecidableEq, Repr

/-- The handler of a route class at an element (R198). -/
structure ClassEnt where
  node : Nat := 0
  ch : Nat := 0
  valid : Bool := false
  deriving DecidableEq, Repr

/-- A change that a word makes in the cycle after it (R147, R323): MASK and BYPL of a context, IDLE_CYCLES, BUS_ROW, BUS_COL, BRK_EN. -/
inductive Late
  | mask (ctx : Nat) (set : BitVec 16) (on : Bool)
  | bypl (ctx v : Nat)
  | idleCycles (v : BitVec 16)
  | busRow (v : Byte)
  | busCol (v : Byte)
  | brkEn (v : Bool)
  | ended (seq aid cycle : Nat)
  deriving DecidableEq, Repr

/-- What an instruction of several cycles has still to send (R146, R179): the activation, the tokens of an MCAST with their origins, and the flits of an MWLD. -/
structure Sending where
  aid : Nat
  toks : List (Org × Token) := []
  flits : List Msg := []
  deriving DecidableEq, Repr

/-- How long an injected flip stands (R309): until the next access, at every access, or, once a write has stored its word flipped, in the word. -/
inductive FlipMode
  | once | sticky | stored
  deriving DecidableEq, Repr

/-- An injected storage error (R309): the array by INJECT's number, the word's place in it, and the flip mask over the 72 data and check bits. -/
structure Flip where
  array : Nat
  at_ : Nat
  mask : Nat
  mode : FlipMode := .once
  deriving DecidableEq, Repr

/-- An element (R117). `allocNext` is the first cycle in which the allocator may grant again: a grant sees the state of its cycle's start
(R128). `wdrop` says that the weight buffer is unbound at the end of the firing in progress, `wdirty` that a bound one was written, `wdisc` the
MWLDs, by issuer and place in its issue order, of which a flit was discarded (R171, R179, R182). `wordNext` and `startNext` are the first cycles in which it may issue a word and start a node again (R122, R144), `late` what the
cycle's words change in the next one, and `sending` what its instructions of several cycles have still to send. `perf` holds PERF 1 to 7 by 8 × partition slot + counter
(R326): two tenants of an element count apart (log 101). `wrote` lists, with their context, the lanes that ended activations wrote to temporaries (R52). `ecc` lists the
errors injected into its own storage, by array of R132 and index (R309). -/
structure Elem where
  nodes : Table NWord := .empty
  ctxs : Table CtxEntry := .empty
  seqs : List (Option Act) := [none, none]
  ready : List ReadyEntry := []
  reqs : List (Option Req) := [none, none, none, none, none, none, none, none]
  handles : Table HEntry := .empty
  lists : Table (List AllocReq) := .empty
  win : Table Nat := .empty
  lastList : Nat := 31
  allocNext : Nat := 0
  mem : List Host.Cell := []
  thirds : List Third := [.on, .on, .on]
  rng : Word := 1
  errlog : List ErrLog := []
  idleCycles : BitVec 16 := 1024
  startCount : Nat := 0
  busRow : Byte := 0
  busCol : Byte := 0
  sysMode : Bool := false
  brkEn : Bool := false
  perf : Table DWord := .empty
  lastBusy : Nat := 0
  idle : List Word := []
  sendq : List SendItem := []
  memq : List Acc := []
  aidNext : Nat := 0
  seqNext : Nat := 0
  sent : Table Word := .empty
  recv : Table Word := .empty
  classes : Table ClassEnt := .empty
  sects : List Sect := []
  wbuf : Option Word := none
  wdrop : Bool := false
  wdirty : Bool := false
  wdisc : List (Nat × Nat) := []
  lastIssued : Nat := 1
  wordNext : Nat := 0
  startNext : Nat := 0
  late : List Late := []
  sending : List Sending := []
  wrote : List (Nat × Lane) := []
  ecc : List Flip := []
  deriving DecidableEq, Repr

-- Clusters ----------------------------------------------------------------------------------------------------------

/-- A read-cache line (R155): its bytes, its poisoned words (R205), and a stamp that rises with its last use in its set. -/
structure RcLine where
  ts : Nat
  line : Nat
  data : List Byte
  bad : List Nat := []
  used : Nat := 0
  deriving DecidableEq, Repr

/-- A TLB entry (R211). -/
structure TlbEnt where
  own : Nat
  ts : Nat
  leaf : Leaf
  deriving DecidableEq, Repr

/-- A bind-table entry (R222); `base` and `len` count 128-byte lines. -/
structure BindEnt where
  phn : Nat
  ts : Nat
  base : Nat
  len : Nat
  deriving DecidableEq, Repr

/-- A walker unit (R161); `hi` is END, `reqs` the unit's own eight request slots (R162), `next` the first cycle in which the unit may emit again: it emits once
in a cycle, and not after a split of that cycle (R162, R164). -/
structure Walker where
  lr : LaunchRec := {}
  hi : Nat := 0
  cursor : Nat := 0
  home : Nat := 0
  out : Nat := 0
  res : Bool := false
  v : Bool := false
  reqs : List (Option Req) := [none, none, none, none, none, none, none, none]
  next : Nat := 0
  deriving DecidableEq, Repr

/-- A phaser (R166) with the links of its waiters that asked for an acquire, and the cycle in which its next completion check is due when that
check could pass (R169). -/
structure Phaser where
  phase : Word := 0
  exp : BitVec 16 := 0
  arr : BitVec 16 := 0
  arrn : BitVec 16 := 0
  adj : BitVec 16 := 0
  hv : Bool := false
  head : BitVec 47 := 0
  acq : List DWord := []
  due : Option Nat := none
  deriving DecidableEq, Repr

/-- What the firing in progress adds to its array when it ends (R181, R184): the accumulators, the exception bit, and SKIPS. -/
structure FireRes where
  acc : Table Lane := .empty
  xb : Bool := false
  skips : Nat := 0
  deriving DecidableEq, Repr

/-- A configured array (R178 to R185); `own` is the partition slot whose MCFG made it. `bind` is the bound operation with the word that bound it; `used` the scale tile of the firing in progress and `fresh` that SCSND has named
another since it started; `res` is what that firing leaves when it ends; accumulators are keyed m × N + n. -/
structure ArrEnt where
  own : Nat := 0
  origin : Nat
  rows : Nat
  cols : Nat
  n : Nat
  m : Nat
  af : Ty
  wf : Ty
  f : Ty
  bind : Option (Word × Word × Org) := none
  scn : Option Word := none
  used : Option Word := none
  fresh : Bool := false
  fir : Bool := false
  firMask : Nat := 0xFF
  firRate : Nat := 0
  xb : Bool := false
  fires : Nat := 0
  skips : Nat := 0
  mask : Nat := 0xFF
  rate : Nat := 0
  acc : Table Lane := .empty
  res : FireRes := {}
  wfree : List Nat := []
  deriving DecidableEq, Repr

/-- A message waiting at an array controller; `drain` says that an MDRN with `after` has passed its first wait (R183). -/
structure ArrMsg where
  org : Org
  op : ArrOp
  drain : Bool := false
  deriving DecidableEq, Repr

/-- A hedge entry (R289). -/
structure Hedge where
  v : Bool := false
  own : Nat := 0
  orgx : Nat := 0
  orgy : Nat := 0
  w : Nat := 0
  h : Nat := 0
  shr : Nat := 0
  deriving DecidableEq, Repr

/-- A route-class entry of a router (R198). -/
structure RouteEnt where
  prio : Nat := 2
  mode : Nat := 0
  iq : Nat := 0
  tree : Nat := 0
  deriving DecidableEq, Repr

/-- A gateable way group: on, off, or waking until a time (R155, R204). -/
inductive Ways
  | on | off
  | waking (at_ : Nat)
  deriving DecidableEq, Repr

/-- A cluster (R151 to R176). `arrNext` is the first cycle in which the array controller may act: it sees the tags of its cycle's start (R181);
`msgNext` the first in which it may apply a message: those of a cycle go before the cycle's firings (R183). -/
structure Cluster where
  rc : List RcLine := []
  ways : List Ways := [.on, .on, .on, .on]
  tlb : List TlbEnt := []
  binds : List BindEnt := []
  walkers : Table Walker := .empty
  phasers : Table Phaser := .empty
  arrays : Table ArrEnt := .empty
  arrMsgs : List ArrMsg := []
  arrNext : Nat := 0
  msgNext : Nat := 0
  noCfg : List Nat := []
  eng : List EngCmd := []
  hedges : List Hedge := [{}, {}]
  routes : Table RouteEnt := .empty
  deriving DecidableEq, Repr

/-- A line of a home slice's cache (R204): its way and its number, counted in 128-byte lines of physical memory. Its bytes stand in `State.phys`. -/
structure HcLine where
  way : Nat
  line : Nat
  dirty : Bool
  deriving DecidableEq, Repr

/-- A home slice (R204): its way groups, the lines that it caches, the line used last at the end, and the futures registered by an acquiring FREG, as physical
address and state word (R230). -/
structure Slice where
  ways : List Ways := [.on, .on, .on, .on]
  lines : List HcLine := []
  acq : List (Nat × Nat) := []
  deriving DecidableEq, Repr

/-- A page-walk request in an I/O die's pool (R212): owner slot and page (va[56:16]), the clusters that wait, and whether a walker has it. -/
structure WalkReq where
  own : Nat
  page : Nat
  clus : List Nat
  on : Bool := false
  deriving DecidableEq, Repr

/-- A pool of page walkers (R212): its misses, in arrival order, the partition served last, and its cache of non-leaf entries by owner and address. -/
structure WalkPool where
  reqs : List WalkReq := []
  last : Nat := 127
  cache : List (Nat × Nat) := []
  deriving DecidableEq, Repr

/-- An end point of the networks. -/
inductive Place
  | elem (a : Nat)
  | clus (c : Nat)
  | slice (k : Nat)
  | cp
  | disp (iod : Nat)
  deriving DecidableEq, Repr

/-- Where a flit stands: a candidate at a router, on a link, or at its endpoint (R200, R201). -/
inductive FlitAt
  | cand | link | here
  deriving DecidableEq, Repr

/-- A message in flight. `route` lists the outputs still to cross, `port` the output that it crossed last, in virtual channel `vc`, `longs` how many long links of its destination die lie
behind it (R197), `stamp` numbers the crossings, `since` is the cycle of its arrival where it stands, `age` the counter of R200 and `sat` when it saturated; `chk` is the check word that the
injecting router wrote, and `noise` the bits that links have flipped (R201); `own` is the owner tag (R289). -/
structure Flight where
  src : Place
  dst : Place
  vn : Nat
  cls : Nat
  own : Nat
  msg : Msg
  route : List Nat := []
  port : Nat := 0
  stamp : Nat := 0
  at_ : FlitAt := .here
  age : Nat := 0
  sat : Option Nat := none
  vc : Nat := 0
  longs : Nat := 0
  since : Nat := 0
  chk : Nat := 0
  noise : Nat := 0
  deriving DecidableEq, Repr

-- The package -------------------------------------------------------------------------------------------------------

/-- A ring of records (R302): base address, enable, size code, written, read and lost counts. -/
structure Ring where
  base : Nat := 0
  en : Bool := false
  sz : Nat := 0
  wr : Word := 0
  rd : Word := 0
  ovf : Word := 0
  deriving DecidableEq, Repr

/-- Interrupt coalescing of a vector (R257); `since` is the time at which PEND left 0. -/
structure Icb where
  pend : Nat := 0
  time : Nat := 0
  cnt : Nat := 1
  since : Nat := 0
  deriving DecidableEq, Repr

/-- A packet of a replay log (R306): its index, bytes, whether it has completed, and the records whose completion was performed. -/
structure LogEnt where
  index : Word
  bytes : List Byte
  done : Bool := false
  recs : List Nat := []
  deriving DecidableEq, Repr

/-- A queue (R258, R259): its descriptor, state, error code, kept index K, READ, FENCE, the decisions that passed it over (R277), `empty` that
slot READ was read with V = 0 (R261), its replay log, and the packets still to replay (R306). -/
structure Queue where
  qbase : Nat := 0
  qcb : Nat := 0
  en : Bool := false
  tslot : Nat := 0
  sz : Nat := 0
  prio : Nat := 0
  vec : Nat := 0
  state : Nat := 0
  code : Nat := 0
  kept : Word := 0
  read : Word := 0
  fence : Word := 0
  passed : Nat := 0
  empty : Bool := false
  log : List LogEnt := []
  logOvf : Bool := false
  replay : List LogEnt := []
  deriving DecidableEq, Repr

/-- A function: a VF's or the PF's kick page, error page and MSI-X bits (R253 to R258, R302 to R304). -/
structure Fn where
  bound : Bool := false
  queues : Table Queue := .empty
  pending : BitVec 16 := 0
  ering : Ring := {}
  mring : Ring := {}
  vuesta : Word := 0
  vuemsk : Word := 0
  vcesta : Word := 0
  vcemsk : Word := 0
  verrvec : Nat := 0
  vfep : Nat := 0
  icbs : Table Icb := .empty
  vmask : Table Bool := .empty
  vpend : Table Bool := .empty
  deriving DecidableEq, Repr

/-- A running graph (R270, R271): next slot, re-arms made, whether it left, and the first error code. -/
structure GraphRun where
  slot : Nat := 0
  arms : Nat := 0
  left : Bool := false
  err : Option Nat := none
  deriving DecidableEq, Repr

/-- The route of a class that a stack image gives (R273): the fields of R198 and, by relative cluster 64Y + X, the non-zero TREE masks. -/
structure ClassRoute where
  cls : Nat
  prio : Nat
  mode : Nat
  iq : Nat
  tree : Table Nat := .empty
  deriving DecidableEq, Repr

/-- A context of a stack image (R273): its index, its entry and the words of its window. -/
structure CtxImg where
  cidx : Nat
  entry : CtxEntry
  words : List NWord
  deriving DecidableEq, Repr

/-- A stack image that passed every check (R275): its contexts in order, routes, class handlers and launch records. -/
structure StackImg where
  ctxs : List CtxImg
  routes : List ClassRoute
  classes : List (Nat × ClassEnt)
  recs : List LaunchRec
  deriving DecidableEq, Repr

/-- A started packet (R263 to R272). `fn` and `q` name its queue and `slot` the partition it serves; `fault` is the code of a fault of its own, `done`
that its own work is over, `mute` that a replay makes no completion updates, `muted` the records whose completion is not performed again
(R306), `stack` that a LAUNCH has its stack, `parent` and `graph` the packets that wait for it, `img` the checked image of a LAUNCH that waits for
its region, `detail` that of a queue record (R305), and `at_` the bytes that a COPY has moved. -/
structure Pkt where
  fn : Nat
  q : Nat
  slot : Nat
  index : Word
  bytes : List Byte
  parent : Option Nat := none
  graph : Option Nat := none
  gslot : Nat := 0
  kids : Nat := 0
  kidErr : Bool := false
  done : Bool := false
  fault : Option Nat := none
  mute : Bool := false
  muted : List Nat := []
  stack : Bool := false
  service : Bool := false
  run : Option GraphRun := none
  img : Option StackImg := none
  detail : Nat := 0
  at_ : Nat := 0
  deriving DecidableEq, Repr

/-- A packet core (R276, R277): the function it serves and the decisions left of its weight. -/
structure PktCore where
  fn : Nat := 0
  credit : Nat := 0
  deriving DecidableEq, Repr

/-- A stack that runs in a region (R264, R275): its LAUNCH packet, rectangle in elements, context indices in order with the place of the
current one, routes, records (those of the LAUNCH with their index), the records that still wait for a walker unit (R161), the fault of a DONE write
(R356), and whether a HALT ended it (R327). -/
structure StackRun where
  pid : Nat
  x0 : Nat
  y0 : Nat
  w : Nat
  h : Nat
  ctxs : List Nat
  pos : Nat := 0
  prio : Nat := 0
  dist : Nat := 0
  routes : List ClassRoute := []
  recs : List (Option Nat × LaunchRec) := []
  arm : List LaunchRec := []
  err : Option Nat := none
  halted : Bool := false
  service : Bool := false
  deriving DecidableEq, Repr

/-- A region of a partition with its sequencer (R278 to R281). `snap` is a horizon snapshot that is not yet broadcast, with its cycle;
`hzSame` counts equal broadcasts (R131); `wave` holds the sums of the last wave and `waveAt` its cycle (R280); `parkAt` is the cycle of the
park request and `next` the stack it makes way for; `lastEvent` is the time of the last progress event (R307). -/
structure Region where
  used : Bool := false
  x0 : Nat := 0
  y0 : Nat := 0
  w : Nat := 0
  h : Nat := 0
  cur : Option Nat := none
  run : Option StackRun := none
  parked : Option StackRun := none
  parking : Bool := false
  parkAt : Nat := 0
  next : Option StackRun := none
  horizon : Option Word := none
  snap : Option (Option Word × Nat) := none
  snapAt : Nat := 0
  hzSame : Nat := 0
  granted : Bool := false
  wave : Option (Nat × Nat) := none
  waveAt : Nat := 0
  lastEvent : Nat := 0
  cursors : Table Word := .empty
  deriving DecidableEq, Repr

/-- The state of a partition slot (R284, R293 to R296). -/
inductive Life
  | free | live | frosted | evicted
  deriving DecidableEq, Repr

/-- A mapping of a slot (R290): virtual and physical or host address, size, tier, NW, NC. -/
structure Mapping where
  va : Nat
  pa : Nat
  size : Nat
  tier : Nat
  nw : Bool
  nc : Bool
  deriving DecidableEq, Repr

/-- An export window (R342). -/
structure Window where
  v : Bool := false
  perm : Nat := 0
  pmod : Nat := 0
  pslot : Nat := 0
  base : Nat := 0
  len : Nat := 0
  deriving DecidableEq, Repr

/-- What waits in a fault queue (R213, R303), by its element and place in the issue order: `kind` 0 is an access of an element, 1 a command of a copy
engine, 2 a DISP, 3 a COLL. -/
structure FqWait where
  elem : Nat
  seq : Nat
  kind : Nat
  deriving DecidableEq, Repr

/-- A partition slot: rectangle in clusters (R285), tenancy (R291), limits, tables (R208, R290), fault queue (R303), times and meter (R297, R298) in
sevenths of a nanosecond and in byte-sevenths, the last record's digest and end (R299), waiting FRZR continuations (R328), cycle base of
PERF 0 and what another module had counted (R297, R326), the cycle at which it froze, and export windows (R342). `live` says that it holds its clusters. -/
structure Part where
  life : Life := .free
  live : Bool := false
  frozen : Bool := false
  x0 : Nat := 0
  y0 : Nat := 0
  w : Nat := 0
  h : Nat := 0
  ts : Nat := 0
  shr : Nat := 3
  weight : Nat := 1
  quota : Nat := 1
  period : Nat := 1
  hang : Nat := 2000
  fqBase : Nat := 0
  fqSz : Nat := 0
  pasid : Nat := 0
  root : Nat := 0
  maps : List Mapping := []
  tableNext : Nat := 0
  fqw : Word := 0
  fqr : Word := 0
  fqWait : List FqWait := []
  guest : Nat := 0
  run : Nat := 0
  energy : Nat := 0
  gddr : Nat := 0
  lpddr : Nat := 0
  dma : Nat := 0
  rosgen : Nat := 0
  seqNo : Nat := 0
  prev : Nat := 0
  tEnd : Nat := 0
  frz : List Org := []
  cycBase : Nat := 0
  cycAdd : Nat := 0
  frozeAt : Nat := 0
  exports : Table Window := .empty
  deriving DecidableEq, Repr

/-- A usage record that waits for a ring (R301): its ring's function, body and digest. -/
structure MeterRec where
  fn : Nat
  bytes : List Byte
  deriving DecidableEq, Repr

-- The fabric -----------------------------------------------------------------------------------------------------------

/-- A slot of a port's replay buffer (R336): its SEQ, its flit's message and part, when it was last sent, and the NAKs it has had, and damage to its
storage: correctable or not (R337). -/
structure TxSlot where
  seq : BitVec 12
  msg : RMsg
  part : Nat
  sentAt : Nat
  naks : Nat := 0
  ce : Bool := false
  ue : Bool := false
  deriving DecidableEq, Repr

/-- A Rosgen port (R335 to R338, R352): its state (0 down, 1 training, 2 up, 3 DISABLED), peer, replay buffer, reorder buffer, the SEQ released last,
the missing sequence numbers already NAKed, what it is to send ahead of new flits, the parts of messages being received, the failed messages of which more flits may come (source
module, engine, MID and the part released last), and its counts. -/
structure Port where
  state : Nat := 0
  peer : Nat := 0
  next : BitVec 12 := 0
  window : List TxSlot := []
  todo : List (RMsg × Nat) := []
  urgent : List RKind := []
  resend : List (BitVec 12) := []
  buf : List RFlit := []
  last : BitVec 12 := 0xFFF
  naked : List (BitVec 12) := []
  asm : List (RMsg × Nat) := []
  dead : List (Nat × Nat × BitVec 16 × Nat) := []
  replays : Nat := 0
  voids : Nat := 0
  deriving DecidableEq, Repr

/-- A source engine's descriptor of a message (R339): kept until the end-to-end acknowledgement; `tries` counts retransmissions. -/
structure SrcMsg where
  die : Nat
  msg : RMsg
  tries : Nat := 0
  deriving DecidableEq, Repr

/-- A message that a destination has received whole or that failed, and waits for its turn in MID order (R339). `adm` is the verdict on its inbound
accesses (R342): none before it, some 0 when admitted, else the code; `res` lists the results of its entries; `eff` says that it took effect. -/
structure RxMsg where
  msg : RMsg
  failed : Bool
  adm : Option Nat := none
  res : List (Nat × Option (BitVec 8)) := []
  eff : Bool := false
  deriving DecidableEq, Repr

/-- A dispatch entry at an engine (R345, R346) with what its table gave at its append: its number, issuer, slot, header, payload pointer, table, NEXP, P,
OCAP, O, its list, the list of its first choice, SC, whether it has been sent, and the DFLSH that covers it. `wait` says what waits in the fault queue
(R213): 0 nothing, 1 its table, 2 its payload, 3 the table for its second choice, 4 its overflow; `ovfK` its place in the overflow list. -/
structure DispEnt where
  id : Nat
  org : Org
  slot : Nat
  hdr : Nat
  ptr : Nat
  table : Nat
  nexp : Nat
  bytes : Nat
  ocap : Nat
  ovfAt : Nat
  list : Nat
  first : Nat
  ref : Nat
  sc : Bool := false
  sent : Bool := false
  flush : Option Nat := none
  wait : Nat := 0
  ovfK : Option Nat := none
  deriving DecidableEq, Repr

/-- An entry with its final outcome that no DFLSH has covered (R348): the lists it was appended to, and 0 to 3 for delivered at the first choice, at the
second, overflowed, lost. -/
structure DispDone where
  slot : Nat
  lists : List Nat
  kind : Nat
  deriving DecidableEq, Repr

/-- A DFLSH at an engine (R348): the outcomes counted so far, by kind. -/
structure Flush where
  id : Nat
  org : Org
  slot : Nat
  counts : List Nat
  deriving DecidableEq, Repr

/-- A dispatch engine (R343 to R348); `held` lists the outcomes, with their entries' numbers, that wait behind one of the same list and destination module whose second choice
or overflow waits in the fault queue (R354). -/
structure DispEng where
  ents : List DispEnt := []
  held : List (Nat × Option (BitVec 8)) := []
  flushes : List Flush := []
  settled : List DispDone := []
  next : Nat := 0
  deriving DecidableEq, Repr

/-- A COLL at a collective engine (R349 to R351): command, group, place in the slot's sequence on the group, TOPO, members' references, rank, its own
elements, its tree sum, the partials and final chunks received, whether a sum or a store raised, whether it has stored elements (R79), and the final stores that wait in the fault queue
(R213); `frags` holds, by sender, phase and chunk, what has come of a vector that several messages carry (R339), and `late` the messages whose landing area faulted and
waits there. -/
structure CollRun where
  org : Org
  slot : Nat
  cmd : CollCmd
  gid : Word
  seqNo : Nat
  topo : Nat
  members : List Nat
  rank : Nat
  own : List (Word × BitVec 2)
  acc : List (Word × BitVec 2)
  parts : Nat := 0
  got : List Nat := []
  exc : Bool := false
  wrote : Bool := false
  owed : List (Nat × List (Word × BitVec 2)) := []
  frags : List (Nat × List (Word × BitVec 2)) := []
  late : List RMsg := []
  deriving DecidableEq, Repr

/-- A COLL that waits in the fault queue before it has read its operands (R213): `run` once its group is known. -/
structure CollStart where
  org : Org
  slot : Nat
  cmd : CollCmd
  run : Option CollRun
  deriving DecidableEq, Repr

/-- A collective engine (R349 to R352): its COLLs, those that wait to read their operands, and by slot the completed ones. -/
structure CollEng where
  runs : List CollRun := []
  starting : List CollStart := []
  completed : Table Nat := .empty
  deriving DecidableEq, Repr

/-- How many COLLs a slot has issued on a group (R349). -/
structure CollCount where
  slot : Nat
  gid : Word
  count : Nat
  deriving DecidableEq, Repr

-- Images ---------------------------------------------------------------------------------------------------------------

/-- An eviction image (R295) as data: the bytes that stand in host memory, whether its signature and digest hold, the key of its signature, whether it carries its pages (MOVE), whether this module wrote it
and at which time, the slot and its state, its elements, clusters and flights, its regions, packets and queues, and the bytes and poisoned words of its pages. -/
structure Image where
  bytes : List Byte := []
  slot : Nat := 0
  at7 : Nat := 0
  ok : Bool
  move : Bool
  home : Bool
  key : Nat := 0
  part : Part
  fn : Fn
  elems : List (Nat × Elem)
  clusters : List (Nat × Cluster)
  net : List Flight
  regions : List (Nat × Region)
  pkts : List (Nat × Pkt)
  phys : List Host.Cell
  poison : List Nat
  deriving DecidableEq, Repr

-- The device ------------------------------------------------------------------------------------------------------------

/-- A write to host memory that the host-link unit has accepted and the host has not completed (R218): the store's partition slot, element, activation and place in its
issue order, address and bytes. -/
structure HostStore where
  own : Nat := 0
  elem : Nat
  aid : Nat
  seq : Nat
  at_ : Nat
  bytes : List Byte
  deriving DecidableEq, Repr

/-- What a harvest dump holds (R310): the code of the cause, the slots' shadow state with every element's error log, and the pending writes of the rings. -/
structure Dump where
  cause : Nat
  parts : Table Part
  elems : Table Elem
  clusters : Table Cluster
  net : List Flight
  regions : Table Region
  pkts : Table Pkt
  fns : Table Fn
  waiting : List MeterRec
  deriving DecidableEq, Repr

/-- What the device is doing (R310 to R312): off, in seedling mode, in full service, or harvested with the code of the cause and the leaf that signed the dump. -/
inductive Mode
  | off | seedling | service
  | harvest (cause leaf : Nat)
  deriving DecidableEq, Repr

/-- The admin page (R283) with the words of the command in progress and the time at which it was taken. -/
structure Admin where
  cmd : List Word := List.replicate 16 0
  run : List Word := []
  since : Nat := 0
  busy : Bool := false
  result : Nat := 0
  detail : Word := 0
  vec : BitVec 11 := 0
  deriving DecidableEq, Repr

/-- The device (R300, R301, R308 to R315, R340): mode, P-state, dies admitted, gated and stretched, admin page, PF meter ring, waiting records, the manifest's
vendor-signed section and its retired pages, correctable errors by page, retired pages of the tables' area with their spares, authenticated counter, firmware versions, injected errors in memory and caches, module id and route table. -/
structure Device where
  mode : Mode := .off
  pstate : Nat := 2
  admitted : List Nat := []
  gated : List Nat := []
  droop : List Nat := []
  admin : Admin := {}
  mbase : Nat := 0
  mslots : Nat := 0
  waiting : List MeterRec := []
  manifest : Manifest := {}
  retired : List Nat := []
  pageErrs : Table Nat := .empty
  tablePages : List (Nat × Nat) := []
  leafNo : Nat := 0
  minVersion : Nat := 0
  versions : Table Nat := .empty
  inject : List Flip := []
  modId : Nat := 0
  routes : Table (BitVec 16) := .empty
  frostAsk : List Nat := []
  deriving DecidableEq, Repr

-- Turns -----------------------------------------------------------------------------------------------------------------

/-- Which agent moves: an element issues a body word or starts a node, an event of the opcode table comes about, or the host writes its memory, makes its
addresses fail or answer (R216), completes a store (R218), masks a vector (R257), or puts an eviction image in place or away, a link damages bits of a flit on it (R201), or the storage of a
port's replay slot is damaged (R337). -/
inductive Choice
  | word (elem : Nat)
  | start (elem : Nat)
  | event (i : Instr)
  | hostWrite (addr : Nat) (bytes : List Byte)
  | hostMap (bad : List (Nat × Nat))
  | hostDone (n : Nat)
  | msixMask (fn : Nat) (v : Nat)
  | hostImage (addr : Nat) (img : Option Image)
  | damage (n mask : Nat)
  | spoil (port : Nat) (seq : BitVec 12) (ue : Bool)
  deriving DecidableEq, Repr

/-- A turn of the agenda: the clock cycles since the turn before, and the agent that moves. -/
structure Turn where
  dt : Nat
  what : Choice
  deriving DecidableEq, Repr

/-- The element whose node or word is being run, its sequence slot, and for a start the chosen ready node. -/
structure Cur where
  elem : Nat
  seq : Nat
  rdy : Option ReadyEntry
  deriving DecidableEq, Repr

/-- The machine. `cycle` counts clock cycles and `t7` sevenths of a nanosecond; `agenda` lists the turns to come; `free` is the counter that free values are drawn with;
`quads` holds the quadrants' TLBs; `hops` numbers the crossings of links, `egress` lists the outputs that have picked their winners in this cycle (R200), `drr` holds the
partition that each output of the memory plane served last with the flits that it may still send in its turn (R207), `hurt` the issuers, with the codes, of the fatal
storage errors of the turn in progress (R124, R132), `crossbars` holds the hedge entries of the dies' transit crossbars (R289); `poison` the poisoned words of physical
memory (R205); `hostBad` the host ranges that fail (R216); `hostq` the stores on their way to host memory (R218); `msix` and `rosOut` what was sent out of the module;
`parents` the ring slots that LNCH wrote, with their parents (R272); `mids` the next MID per source engine and destination module; `rxNext` the next MID expected per
source engine (R339); `collIssued` the COLLs issued on each group and `collEarly` the messages of COLLs not yet issued here (R349). -/
structure State where
  cycle : Nat
  t7 : Nat
  agenda : List Turn
  free : Nat
  hurt : List (Org × Nat)
  cur : Option Cur
  elems : Table Elem
  clusters : Table Cluster
  slices : Table Slice
  pools : Table WalkPool
  quads : Table (List TlbEnt)
  net : List Flight
  hops : Nat
  egress : List Nat
  drr : Table (Nat × Nat)
  crossbars : Table (List Hedge)
  phys : List Host.Cell
  host : List Host.Cell
  poison : List Nat
  hostBad : List (Nat × Nat)
  hostq : List HostStore
  msix : List (Nat × Nat)
  parts : Table Part
  fns : Table Fn
  regions : Table Region
  pkts : Table Pkt
  pidNext : Nat
  parents : List (Nat × Nat × Word × Nat)
  cores : List PktCore
  ports : Table Port
  rosOut : List (Nat × RFlit)
  sent : List SrcMsg
  rx : List RxMsg
  mids : Table Nat
  rxNext : Table Nat
  disp : Table DispEng
  coll : Table CollEng
  collIssued : List CollCount
  collEarly : List RMsg
  images : List (Nat × Image)
  dev : Device
  deriving DecidableEq, Repr

/-- The machine right after reset: powered off, its agenda empty; each field at the value that the spec or the log names (log 1, 3, 20 to 22). -/
def State.reset : State :=
  { cycle := 0, t7 := 0, agenda := [], free := 0, hurt := [], cur := none, elems := .empty, clusters := .empty, slices := .empty, pools := .empty,
    quads := .empty, net := [], hops := 0, egress := [], drr := .empty, crossbars := .empty, phys := [], host := [], poison := [], hostBad := [], hostq := [], msix := [], parts := .empty, fns := .empty,
    regions := .empty, pkts := .empty, pidNext := 1, parents := [], cores := List.replicate 6 {}, ports := .empty, rosOut := [], sent := [], rx := [],
    mids := .empty, rxNext := .empty, disp := .empty, coll := .empty, collIssued := [], collEarly := [], images := [], dev := {} }

end Sys2Proof.Machine
end

