-- ==== Sys2Proof/Machine/Ops.lean ====
section
/-! DEFINITION. The named operations of the machine: tables and memories, identifiers (R3, R4, R288), elements and their storage,
frames and slots (R43, R44), ring records (R302, R305), faults (R55, R56), request slots (R121), arrival and readiness (R46 to R49),
and handing messages to the networks. -/

namespace Sys2Proof.Machine

/-- What a step answers. -/
abbrev Out := Host.Outcome State Fault Refusal

-- Tables ------------------------------------------------------------------------------------------------------------

def rowsFind {α : Type} (k : Nat) : List (Nat × α) → Option α
  | [] => none
  | (j, x) :: r => if j = k then some x else rowsFind k r

def rowsPut {α : Type} (k : Nat) (v : α) : List (Nat × α) → List (Nat × α)
  | [] => [(k, v)]
  | (j, x) :: r => if k < j then (k, v) :: (j, x) :: r else if k = j then (k, v) :: r else (j, x) :: rowsPut k v r

def rowsErase {α : Type} (k : Nat) : List (Nat × α) → List (Nat × α)
  | [] => []
  | (j, x) :: r => if j = k then r else (j, x) :: rowsErase k r

namespace Table

def find? {α : Type} (t : Table α) (k : Nat) : Option α := rowsFind k t.rows

def get {α : Type} (t : Table α) (d : α) (k : Nat) : α := (t.find? k).getD d

def put {α : Type} (t : Table α) (k : Nat) (v : α) : Table α := ⟨rowsPut k v t.rows⟩

def erase {α : Type} (t : Table α) (k : Nat) : Table α := ⟨rowsErase k t.rows⟩

def mapVals {α : Type} (t : Table α) (f : Nat → α → α) : Table α := ⟨t.rows.map fun r => (r.1, f r.1 r.2)⟩

def keep {α : Type} (t : Table α) (p : Nat → α → Bool) : Table α := ⟨t.rows.filter fun r => p r.1 r.2⟩

end Table

/-- The index of a free value: no two uses, and no two values of one use, share one. -/
def freeIdx (count use i : Nat) : Nat := (16 * count + use) * 2 ^ 64 + i

-- Memories: canonical lists of (address, byte); an unlisted byte reads 0 (a choice of the model) -----------------------

/-- What an unlisted byte reads as. DESIGN CHOICE (log 3). -/
def Memory.blank : Byte := 0

def Memory.get : List Host.Cell → Nat → Byte
  | [], _ => Memory.blank
  | (j, x) :: r, a => if j = a then x else if a < j then Memory.blank else Memory.get r a

/-- Writing one byte; the canonical form lists no blank byte. -/
def Memory.put : List Host.Cell → Nat → Byte → List Host.Cell
  | [], a, b => if b = Memory.blank then [] else [(a, b)]
  | (j, x) :: r, a, b =>
    if a < j then (if b = Memory.blank then (j, x) :: r else (a, b) :: (j, x) :: r)
    else if a = j then (if b = Memory.blank then r else (a, b) :: r)
    else (j, x) :: Memory.put r a b

/-- Addresses strictly rising from `lo`, no blank byte listed. -/
def Memory.wfFrom : Nat → List Host.Cell → Bool
  | _, [] => true
  | lo, (j, x) :: r => lo ≤ j && x != Memory.blank && Memory.wfFrom (j + 1) r

/-- The canonical form of a memory. -/
def Memory.wf (m : List Host.Cell) : Bool := Memory.wfFrom 0 m

/-- n bytes from address a upward. -/
def Memory.read (m : List Host.Cell) (a : Nat) : Nat → List Byte
  | 0 => []
  | n + 1 => Memory.get m a :: Memory.read m (a + 1) n

def Memory.write (m : List Host.Cell) (a : Nat) : List Byte → List Host.Cell
  | [] => m
  | b :: bs => Memory.write (Memory.put m a b) (a + 1) bs

/-- Bytes as a little-endian number (R17, R60). -/
def leNat : List Byte → Nat
  | [] => 0
  | b :: bs => b.toNat + 256 * leNat bs

/-- The n low bytes of a number, little-endian. -/
def leBytes : Nat → Nat → List Byte
  | 0, _ => []
  | n + 1, k => BitVec.ofNat 8 (k % 256) :: leBytes n (k / 256)

def Memory.readN (m : List Host.Cell) (a n : Nat) : Nat := leNat (Memory.read m a n)

def Memory.writeN (m : List Host.Cell) (a n k : Nat) : List Host.Cell := Memory.write m a (leBytes n k)

/-- Clearing the listed bytes from `lo` to `hi`. -/
def Memory.clear (m : List Host.Cell) (lo hi : Nat) : List Host.Cell := m.filter fun c => c.1 < lo || hi ≤ c.1

/-- Bits [lo + n − 1 : lo] of a number. -/
def bitsOf (x lo n : Nat) : Nat := x / 2 ^ lo % 2 ^ n

/-- Replaces bits [lo + n − 1 : lo] of a number. -/
def setBits (x lo n v : Nat) : Nat := x - bitsOf x lo n * 2 ^ lo + v % 2 ^ n * 2 ^ lo

/-- Masked bits of a byte replaced. -/
def mixByte (old new mask : Byte) : Byte := (old &&& ~~~mask) ||| (new &&& mask)

/-- The ones among the n low bits of a number. -/
def onesIn (x n : Nat) : Nat := ((List.range n).filter fun k => x.testBit k).length

-- Injected storage errors (R309) ----------------------------------------------------------------------------------------

/-- One flipped bit is correctable, more are not. DESIGN CHOICE for three and more, which the spec leaves to the code (log 60). -/
def Flip.ue (f : Flip) : Bool := 2 ≤ onesIn f.mask 72

/-- The flips left after a read of the words that `hit` selects: a read corrects what it can and uses up a ONCE flip. -/
def readFlips (l : List Flip) (hit : Flip → Bool) : List Flip := l.filter fun f => !hit f || f.mode == .sticky || (f.mode == .stored && f.ue)

/-- The flips left after a write of the words that `hit` selects: a ONCE flip is stored with the word, and a stored one is overwritten. -/
def wroteFlips (l : List Flip) (hit : Flip → Bool) : List Flip :=
  l.filterMap fun f => if !hit f then some f else match f.mode with | .once => some { f with mode := .stored } | .sticky => some f | .stored => none

-- Lists -------------------------------------------------------------------------------------------------------------

def setAt {α : Type} (l : List α) (k : Nat) (v : α) : List α := l.set k v

/-- The element k of a list, with a default. -/
def nth {α : Type} (l : List α) (k : Nat) (d : α) : α := (l[k]?).getD d

def dropAt {α : Type} (l : List α) (k : Nat) : List α := l.eraseIdx k

-- Identifiers (R3, R4, R194, R288) ------------------------------------------------------------------------------------

/-- The cluster grid position of an element or cluster id (R3, R194). -/
def gridX (id : Nat) : Nat := bitsOf id 13 5 % 6 * 8 + bitsOf id 11 2 % 2 * 4 + bitsOf id 7 4 % 4

def gridY (id : Nat) : Nat := bitsOf id 13 5 / 6 * 6 + bitsOf id 11 2 / 2 * 3 + bitsOf id 7 4 / 4

/-- The id of element index e of the cluster at a grid position (R3, R194). -/
def idAt (x y e : Nat) : Nat :=
  (y / 6 * 6 + x / 8) * 2 ^ 13 + (y % 6 / 3 * 2 + x % 8 / 4) * 2 ^ 11 + (y % 3 * 4 + x % 4) * 2 ^ 7 + e

def elemIdx (id : Nat) : Nat := bitsOf id 0 7

def elemRow (id : Nat) : Nat := elemIdx id / 12

def elemCol (id : Nat) : Nat := elemIdx id % 12

/-- The number of a cluster: its grid position, row-major over 48 columns. -/
def clusNo (id : Nat) : Nat := gridY id * 48 + gridX id

/-- The id of element index e of cluster number c. -/
def idOfClus (c e : Nat) : Nat := idAt (c % 48) (c / 48) e

/-- The die of a cluster number. -/
def dieOfClus (c : Nat) : Nat := c / 48 / 6 * 6 + c % 48 / 8

-- Elements and clusters of the state ------------------------------------------------------------------------------------

/-- An element after reset: BUS_ROW and BUS_COL are its row and column (R153). -/
def Elem.reset (a : Nat) : Elem := { busRow := BitVec.ofNat 8 (elemRow a), busCol := BitVec.ofNat 8 (elemCol a) }

/-- Counter k of PERF as a partition counts it (R326). -/
def Elem.perfOf (e : Elem) (p k : Nat) : DWord := e.perf.get 0 (8 * p + k)

/-- Adds to an element counter of PERF of a partition (R326); it wraps at 2^64. -/
def Elem.count (e : Elem) (p k n : Nat) : Elem := { e with perf := e.perf.put (8 * p + k) (e.perfOf p k + BitVec.ofNat 64 n) }

namespace State

/-- The device works: it is neither off nor harvested (R310). -/
def up (s : State) : Bool := s.dev.mode == .seedling || s.dev.mode == .service

/-- The device's Rosgen links run (R310, R312). -/
def linked (s : State) : Bool := s.dev.mode == .service

def elem (s : State) (a : Nat) : Elem := s.elems.get (Elem.reset a) a

def setElem (s : State) (a : Nat) (e : Elem) : State := { s with elems := s.elems.put a e }

def modElem (s : State) (a : Nat) (f : Elem → Elem) : State := s.setElem a (f (s.elem a))

def clus (s : State) (c : Nat) : Cluster := s.clusters.get {} c

def setClus (s : State) (c : Nat) (x : Cluster) : State := { s with clusters := s.clusters.put c x }

def modClus (s : State) (c : Nat) (f : Cluster → Cluster) : State := s.setClus c (f (s.clus c))

def part (s : State) (p : Nat) : Part := s.parts.get {} p

def modPart (s : State) (p : Nat) (f : Part → Part) : State := { s with parts := s.parts.put p (f (s.part p)) }

def fn (s : State) (f : Nat) : Fn := s.fns.get {} f

def modFn (s : State) (f : Nat) (g : Fn → Fn) : State := { s with fns := s.fns.put f (g (s.fn f)) }

/-- Region j of partition slot p stands under 8p + j. -/
def region (s : State) (p j : Nat) : Region := s.regions.get {} (8 * p + j)

def modRegion (s : State) (p j : Nat) (g : Region → Region) : State :=
  { s with regions := s.regions.put (8 * p + j) (g (s.region p j)) }

/-- The wall clock in nanoseconds. -/
def now (s : State) : Nat := s.t7 / 7

/-- The hedge entry, of a cluster's two, that covers a context: the only valid one, or tenant slot 0 for contexts 0 to 3 and tenant
slot 1 for 4 to 7 (R289, R291). -/
def hedge (s : State) (c : Nat) (ctx : Nat) : Hedge :=
  let h := (s.clus c).hedges
  let a := nth h 0 {}
  let b := nth h 1 {}
  if a.v && b.v then (if ctx < 4 then a else b) else if a.v then a else b

/-- The hedge entry of a partition slot, as its clusters hold it (R289). -/
def hedgeOf (s : State) (p : Nat) : Hedge :=
  let x := s.part p
  { v := x.live, own := p, orgx := x.x0, orgy := x.y0, w := x.w, h := x.h, shr := x.shr }

/-- Both tenant slots of the cluster are in use (R291). -/
def shared (s : State) (c : Nat) : Bool := ((s.clus c).hedges.filter fun h => h.v).length == 2

/-- The tenant slot of a context at a cluster: 1 only where two tenants share it, or where slot 1 alone is in use. -/
def tslotOf (s : State) (c ctx : Nat) : Nat :=
  let h := (s.clus c).hedges
  if (nth h 0 {}).v && (nth h 1 {}).v then (if ctx < 4 then 0 else 1) else if (nth h 1 {}).v then 1 else 0

/-- The partition slot that owns a context of an element (R289). -/
def ownOf (s : State) (a ctx : Nat) : Nat := (s.hedge (clusNo a) ctx).own

/-- The absolute id that a hedge gives a partition-relative id; none outside the rectangle (R288, R289). -/
def absId (_ : State) (h : Hedge) (rel : Nat) : Option Nat :=
  if h.v && bitsOf rel 13 5 < 24 && bitsOf rel 7 4 < 12 && elemIdx rel < 96 && gridX rel < h.w && gridY rel < h.h then
    some (idAt (gridX rel + h.orgx) (gridY rel + h.orgy) (elemIdx rel))
  else none

/-- The partition-relative id of an absolute id (R288). -/
def relId (h : Hedge) (a : Nat) : Nat := idAt (gridX a - h.orgx) (gridY a - h.orgy) (elemIdx a)

/-- The partition-relative id of an element for one of its contexts. -/
def rel (s : State) (a ctx : Nat) : Nat := relId (s.hedge (clusNo a) ctx) a

/-- The absolute element that a relative id names for a context of element a. -/
def absOf (s : State) (a ctx r : Nat) : Option Nat := s.absId (s.hedge (clusNo a) ctx) r

end State

-- Handles and frames ----------------------------------------------------------------------------------------------------

/-- Fields of a handle (R119). -/
def hElem (h : Word) : Nat := bitsOf h.toNat 14 18
def hIdx (h : Word) : Nat := bitsOf h.toNat 4 10
def hGen (h : Word) : Nat := bitsOf h.toNat 0 4

/-- The null handle (R39). -/
def isNull (h : Word) : Bool := hGen h == 0

def mkHandle (rel idx gen : Nat) : Word := BitVec.ofNat 32 (rel * 2 ^ 14 + idx * 2 ^ 4 + gen)

/-- The live entry that a handle names at its owner (R120). -/
def Elem.live (e : Elem) (h : Word) : Option HEntry :=
  let x := e.handles.get {} (hIdx h)
  if x.v && x.gen == hGen h then some x else none

/-- A header from its 64 bytes as a number (R43). -/
def FrameHdr.ofNat (x : Nat) : FrameHdr :=
  let nf : Nat := bitsOf x 72 5
  { tag := BitVec.ofNat 64 (bitsOf x 0 64), fill := bitsOf x 64 7, nslot := bitsOf x 80 8, parent := BitVec.ofNat 32 (bitsOf x 96 32),
    ctx := bitsOf x 128 3, ret := Dst.ofBits (BitVec.ofNat 16 (bitsOf x 144 16)), comp := BitVec.ofNat 32 (bitsOf x 160 32),
    widths := (List.range nf).map fun k => bitsOf x (192 + 6 * k) 6 }

/-- The widths as the SHAPE field. -/
def shapeNat : List Nat → Nat
  | [] => 0
  | w :: ws => w % 64 + 64 * shapeNat ws

/-- A header as a number (R43). -/
def FrameHdr.toNat (h : FrameHdr) : Nat :=
  h.tag.toNat + h.fill % 128 * 2 ^ 64 + h.widths.length % 32 * 2 ^ 72 + h.nslot % 256 * 2 ^ 80 + h.parent.toNat * 2 ^ 96
    + h.ctx % 8 * 2 ^ 128 + h.ret.toBits.toNat * 2 ^ 144 + h.comp.toNat * 2 ^ 160 + shapeNat h.widths * 2 ^ 192

def FrameHdr.nf (h : FrameHdr) : Nat := h.widths.length

/-- push of R41: none when the field does not fit. -/
def FrameHdr.push (h : FrameHdr) (v w : Nat) : Option FrameHdr :=
  if 64 < h.fill + w || h.nf == 16 then none
  else some { h with tag := (h.tag <<< w) ||| BitVec.ofNat 64 (v % 2 ^ w), fill := h.fill + w, widths := w :: h.widths }

/-- pop of R41: none when the shape does not match. -/
def FrameHdr.pop (h : FrameHdr) (w : Nat) : Option FrameHdr :=
  match h.widths with
  | [] => none
  | k :: ks => if k = w then some { h with tag := h.tag >>> w, fill := h.fill - w, widths := ks } else none

/-- The offset of field k in the tag. -/
def fieldOff : List Nat → Nat → Nat
  | [], _ => 0
  | _, 0 => 0
  | w :: ws, k + 1 => w + fieldOff ws k

/-- field(k) of R41. -/
def FrameHdr.field (h : FrameHdr) (k : Nat) : Nat :=
  if h.nf ≤ k then 0 else bitsOf h.tag.toNat (fieldOff h.widths k) (nth h.widths k 0)

/-- The base address of a live allocation. -/
def HEntry.addr (x : HEntry) : Nat := 32 * x.base

namespace Elem

def readHdr (e : Elem) (x : HEntry) : FrameHdr := FrameHdr.ofNat (Memory.readN e.mem x.addr 64)

/-- A write of n bytes from lo on reaches the bound weight buffer (R171). -/
def inBuffer (e : Elem) (lo n : Nat) : Bool :=
  match e.wbuf with
  | some h => match e.live h with
    | some y => lo < y.addr + 32 * y.size && y.addr < lo + n
    | none => false
  | none => false

/-- A store held back from others loses the bits that a later write gives a new value: others see that write (R218). -/
def passed (m : Nat → Byte) (x : Acc) : Acc := if x.kind == .stl then { x with pcs := x.pcs.map fun p => { p with mask := p.mask &&& ~~~(m p.la) } } else x

/-- What a write of n bytes of the local store from lo on leaves beside the bytes: a bound weight buffer that it reaches is dirty (R171), injected errors
of its words are met (R309), and held stores are passed there. -/
def noteWrite (e : Elem) (lo n : Nat) : Elem :=
  { e with wdirty := e.wdirty || e.inBuffer lo n, ecc := wroteFlips e.ecc fun f => f.array == 0 && lo / 8 ≤ f.at_ && 8 * f.at_ < lo + n
           memq := e.memq.map (passed fun a => if lo ≤ a ∧ a < lo + n then 0xFF else 0) }

/-- A write of an entry of another array of the element (R309). -/
def noteTable (e : Elem) (array k : Nat) : Elem := { e with ecc := wroteFlips e.ecc fun f => f.array == array && f.at_ == k }

def writeHdr (e : Elem) (x : HEntry) (h : FrameHdr) : Elem := { e.noteWrite x.addr 64 with mem := Memory.writeN e.mem x.addr 64 h.toNat }

def slotAddr (x : HEntry) (j : Nat) : Nat := x.addr + 64 + 16 * j

/-- Slot j of a frame as its 128 bits (R44). -/
def slot (e : Elem) (x : HEntry) (j : Nat) : Nat := Memory.readN e.mem (slotAddr x j) 16

def setSlot (e : Elem) (x : HEntry) (j v : Nat) : Elem := { e.noteWrite (slotAddr x j) 16 with mem := Memory.writeN e.mem (slotAddr x j) 16 v }

end Elem

/-- P of a slot. -/
def slotP (v : Nat) : Bool := bitsOf v 68 1 == 1

/-- The token content of a slot. -/
def slotIn (v : Nat) : InSlot :=
  { payload := BitVec.ofNat 64 (bitsOf v 0 64), tail := BitVec.ofNat 4 (bitsOf v 64 4), e := bitsOf v 69 1 == 1,
    col := bitsOf v 70 3, cls := bitsOf v 73 4 }

/-- A slot with a token stored: PAYLOAD, TAIL, E, COL, CLS and P := 1 (R46 step 4). -/
def slotStore (v : Nat) (t : Token) (e : Bool) : Nat :=
  setBits (setBits v 0 68 (t.payload.toNat + t.tail.toNat * 2 ^ 64)) 68 9 (1 + e.toNat * 2 + t.col % 8 * 4 + t.cls % 16 * 32)

namespace State

-- Context windows -------------------------------------------------------------------------------------------------------

def ctx (s : State) (a k : Nat) : CtxEntry := (s.elem a).ctxs.get {} k

/-- Word n of a context's window, none outside it. -/
def nodeWord (s : State) (a k n : Nat) : Option NWord :=
  let c := s.ctx a k
  if n < c.wlen then some ((s.elem a).nodes.get 0 (c.wbase + n)) else none

/-- The fields of a head word (format N). -/
def headOf (w : NWord) : Option (Nat × OpN) :=
  match decode w with
  | some i => if i.isHead then some ((fld w 88 5).toNat, OpN.ofWord w) else none
  | none => none

/-- The head at node n of a context's window, with its kind index (R33). -/
def head (s : State) (a k n : Nat) : Option (Nat × OpN) :=
  match s.nodeWord a k n with
  | some w => headOf w
  | none => none

-- Records ---------------------------------------------------------------------------------------------------------------

/-- A fault record (R305). -/
def faultRec (s : State) (o : Org) (code : Nat) : Nat :=
  code % 256 * 2 ^ 120 + o.ctx % 8 * 2 ^ 117 + s.rel o.elem o.ctx % 2 ^ 18 * 2 ^ 99 + o.node % 4096 * 2 ^ 87 + o.word % 128 * 2 ^ 80
    + bitsOf o.tag.toNat 0 32 * 2 ^ 32 + o.fh.toNat

/-- An FPX record (R305). -/
def fpxRec (s : State) (o : Org) : Nat :=
  0x80 * 2 ^ 120 + o.ctx % 8 * 2 ^ 117 + s.rel o.elem o.ctx % 2 ^ 18 * 2 ^ 99 + o.node % 4096 * 2 ^ 87 + o.word % 128 * 2 ^ 80
    + bitsOf o.tag.toNat 32 32 * 2 ^ 32 + bitsOf o.tag.toNat 0 32

end State

/-- An eviction image (R295) at its place in host memory: its bytes, and what they stand for. -/
def State.imagePut (s : State) (at_ : Nat) (img : Image) : State :=
  { s with host := Memory.write s.host at_ img.bytes, images := (s.images.filter fun r => r.1 != at_) ++ [(at_, img)] }

end Sys2Proof.Machine
end

