-- ==== Sys2Proof/Machine/Xlate.lean ====
section
/-! DEFINITION. Physical memory and translation (R203, R208 to R211, R216): tiers, the page-table walk, and the bytes of a leaf. -/

namespace Sys2Proof.Machine

/-- The tier of a physical address (R203): 0 GDDR-7, 1 LPDDR-6. -/
def tierOf (pa : Nat) : Option Nat :=
  if pa < 0x4800000000 then some 0
  else if 0x10000000000 ≤ pa ∧ pa < 0x28000000000 then some 1
  else none

def tierBase (t : Nat) : Nat := if t = 0 then 0 else 0x10000000000

def tierEnd (t : Nat) : Nat := if t = 0 then 0x4800000000 else 0x28000000000

/-- The home slice of a physical address: I/O die × 16 + slice (R203). -/
def homeSlice (pa : Nat) : Nat :=
  let n : Nat := (pa - tierBase ((tierOf pa).getD 0)) / 4096
  n % 12 * 16 + n / 12 % 16

/-- A store on its way to the host meets a range. -/
def HostStore.meets (w : HostStore) (a n : Nat) : Bool := w.at_ < a + n && a < w.at_ + w.bytes.length

namespace State

/-- A word of physical memory is poisoned (R205). -/
def poisoned (s : State) (pa n : Nat) : Bool := s.poison.any fun w => w / 8 * 8 < pa + n && pa < w / 8 * 8 + 8

/-- A host address that the host does not translate or complete (R216). -/
def hostFails (s : State) (a n : Nat) : Bool := s.hostBad.any fun r => r.1 < a + n && a < r.1 + r.2

/-- One level of the walk of R210; `fuel` counts the levels left. -/
def walkGo (s : State) (va : Nat) : Nat → Nat → Nat → Except Nat Leaf
  | 0, _, _ => .error 0x53
  | fuel + 1, lvl, a =>
    let idx : Nat := if lvl < 4 then bitsOf va (48 - 9 * lvl) 9 else bitsOf va 16 5
    if s.poisoned (a + 8 * idx) 8 then .error 0x55
    else
      let e : Nat := Memory.readN s.phys (a + 8 * idx) 8
      if bitsOf e 0 1 = 0 then .error 0x51
      else if bitsOf e 52 12 ≠ 0 ∨ bitsOf e 2 2 ≠ 0 then .error 0x53
      else if bitsOf e 1 1 = 1 then
        if lvl < 2 then .error 0x53
        else
          let size : Nat := if lvl = 2 then 2 ^ 30 else if lvl = 3 then 2 ^ 21 else 2 ^ 16
          let base : Nat := bitsOf e 8 44 * 256
          let tier : Nat := bitsOf e 6 2
          if base % size ≠ 0 ∨ tier = 3 then .error 0x53
          else if tier ≠ 2 ∧ ¬(tierBase tier ≤ base ∧ base + size ≤ tierEnd tier) then .error 0x53
          else .ok { va := va / size * size, size := size, pa := base, tier := tier, nw := bitsOf e 5 1 == 1, nc := bitsOf e 4 1 == 1 }
      else if lvl = 4 ∨ bitsOf e 4 4 ≠ 0 then .error 0x53
      else
        let nxt : Nat := bitsOf e 8 44 * 256
        if lvl < 3 ∧ nxt % 4096 ≠ 0 then .error 0x53 else walkGo s va fuel (lvl + 1) nxt

/-- The walk of R210 after the range check of R208: the leaf of a virtual address, or the fault code. -/
def walk (s : State) (root va : Nat) : Except Nat Leaf :=
  if 2 ^ 57 ≤ va then .error 0x50 else s.walkGo va 5 0 root

/-- Host memory as accesses under a slot's PASID see it (R216, R253): every PASID has a space of its own above that of untranslated bus addresses. How the host
maps one onto another is its own affair (log 99). -/
def hostSpace (s : State) (p : Nat) : Nat := ((s.part p).pasid + 1) * 2 ^ 64

/-- The leaf of a virtual address of slot p; a host-tier leaf names the host's memory under the slot's PASID. -/
def xlate (s : State) (p va : Nat) : Except Nat Leaf :=
  match s.walk (s.part p).root va with
  | .ok l => .ok (if l.tier = 2 then { l with pa := s.hostSpace p + l.pa } else l)
  | .error c => .error c

/-- The physical or host address that a leaf gives a virtual address. -/
def leafAddr (l : Leaf) (va : Nat) : Nat := l.pa + (va - l.va)

/-- A store on its way to the host lands in host memory. -/
def landStore (h : List Host.Cell) (w : HostStore) : List Host.Cell := Memory.write h w.at_ w.bytes

/-- Host memory as the host-link unit orders it: with the stores that it has accepted (R218). -/
def hostNow (s : State) : List Host.Cell := s.hostq.foldl landStore s.host

/-- Reading bytes of a leaf: MEM_UE or HOST_XLATE when the memory cannot answer (R205, R216). -/
def leafRead (s : State) (l : Leaf) (va n : Nat) : Except Nat (List Byte) :=
  let a := leafAddr l va
  if l.tier = 2 then (if s.hostFails a n then .error 0x54 else .ok (Memory.read s.hostNow a n))
  else if s.poisoned a n then .error 0x55
  else .ok (Memory.read s.phys a n)

end State

end Sys2Proof.Machine
end

