-- ==== Sys2Proof/Machine/Tables.lean ====
section
/-! DEFINITION. Page tables as the policy core keeps them (R208 to R210, R290 step 6), TLB invalidation (R211) and the retirement of pages (R308). -/

namespace Sys2Proof.Machine

/-- Two ranges meet. -/
def meets (a n b m : Nat) : Bool := a < b + m && b < a + n

-- What is withheld from every mapping (R208, R301, R308, R310) ------------------------------------------------------------------

/-- Spare pages lie at the top of their tier: 0.5 GiB of GDDR-7, 3 GiB of LPDDR-6 (R308). DESIGN CHOICE (log 12). -/
def spareSize (t : Nat) : Nat := if t = 0 then 0x20000000 else 0xC0000000

def spareBase (t : Nat) : Nat := tierEnd t - spareSize t

/-- A range of physical memory touches the spare pages. -/
def isSpare (pa n : Nat) : Bool := meets pa n (spareBase 0) (spareSize 0) || meets pa n (spareBase 1) (spareSize 1)

/-- The room for the tables of one slot. -/
def tableSize : Nat := 2 ^ 28

/-- The tables of the 128 slots lie below the spare pages of GDDR-7, in memory that no partition maps (R208). DESIGN CHOICE (log 12). -/
def tableArea : Nat := spareBase 0 - 128 * tableSize

/-- Where a slot's tables lie. -/
def tableBase (p : Nat) : Nat := tableArea + p * tableSize

/-- The harvest dump's 96 GiB (R310) lie below the spare pages of LPDDR-6, and below them the 64 MiB for records that wait (R301). DESIGN CHOICE (log 12). -/
def dumpSize : Nat := 96 * 2 ^ 30

def dumpBase : Nat := spareBase 1 - dumpSize

def recordSize : Nat := 2 ^ 26

/-- A range of physical memory touches what is withheld from every mapping. -/
def withheld (pa n : Nat) : Bool :=
  isSpare pa n || meets pa n tableArea (128 * tableSize) || meets pa n (dumpBase - recordSize) (recordSize + dumpSize)

-- Tables ------------------------------------------------------------------------------------------------------------------------

/-- The entry of a leaf (R209). -/
def leafEntry (m : Mapping) : Nat := m.pa / 256 * 256 + m.tier * 64 + m.nw.toNat * 32 + m.nc.toNat * 16 + 3

/-- The level at which a leaf of a size stands (R210). -/
def leafLevel (size : Nat) : Nat := if size = 2 ^ 30 then 2 else if size = 2 ^ 21 then 3 else 4

/-- The index of an address at a level (R210). -/
def levelIdx (va lvl : Nat) : Nat := if lvl < 4 then bitsOf va (48 - 9 * lvl) 9 else bitsOf va 16 5

/-- Enters a leaf below the table at `a`. Tables of 4 KiB are numbered from the start of a slot's room, tables of 256 bytes from its end; `at_` places an offset in it, and
`n` and `k` count the two kinds. `fuel` counts the levels left. -/
def enterLeaf (at_ : Nat → Nat) (m : Mapping) : Nat → Nat → Nat → List Host.Cell × Nat × Nat → List Host.Cell × Nat × Nat
  | 0, _, _, st => st
  | fuel + 1, lvl, a, (phys, n, k) =>
    let ea := a + 8 * levelIdx m.va lvl
    if lvl = leafLevel m.size then (Memory.writeN phys ea 8 (leafEntry m), n, k)
    else
      let e := Memory.readN phys ea 8
      if bitsOf e 0 1 = 1 then enterLeaf at_ m fuel (lvl + 1) (bitsOf e 8 44 * 256) (phys, n, k)
      else
        let t := at_ (if lvl = 3 then tableSize - 256 * (k + 1) else n * 4096)
        enterLeaf at_ m fuel (lvl + 1) t (Memory.writeN phys ea 8 (t + 1), if lvl = 3 then (n, k + 1) else (n + 1, k))

/-- The tables of a list of mappings, entered into memory, with the counts of both kinds. -/
def enterMaps (at_ : Nat → Nat) (ms : List Mapping) (phys : List Host.Cell) : List Host.Cell × Nat × Nat :=
  ms.foldl (fun st m => enterLeaf at_ m 5 0 (at_ 0) st) (phys, 1, 0)

/-- The bytes that a slot's tables take of its room. -/
def tableBytes (r : List Host.Cell × Nat × Nat) : Nat := 4096 * r.2.1 + 256 * r.2.2

/-- The tables of a list of mappings have room. -/
def mapsFit (ms : List Mapping) : Bool := tableBytes (enterMaps id ms []) ≤ tableSize

namespace State

/-- Where a byte of the tables stands: on its page's spare when that page is retired (R308). -/
def tableAt (s : State) (a : Nat) : Nat :=
  match s.dev.tablePages.find? fun r => r.1 == a / 2 ^ 16 * 2 ^ 16 with
  | some r => r.2 + a % 2 ^ 16
  | none => a

/-- The ranges in which a slot's tables stand. -/
def tableRanges (s : State) (p : Nat) : List (Nat × Nat) :=
  (tableBase p, tableSize) :: (s.dev.tablePages.filter fun r => meets (tableBase p) tableSize r.1 1).map fun r => (r.2, 2 ^ 16)

/-- Memory without a slot's tables. -/
def noTables (s : State) (p : Nat) : List Host.Cell := (s.tableRanges p).foldl (fun m r => Memory.clear m r.1 (r.1 + r.2)) s.phys

/-- Writes the tables of a slot anew from its mappings; the pools forget the old ones (R212, R284). -/
def buildTables (s : State) (p : Nat) : State :=
  let at_ (off : Nat) : Nat := s.tableAt (tableBase p + off)
  let r := enterMaps at_ (s.part p).maps (s.noTables p)
  { s with phys := r.1, parts := s.parts.put p { s.part p with root := at_ 0, tableNext := tableBytes r }
           poison := s.poison.filter fun w => !((s.tableRanges p).any fun r => r.1 ≤ w && w < r.1 + r.2)
           pools := s.pools.mapVals fun _ x => { x with cache := x.cache.filter fun e => e.1 != p } }

/-- Frees the memory of a slot's tables (R292). -/
def freeTables (s : State) (p : Nat) : State := { s with phys := s.noTables p }

end State

/-- Drops from a partition's TLBs, and from the translations that its accesses and commands hold, the leaves that a test selects (R211, R253). -/
def State.dropLeaves (s : State) (p : Nat) (bad : Leaf → Bool) : State :=
  let keep (l : List Leaf) : List Leaf := l.filter fun x => !bad x
  let tlb (l : List TlbEnt) : List TlbEnt := l.filter fun x => !(x.own == p && bad x.leaf)
  { s with
    clusters := s.clusters.mapVals fun _ x => { x with tlb := tlb x.tlb
                                                       eng := x.eng.map fun y => if s.ownOf y.org.elem y.org.ctx == p then { y with xl := keep y.xl } else y }
    quads := s.quads.mapVals fun _ l => tlb l
    elems := s.elems.mapVals fun a e => { e with memq := e.memq.map fun y => if s.ownOf a y.org.ctx == p then { y with xl := keep y.xl } else y } }

-- Retirement (R308) --------------------------------------------------------------------------------------------------------

/-- A spare page is in use: it is mapped, holds tables, was retired itself, or is `taken`. -/
def State.spareUsed (s : State) (taken : List Nat) (a : Nat) : Bool :=
  taken.contains a || s.dev.retired.contains a || (s.dev.tablePages.any fun r => r.2 == a) || s.parts.rows.any fun r => r.2.maps.any fun m => m.tier != 2 && meets m.pa m.size a 1

/-- The first spare page of a tier from the k-th on that is not in use; `fuel` counts the pages left. -/
def State.spareFrom (s : State) (t : Nat) (taken : List Nat) : Nat → Nat → Option Nat
  | 0, _ => none
  | fuel + 1, k => if s.spareUsed taken (spareBase t + k * 2 ^ 16) then spareFrom s t taken fuel (k + 1) else some (spareBase t + k * 2 ^ 16)

/-- An unused spare page of a tier. -/
def State.nextSpare (s : State) (t : Nat) (taken : List Nat) : Option Nat := s.spareFrom t taken (spareSize t / 2 ^ 16) 0

/-- A mapping cut so that the page at `pa` is a leaf of its own, moved to `to_`. A leaf that holds the page splits into the next smaller size; `fuel`
counts the sizes. -/
def splitMap (pa to_ : Nat) : Nat → Mapping → List Mapping
  | 0, m => [m]
  | fuel + 1, m =>
    if m.tier = 2 || !(meets m.pa m.size pa 1) then [m]
    else if m.size = 2 ^ 16 then [{ m with pa := to_ }]
    else
      let n : Nat := if m.size = 2 ^ 30 then 2 ^ 21 else 2 ^ 16
      (List.range (m.size / n)).flatMap fun k => splitMap pa to_ fuel { m with va := m.va + k * n, pa := m.pa + k * n, size := n }

/-- A number moved with its page. -/
def moved (pa to_ x : Nat) : Nat := if pa ≤ x && x < pa + 2 ^ 16 then to_ + (x - pa) else x

/-- The page in the tables' area for which the page at `pa` stands, itself or as a spare. -/
def State.tablePage (s : State) (pa : Nat) : Option Nat :=
  match s.dev.tablePages.find? fun r => r.2 == pa with
  | some r => some r.1
  | none => if meets pa 1 tableArea (128 * tableSize) then some pa else none

/-- The tables of the slot that a retired table page belongs to go on at its spare, with the poison of its words. -/
def State.moveTables (s : State) (orig to_ : Nat) : State :=
  let p := (orig - tableArea) / tableSize
  let s1 : State := { s with dev := { s.dev with tablePages := (orig, to_) :: s.dev.tablePages.filter fun r => r.1 != orig } }
  if (s.part p).life == .free then s1 else { s1.buildTables p with poison := s.poison }

/-- Retires the 64 KiB page that holds an address (R308): copied to a spare with its poison, its leaf rewritten, TLBs invalidated, the page appended to
the manifest. Without a spare page left, or room for the tables that it splits, nothing happens. -/
def State.retirePage (s : State) (addr : Nat) : State :=
  let pa := addr / 2 ^ 16 * 2 ^ 16
  match tierOf pa with
  | none => s
  | some t =>
    let tight : Bool := s.parts.rows.any fun r => (r.2.maps.any fun m => m.tier != 2 && meets m.pa m.size pa 1) && !mapsFit (r.2.maps.flatMap (splitMap pa pa 3))
    match (if s.dev.retired.contains pa || tight then none else s.nextSpare t []) with
    | none => s
    | some to_ =>
      let bytes := s.phys.filter fun c => pa ≤ c.1 && c.1 < pa + 2 ^ 16
      let phys := bytes.foldl (fun m c => Memory.put m (to_ + (c.1 - pa)) c.2) (Memory.clear s.phys pa (pa + 2 ^ 16))
      let acqs := s.slices.rows.flatMap fun r => r.2.acq.filter fun q => pa ≤ q.1 && q.1 < pa + 2 ^ 16
      let s1 : State := { s with
        phys := phys
        poison := s.poison.map (moved pa to_)
        dev := { s.dev with retired := s.dev.retired ++ [pa], pageErrs := s.dev.pageErrs.erase (pa / 2 ^ 16) }
        slices := acqs.foldl (fun t q =>
          let to1 := moved pa to_ q.1
          let x := t.get {} (homeSlice to1)
          t.put (homeSlice to1) { x with acq := (to1, q.2) :: x.acq })
          (s.slices.mapVals fun _ x => { x with acq := x.acq.filter (fun q => !(pa ≤ q.1 && q.1 < pa + 2 ^ 16)), lines := x.lines.filter fun l => l.line / 512 != pa / 2 ^ 16 }) }
      match s.tablePage pa with
      | some orig => s1.moveTables orig to_
      | none => s1.parts.rows.foldl (fun s r =>
        if r.2.maps.any fun m => m.tier != 2 && meets m.pa m.size pa 1 then
          ((s.modPart r.1 fun x => { x with maps := x.maps.flatMap (splitMap pa to_ 3) }).buildTables r.1).dropLeaves r.1
            fun l => l.tier != 2 && meets l.pa l.size pa (2 ^ 16)
        else s) s1

end Sys2Proof.Machine
end

