-- ==== Sys2Proof/Machine/Home.lean ====
section
/-! DEFINITION. Memory at home: status bits (R257, R304), the home cache (R204), memory errors (R205, R308, R309), and the control complex's accesses to a
partition's memory (R356). -/

namespace Sys2Proof.Machine

namespace State

-- Events of a vector and status bits ---------------------------------------------------------------------------------------

/-- Sends the MSI-X message of a vector, or holds it as pending while the vector is masked (R257). -/
def sendMsix (s : State) (f v : Nat) : State :=
  if (s.fn f).vmask.get true v then s.modFn f fun x => { x with vpend := x.vpend.put v true } else { s with msix := s.msix ++ [(f, v)] }

/-- The message of a vector whose count or time is reached is sent (R257). -/
def icbDue (s : State) (f v : Nat) : State :=
  let i := (s.fn f).icbs.get {} v
  let late : Bool := i.time != 0 && i.since + 7000 * i.time ≤ s.t7
  if i.pend = 0 ∨ !(max 1 i.cnt ≤ i.pend || late) then s
  else (s.modFn f fun x => { x with icbs := x.icbs.put v { i with pend := 0 } }).sendMsix f v

/-- An event is counted: PEND saturates. -/
def vecCount (s : State) (f v : Nat) : State :=
  s.modFn f fun x =>
    let i := x.icbs.get {} v
    { x with icbs := x.icbs.put v { i with pend := min (i.pend + 1) 65535, since := if i.pend = 0 then s.t7 else i.since } }

/-- An event on vector v of function f (R257); a message that is due leaves before it is counted, and one that it makes due at once. -/
def vecEvent (s : State) (f v : Nat) : State := ((s.icbDue f v).vecCount f v).icbDue f v

/-- Sets bit b of VUESTA (R304) for the event of a code; VFEP keeps the first code since VUESTA was all zero. -/
def setVue (s : State) (f b code : Nat) : State :=
  let x := s.fn f
  let s1 := s.modFn f fun y => { y with vuesta := y.vuesta ||| BitVec.ofNat 32 (2 ^ b), vfep := if y.vuesta = 0 then code else y.vfep }
  if x.vuesta.getLsbD b || x.vuemsk.getLsbD b then s1 else s1.vecEvent f x.verrvec

/-- Sets bit b of VCESTA (R304). -/
def setVce (s : State) (f b : Nat) : State :=
  let x := s.fn f
  let s1 := s.modFn f fun y => { y with vcesta := y.vcesta ||| BitVec.ofNat 32 (2 ^ b) }
  if x.vcesta.getLsbD b || x.vcemsk.getLsbD b then s1 else s1.vecEvent f x.verrvec

-- The home cache (R204, R205, R309) ---------------------------------------------------------------------------------------------

/-- The set of a physical address in its home slice: the lines that the slice serves of a tier take its sets in turn. R204 gives 2,048 sets and no set index: DESIGN CHOICE (log 117). -/
def cacheSet (pa : Nat) : Nat :=
  let off := pa - tierBase ((tierOf pa).getD 0)
  (off / 4096 / 192 * 32 + pa % 4096 / 128) % 2048

/-- An injected error of a memory tier's word (R309). -/
def memFlip (w : Nat) (f : Flip) : Bool := (f.array == 6 || f.array == 7) && f.at_ == w

/-- An injected error of a word in a way of its home slice's cache; the word index of the array is set × 256 + way × 16 + word: R309 counts 64-bit
words in the slice and does not split the index, so this is a DESIGN CHOICE (log 117). -/
def cacheFlip (way w : Nat) (f : Flip) : Bool := f.array == 5 && f.at_ == homeSlice w * 2 ^ 19 + cacheSet w * 256 + way * 16 + w % 128 / 8

/-- The words of a range of physical memory. -/
def wordsOf (pa n : Nat) : List Nat := (List.range ((pa + n - 1) / 8 - pa / 8 + 1)).map fun k => (pa / 8 + k) * 8

/-- Words are read from where `hit` says that their injected errors lie: a correctable error is corrected and counted for slot p, an uncorrectable one poisons its
word. The words whose pages firmware then retires are added to the list: an uncorrectable error's, and the eighth correctable one's (R308). -/
def wordsRead (p : Nat) (hit : Nat → Flip → Bool) (ws : List Nat) (st : State × List Nat) : State × List Nat :=
  if st.1.dev.inject.isEmpty then st
  else ws.foldl (fun st w =>
    let s := st.1
    let l := s.dev.inject.filter (hit w)
    if l.isEmpty then st
    else
      let s1 : State := { s with dev := { s.dev with inject := s.dev.inject.filter fun f => !hit w f || f.mode == .sticky } }
      if l.any fun f => f.ue then ({ s1 with poison := if s1.poison.contains w then s1.poison else w :: s1.poison }, w :: st.2)
      else
        let k := s1.dev.pageErrs.get 0 (w / 2 ^ 16) + 1
        let s2 : State := { s1 with dev := { s1.dev with pageErrs := s1.dev.pageErrs.put (w / 2 ^ 16) k } }
        (s2.setVce p 1, if k = 8 then w :: st.2 else st.2)) st

/-- Words are written where `hit` says that their injected errors lie. -/
def wordsWrote (hit : Nat → Flip → Bool) (ws : List Nat) (s : State) : State :=
  if s.dev.inject.isEmpty then s else { s with dev := { s.dev with inject := wroteFlips s.dev.inject fun f => ws.any fun w => hit w f } }

/-- The slot that maps a physical address, the PF without one. -/
def paOwner (s : State) (pa : Nat) : Nat :=
  match s.parts.rows.find? fun r => r.2.life != .free && r.2.maps.any fun m => m.tier != 2 && meets m.pa m.size pa 1 with
  | some r => r.1
  | none => 128

/-- The words of a 128-byte line. -/
def lineWords (line : Nat) : List Nat := wordsOf (128 * line) 128

/-- A dirty line is written back (R204, R205): an uncorrectable error found in it goes to memory as poison. -/
def writeBack (x : HcLine) (st : State × List Nat) : State × List Nat :=
  if !x.dirty then st
  else
    let r := wordsRead (st.1.paOwner (128 * x.line)) (cacheFlip x.way) (lineWords x.line) st
    (wordsWrote memFlip (lineWords x.line) r.1, r.2)

/-- The ways of a cache that are on, in four groups of four (R155, R204). -/
def waysOnList (w : List Ways) : List Nat := (List.range 16).filter fun k => nth w (k / 4) .off == .on

/-- Puts the lines of a slice. -/
def setLines (s : State) (k : Nat) (l : List HcLine) : State := { s with slices := s.slices.put k { s.slices.get {} k with lines := l } }

/-- The way in which a line stands for an access, allocated if it is not cached; none while every way is off (R204). The line of a full set that was used longest
ago leaves: replacement is not stated, DESIGN CHOICE (log 13). -/
def lineIn (p line : Nat) (write : Bool) (st : State × List Nat) : (State × List Nat) × Option Nat :=
  let s := st.1
  let k := homeSlice (128 * line)
  let x := s.slices.get {} k
  match x.lines.find? fun l => l.line == line with
  | some l => ((s.setLines k ((x.lines.filter fun y => y.line != line) ++ [{ l with dirty := l.dirty || write }]), st.2), some l.way)
  | none =>
    let set := x.lines.filter fun l => cacheSet (128 * l.line) == cacheSet (128 * line)
    let on := waysOnList x.ways
    let put (st : State × List Nat) (rest : List HcLine) (way : Nat) : (State × List Nat) × Option Nat :=
      let r := wordsRead p memFlip (lineWords line) st
      ((wordsWrote (cacheFlip way) (lineWords line) (r.1.setLines k (rest ++ [⟨way, line, write⟩])), r.2), some way)
    match on.find? fun w => set.all fun l => l.way != w with
    | some way => put st x.lines way
    | none => match set.find? fun l => on.contains l.way with
      | some v => put (writeBack v st) (x.lines.filter fun l => l.line != v.line) v.way
      | none => (st, none)

/-- An access of slot p to n bytes of physical memory reaches its home slices (R204, R205, R309): lines are allocated, and injected errors met. The words whose
pages firmware then retires come with the state. -/
def homeTouch (s : State) (p pa n : Nat) (write : Bool) : State × List Nat :=
  (List.range ((pa + n - 1) / 128 - pa / 128 + 1)).foldl (fun st i =>
    let line := pa / 128 + i
    let ws := (wordsOf pa n).filter fun w => w / 128 == line
    let r := lineIn p line write st
    let hit : Nat → Flip → Bool := match r.2 with | some way => cacheFlip way | none => memFlip
    if write then (wordsWrote hit ws r.1.1, r.1.2) else wordsRead p hit ws r.1) (s, [])

/-- Firmware retires pages (R308). -/
def retireAll (st : State × List Nat) : State := st.2.foldl (fun s w => s.retirePage w) st.1

/-- The addresses of the entries that a walk reads (R210), as far as they stand in memory: the non-leaf ones, then the last. -/
def walkPath (s : State) (va : Nat) : Nat → Nat → Nat → List Nat
  | 0, _, _ => []
  | fuel + 1, lvl, a =>
    let at_ := a + 8 * (if lvl < 4 then bitsOf va (48 - 9 * lvl) 9 else bitsOf va 16 5)
    let e : Nat := Memory.readN s.phys at_ 8
    if s.poisoned at_ 8 || bitsOf e 0 1 = 0 || bitsOf e 1 1 = 1 then [at_] else at_ :: walkPath s va fuel (lvl + 1) (bitsOf e 8 44 * 256)

/-- The non-leaf entries of a walk, with their owner. -/
def nonLeaves (s : State) (p va : Nat) : List (Nat × Nat) := ((s.walkPath va 5 0 (s.part p).root).dropLast).map fun a => (p, a)

/-- A walk for slot p as its walker makes it: the entries it reads, those apart that its pool has cached (R212), reach their home slices, then the leaf or the
fault. -/
def walkFor (s : State) (p va : Nat) (cache : List (Nat × Nat)) : State × Except Nat Leaf :=
  let r : State × List Nat := if 2 ^ 57 ≤ va then (s, [])
    else ((s.walkPath va 5 0 (s.part p).root).filter fun a => !cache.contains (p, a)).foldl (fun st a => let t := st.1.homeTouch p a 8 false; (t.1, st.2 ++ t.2)) (s, [])
  (retireAll r, r.1.xlate p va)

-- Bytes of a leaf ---------------------------------------------------------------------------------------------------------------

/-- Writing bytes of a leaf. Writing a whole poisoned word clears its poison. -/
def leafWrite (s : State) (l : Leaf) (va : Nat) (bs : List Byte) : State :=
  let a := leafAddr l va
  if l.tier = 2 then
    -- a store on its way to these bytes lands first
    { s with host := Memory.write ((s.hostq.filter fun w => w.meets a bs.length).foldl landStore s.host) a bs
             hostq := s.hostq.filter fun w => !w.meets a bs.length }
  else { s with phys := Memory.write s.phys a bs
                poison := s.poison.filter fun w => !(a ≤ w / 8 * 8 && w / 8 * 8 + 8 ≤ a + bs.length) }

/-- Counts bytes moved over the host link for a slot (R298). -/
def dmaAdd (s : State) (p n : Nat) : State := s.modPart p fun x => { x with dma := x.dma + n }

/-- Writing bytes of a leaf at home for slot p. -/
def homeWrite (s : State) (p : Nat) (l : Leaf) (va : Nat) (bs : List Byte) : State :=
  if l.tier = 2 then (s.dmaAdd p bs.length).leafWrite l va bs
  else retireAll ((s.leafWrite l va bs).homeTouch p (leafAddr l va) bs.length true)

/-- The first address from va on that a read of n bytes of a leaf cannot read. -/
def badAt (s : State) (l : Leaf) (va n : Nat) : Nat :=
  match (List.range n).find? fun k => if l.tier = 2 then s.hostFails (leafAddr l va + k) 1 else s.poisoned (leafAddr l va + k) 1 with
  | some k => va + k
  | none => va

/-- Reading n bytes of a partition's virtual memory that lie in one page, as the control complex does (R356); a fault comes with its address. -/
def gread (s : State) (p va n : Nat) : Except (Nat × Nat) (State × List Byte) :=
  let r := s.walkFor p va []
  match r.2 with
  | .error c => .error (c, va)
  | .ok l =>
    let t := if l.tier = 2 then (r.1.dmaAdd p n, []) else r.1.homeTouch p (leafAddr l va) n false
    match t.1.leafRead l va n with
    | .error c => .error (c, t.1.badAt l va n)
    | .ok bs => .ok (retireAll t, bs)

/-- What an access of slot p that failed at an address leaves: MEM_UE sets its status bit, and firmware retires the page (R304, R308). -/
def memFault (s : State) (p c va : Nat) : State :=
  if c ≠ 0x55 then s
  else
    let s1 := match s.xlate p va with
      | .ok l => if l.tier = 2 then s else retireAll (s.homeTouch p (leafAddr l va) 1 false)
      | .error _ => s
    s1.setVue p 3 0x55

/-- Writing bytes within one page of a partition's virtual memory: XLATE_WRITE on an NW page. -/
def gwrite (s : State) (p va : Nat) (bs : List Byte) : Except Nat State :=
  let r := s.walkFor p va []
  match r.2 with
  | .error c => .error c
  | .ok l =>
    if l.nw then .error 0x52
    else if l.tier = 2 && s.hostFails (leafAddr l va) bs.length then .error 0x54
    else .ok (r.1.homeWrite p l va bs)

/-- Reading n bytes over page boundaries; a fault comes with its address. `fuel` bounds the pages. -/
def greadN (s : State) (p va : Nat) : Nat → Nat → Except (Nat × Nat) (State × List Byte)
  | 0, _ => .ok (s, [])
  | fuel + 1, n =>
    if n = 0 then .ok (s, [])
    else
      let k : Nat := min n (2 ^ 16 - va % 2 ^ 16)
      match s.gread p va k with
      | .error e => .error e
      | .ok (s1, bs) => match greadN s1 p (va + k) fuel (n - k) with
        | .error e => .error e
        | .ok (s2, cs) => .ok (s2, bs ++ cs)

end State

end Sys2Proof.Machine
end

