-- ==== Sys2Proof/Machine/Route.lean ====
section
/-! DEFINITION. Routes of the partition plane (R194, R195, R197): the outputs that a flit crosses. Output `32 c + k` is output k of the
router of cluster number c, in the bit order of R198's TREE field; output `65536 + 64 (4 die + g) + k` is output k of gateway g (N, E, S,
W) of a die: 0 the die edge, 1 + g' the transit crossbar towards gateway g', 8 + 12 q + i the attach link of cluster i of quadrant q. The memory plane (R202) has the outputs
2^20 + 4096 k + i: k = 0 is the port of cluster number i into its die's taproot and k = 4 that out of it; k = 1 the link
of memory gateway i towards the I/O dies and k = 3 the same link inward, i = 2 × die + side, side 0 north and 1 south; k = 2 the chain link of I/O die i / 2 to its lower (i even) or
upper neighbour. -/

namespace Sys2Proof.Machine

/-- Number of the cluster at quadrant q, index i of a die. -/
def clusOf (die q i : Nat) : Nat :=
  (die / 6 * 6 + q / 2 * 3 + i / 4) * 48 + (die % 6 * 8 + q % 2 * 4 + i % 4)

/-- Quadrant and index of a cluster number (R194). -/
def quadOf (c : Nat) : Nat := c / 48 % 6 / 3 * 2 + c % 48 % 8 / 4

def idxOf (c : Nat) : Nat := c / 48 % 3 * 4 + c % 4

/-- The endpoint cluster, in quadrant q, of the long link between quadrants q and r (R195). -/
def longEnd (q r : Nat) : Nat :=
  match q, r with
  | 0, 1 => 7 | 1, 0 => 4 | 0, 2 => 9 | 2, 0 => 1 | 0, 3 => 11 | 3, 0 => 0
  | 1, 2 => 8 | 2, 1 => 3 | 1, 3 => 10 | 3, 1 => 2 | 2, 3 => 7 | _, _ => 4

def rOut (c k : Nat) : Nat := 32 * c + k

def gOut (die g k : Nat) : Nat := 65536 + 64 * (4 * die + g) + k

/-- The local hop from index i to index j of one quadrant; nothing when they are equal. -/
def hopLocal (die q i j : Nat) : List Nat := if i = j then [] else [rOut (clusOf die q i) (if j < i then j else j - 1)]

/-- The long link from quadrant q to quadrant r. -/
def hopLong (die q r : Nat) : Nat := rOut (clusOf die q (longEnd q r)) (11 + (if r < q then r else r - 1))

/-- From index i of quadrant q over one long link to index j of quadrant r. -/
def hopQuad (die q i r j : Nat) : List Nat :=
  hopLocal die q i (longEnd q r) ++ [hopLong die q r] ++ hopLocal die r (longEnd r q) j

/-- Within one die; `iq` is the intermediate quadrant of a non-minimal class. -/
def routeDie (die q i r j : Nat) (iq : Option Nat) : List Nat :=
  match iq with
  | some m =>
    if m = q ∨ m = r ∨ q = r then (if q = r then hopLocal die q i j else hopQuad die q i r j)
    else hopQuad die q i m (longEnd m r) ++ [hopLong die m r] ++ hopLocal die r (longEnd r m) j
  | none => if q = r then hopLocal die q i j else hopQuad die q i r j

/-- Quadrant q lies along edge g. -/
def onEdge (g q : Nat) : Bool :=
  match g with
  | 0 => q < 2
  | 1 => q % 2 == 1
  | 2 => 2 ≤ q
  | _ => q % 2 == 0

/-- The quadrant beside q in its row for the east and west edges, in its column for the north and south edges. -/
def beside (g q : Nat) : Nat := if g % 2 = 1 then (if q % 2 = 0 then q + 1 else q - 1) else (if q < 2 then q + 2 else q - 2)

/-- From a cluster to gateway g of its die. -/
def routeExit (die q i g : Nat) : List Nat :=
  if onEdge g q then [rOut (clusOf die q i) (14 + g)]
  else
    let r := beside g q
    hopLocal die q i (longEnd q r) ++ [hopLong die q r, rOut (clusOf die r (longEnd r q)) (14 + g)]

/-- From gateway g of the destination die to index j of quadrant r. Where the gateway's edge does not border the destination quadrant, the flit enters by the quadrant on that edge that lies in
the destination's row or column: R197 names no other (DEDUCED, log 114). A non-minimal class passes through its intermediate quadrant, which it reaches by its own attach link
where that lies along the edge. -/
def routeEntry (die g r j : Nat) (iq : Option Nat) : List Nat :=
  match iq.filter fun m => m != r with
  | some m =>
    let last := hopLong die m r :: hopLocal die r (longEnd r m) j
    if onEdge g m then gOut die g (8 + 12 * m + longEnd m r) :: last
    else
      let q := beside g m
      [gOut die g (8 + 12 * q + longEnd q m), hopLong die q m] ++ hopLocal die m (longEnd m q) (longEnd m r) ++ last
  | none =>
  if onEdge g r then [gOut die g (8 + 12 * r + j)]
  else
    let q := beside g r
    [gOut die g (8 + 12 * q + longEnd q r), hopLong die q r] ++ hopLocal die r (longEnd r q) j

/-- Die-edge links along a straight run: leaving by gateway g of `die`, `n` links, the last entering by the facing gateway. -/
def runDies (g : Nat) (stride : Int) : Nat → Nat → List Nat
  | _, 0 => []
  | die, n + 1 =>
    let next : Nat := ((die : Int) + stride).toNat
    gOut die g 0 :: (if n = 0 then [] else [gOut next ((g + 2) % 4) (1 + g)]) ++ runDies g stride next n

/-- The whole route between two clusters (R197), ending at the destination router's own-cluster output. -/
def routeOf (src dst : Nat) (iq : Option Nat) : List Nat :=
  let d := dieOfClus src
  let e := dieOfClus dst
  let fin := rOut dst 18
  if d = e then routeDie d (quadOf src) (idxOf src) (quadOf dst) (idxOf dst) iq ++ [fin]
  else
    let x := d % 6
    let x' := e % 6
    let y := d / 6
    let y' := e / 6
    let gx : Nat := if x < x' then 1 else 3
    let gy : Nat := if y < y' then 2 else 0
    let nx : Nat := if x < x' then x' - x else x - x'
    let ny : Nat := if y < y' then y' - y else y - y'
    let turn : Nat := y * 6 + x'
    let first : Nat := if nx = 0 then gy else gx
    let lastG : Nat := if ny = 0 then (gx + 2) % 4 else (gy + 2) % 4
    routeExit d (quadOf src) (idxOf src) first
      ++ runDies gx (if x < x' then 1 else -1) d nx
      ++ (if nx ≠ 0 ∧ ny ≠ 0 then [gOut turn ((gx + 2) % 4) (1 + gy)] else [])
      ++ runDies gy (if y < y' then 6 else -6) turn ny
      ++ routeEntry e lastG (quadOf dst) (idxOf dst) (iq.filter fun m => m != quadOf src) ++ [fin]

/-- The router at the far end of local or long link k of a router (R194, R195). -/
def neighbour (c k : Nat) : Nat :=
  let i := idxOf c
  let q := quadOf c
  if k < 11 then clusOf (dieOfClus c) q (if k < i then k else k + 1)
  else (let r : Nat := if k - 11 < q then k - 11 else k - 10; clusOf (dieOfClus c) r (longEnd r q))

/-- Output k of a router is a link to another one. -/
def hasLink (c k : Nat) : Bool :=
  let q := quadOf c
  k < 11 || (k < 14 && (let r : Nat := if k - 11 < q then k - 11 else k - 10; longEnd q r == idxOf c))

/-- The gateway by which a flit leaves its die for another (R197): east or west where the columns differ, else north or south. -/
def exitGate (d e : Nat) : Nat := if d % 6 < e % 6 then 1 else if e % 6 < d % 6 then 3 else if d < e then 2 else 0

/-- The way from a router to another along the outputs that a tree's masks name (R198): local and long links, on the way to another die the gateway by which R197 leaves, and at the end the
router's own cluster; none where the tree does not lead there. Gateways hold no masks: from the gateway on the route is the minimal one, which `after` gives (log 43). `fuel` bounds the hops. -/
def treePath (mask : Nat → Nat) (dst : Nat) (after : List Nat) : Nat → List Nat → Nat → Option (List Nat)
  | 0, _, _ => none
  | fuel + 1, seen, c =>
    let d := dieOfClus c
    let g := exitGate d (dieOfClus dst)
    if c = dst then (if (mask c).testBit 18 then some [rOut dst 18] else none)
    else if d ≠ dieOfClus dst ∧ (mask c).testBit (14 + g) ∧ onEdge g (quadOf c) then some (rOut c (14 + g) :: after)
    else (List.range 14).findSome? fun k =>
      if (mask c).testBit k && hasLink c k && !seen.contains (neighbour c k) then
        (treePath mask dst after fuel (c :: seen) (neighbour c k)).map fun r => rOut c k :: r
      else none

/-- The virtual channel of a hop (R197): by its phase, and on the destination die by the long links behind it. -/
def vcOf (src dst out longs : Nat) : Nat :=
  let d := dieOfClus dst
  if out < 65536 then
    if dieOfClus (out / 32) != d then 0 else if 11 ≤ out % 32 && out % 32 < 14 then 4 + 2 * longs else 3 + 2 * longs
  else
    let k := (out - 65536) % 64
    let g := (out - 65536) / 64 % 4
    if 8 ≤ k then (if (out - 65536) / 256 = d then 3 else 0)
    else if dieOfClus src = d then 0
    else if k = 0 then (if g % 2 = 1 then 1 else 2) else if (k - 1) % 2 = 1 then 1 else 2

/-- A hop over a long link of the destination die. -/
def longHop (dst out : Nat) : Bool := out < 65536 && 11 ≤ out % 32 && out % 32 < 14 && dieOfClus (out / 32) == dieOfClus dst

-- The memory plane (R202) -----------------------------------------------------------------------------------------------------------------

def mOut (k i : Nat) : Nat := 2 ^ 20 + 4096 * k + i

/-- Kind and number of an output of the memory plane. -/
def mKind (out : Nat) : Nat := (out - 2 ^ 20) / 4096

def mIdx (out : Nat) : Nat := (out - 2 ^ 20) % 4096

/-- The port by which a request slot of an element gives its flits to its router: each slot has its own (log 113). -/
def elemPort (a j : Nat) : Nat := 2 ^ 22 + 8 * a + j

/-- The port by which a home slice gives its replies to its I/O die. -/
def slicePort (k : Nat) : Nat := 2 ^ 21 + k

/-- The I/O die of a home slice; the host-link unit, which stands as slice 192, lies at N0. DESIGN CHOICE for the unit (log 113). -/
def ioOf (k : Nat) : Nat := if k < 192 then k / 16 else 0

/-- The dies of a column from one row to its end on a side, nearest the end last. -/
def columnDies (die side : Nat) : List Nat :=
  if side = 0 then (List.range (die / 6 + 1)).map fun k => die - 6 * k else (List.range (4 - die / 6)).map fun k => die + 6 * k

/-- The I/O dies that a chain passes from position x to position x', the last one left out. -/
def chainDies (side x x' : Nat) : List Nat := (List.range (if x < x' then x' - x else x - x')).map fun k => 6 * side + (if x < x' then x + k else x - k)

/-- A request's route (R202): its cluster's port, up or down its column on the side of its home, and along that chain. -/
def routeReq (c slice : Nat) : List Nat :=
  let die := dieOfClus c
  let io := ioOf slice
  let side := io / 6
  [mOut 0 c] ++ (columnDies die side).map (fun d => mOut 1 (2 * d + side))
    ++ (chainDies side (die % 6) (io % 6)).map fun n => mOut 2 (2 * n + if die % 6 < io % 6 then 1 else 0)

/-- A reply's route: the request's in reverse (R202). -/
def routeRsp (c slice : Nat) : List Nat :=
  let die := dieOfClus c
  let io := ioOf slice
  let side := io / 6
  (chainDies side (io % 6) (die % 6)).map (fun n => mOut 2 (2 * n + if io % 6 < die % 6 then 1 else 0))
    ++ (columnDies die side).reverse.map (fun d => mOut 3 (2 * d + side)) ++ [mOut 4 c]

/-- The virtual channel of a hop on the memory plane (R202): 0 and 1 in the column and the chain of a request (virtual network 4), 2 and 3 in the chain and the column of a reply. -/
def memVc (vn out : Nat) : Nat := if vn = 4 then (if mKind out = 2 then 1 else 0) else if mKind out = 2 then 2 else 3

/-- Flits per cycle of an output's link (R194, R202); a chain link's rate is not given: the memory gateways' is taken (DESIGN CHOICE, log 113). -/
def outWidth (out : Nat) : Nat :=
  if out < 65536 then (if 11 ≤ out % 32 ∧ out % 32 < 14 then 4 else 1)
  else if out < 2 ^ 20 then (if (out - 65536) % 64 < 8 then 8 else 1)
  else if mKind out = 0 ∨ mKind out = 4 then 2 else 16

/-- The input port of the next router that an output leads to, in R198's order; 18 is the router's own cluster. The ports of the memory plane are taken in the order of their
numbers (DESIGN CHOICE, log 113). -/
def inPort (out : Nat) : Nat :=
  if 2 ^ 20 ≤ out then out else
  if out < 65536 then
    let c := out / 32
    let k := out % 32
    let i := idxOf c
    let q := quadOf c
    if k < 11 then (let j : Nat := if k < i then k else k + 1; if i < j then i else i - 1)
    else if k < 14 then (let r : Nat := if k - 11 < q then k - 11 else k - 10; 11 + (if q < r then q else q - 1))
    else if k < 18 then 8 + 12 * q + i
    else 18
  else
    let g := (out - 65536) / 64 % 4
    let k := (out - 65536) % 64
    if k = 0 then 0 else if k < 8 then 1 + g else 14 + g

end Sys2Proof.Machine
end

