-- ==== Sys2Proof/Machine/Faults.lean ====
section
/-! DEFINITION. Shared operations on faults, records, counts, networks and arrivals: ring records and status bits (R302 to R305), the
fault operation with its trap token (R55), the end of an activation (R56), request slots (R121), SENT and RECV (R279), injection with
the hedge (R289), arrival and readiness (R46, R47, R49), and the delivery of replies (R137). -/

namespace Sys2Proof.Machine

-- Storage errors (R124, R132, R309) ----------------------------------------------------------------------------------------------

/-- Logs an event in an element's error log (R132). A syndrome tells a correctable error from an uncorrectable one. -/
def logEvent (e : Elem) (f : Flip) (ctx : Nat) : Elem :=
  let syn : Nat := Config.syndrome f.mask % 256
  let same (x : ErrLog) : Bool := x.array == f.array && x.addr == f.at_ && x.syn == syn && x.ue == f.ue
  if e.errlog.any same then { e with errlog := e.errlog.map fun x => if same x then { x with count := min 255 (x.count + 1) } else x }
  else if 8 ≤ e.errlog.length then { e with errlog := e.errlog.mapIdx fun i x => if i = 7 then { x with ovf := true } else x }
  else { e with errlog := e.errlog ++ [⟨f.array, f.ue, false, ctx, syn, 1, f.at_⟩] }

/-- The injected errors of an array that touch the given indices. -/
def eccHits (e : Elem) (array : Nat) (idxs : List Nat) : List Flip := e.ecc.filter fun f => f.array == array && idxs.contains f.at_

/-- The fatal fault of an uncorrectable error in an array (R37, R124, R132). -/
def eccCode (array : Nat) : Nat := if array = 0 then 0x33 else if array = 1 then 0x3D else 0x39

/-- Words of n bytes of a local store from address a on. -/
def wordsAt (a n : Nat) : List Nat := (List.range ((a + n + 7) / 8 - a / 8)).map fun k => a / 8 + k

/-- The 64-bit words of a header and of slots. -/
def frameWords (y : HEntry) (js : List Nat) : List Nat := wordsAt y.addr 64 ++ js.flatMap fun j => wordsAt (Elem.slotAddr y j) 16

namespace State

-- Rings --------------------------------------------------------------------------------

/-- A dropped record (R302). -/
def ringLost (s : State) (f : Nat) : State :=
  (s.modFn f fun x => { x with ering := { x.ering with ovf := if x.ering.ovf = 0xFFFFFFFF then x.ering.ovf else x.ering.ovf + 1 } }).setVue f 2 0

/-- A record of 128 bits into the error ring of function f (R302): a VF's ring lies in its partition's virtual memory, the PF's in host
memory. -/
def ringPush (s : State) (f rec : Nat) : State :=
  let r := (s.fn f).ering
  let size : Nat := 2 ^ (r.sz + 8)
  if !r.en || (r.wr - r.rd).toNat == size then s.ringLost f
  else
    let a : Nat := r.base + 16 * (r.wr.toNat % size)
    let up (x : State) : State := x.modFn f fun y => { y with ering := { y.ering with wr := y.ering.wr + 1 } }
    if f = 128 then (if s.hostFails a 16 then s.ringLost f else up { s with host := Memory.writeN s.host a 16 rec })
    else match s.gwrite f a (leBytes 16 rec) with
      | .ok s1 => up s1
      | .error _ => s.ringLost f

/-- The function whose ring takes the records of a context: the PF for a stack that a PF queue runs (R260), else the slot's own VF. -/
def ringFn (s : State) (a k : Nat) : Nat := if (s.ctx a k).service then 128 else s.ownOf a k

/-- A fault record to the error ring alone (R55, R305). -/
def errorOnly (s : State) (o : Org) (code : Nat) : State := s.ringPush (s.ringFn o.elem o.ctx) (s.faultRec o code)

/-- An FPX record (R79). -/
def fpx (s : State) (o : Org) : State := s.ringPush (s.ringFn o.elem o.ctx) (s.fpxRec o)

-- Regions and counts (R278, R279) --------------------------------------------------------------------------------------------

/-- Column and row of an element within the partition that a hedge names. -/
def pcol (h : Hedge) (a : Nat) : Nat := (gridX a - h.orgx) * 12 + elemCol a

def prow (h : Hedge) (a : Nat) : Nat := (gridY a - h.orgy) * 8 + elemRow a

/-- A place of the partition lies in a region: in its rectangle, or in that of the stack parked there (R278, R281). -/
def regHolds (r : Region) (x y : Nat) : Bool :=
  let in_ (x0 y0 w h : Nat) : Bool := x0 ≤ x && x < x0 + w && y0 ≤ y && y < y0 + h
  (r.used && in_ r.x0 r.y0 r.w r.h) || (match r.parked with | some k => in_ k.x0 k.y0 k.w k.h | none => false)

/-- The region of partition p that holds element a. -/
def regionAt (s : State) (p : Nat) (h : Hedge) (a : Nat) : Option Nat :=
  (List.range 8).find? fun j => regHolds (s.region p j) (pcol h a) (prow h a)

/-- SENT at element a for an event addressed to element d (R279). -/
def countSent (s : State) (a k d : Nat) : State :=
  let h := s.hedge (clusNo a) k
  match s.regionAt h.own h d with
  | some j => s.modElem a fun e => { e with sent := e.sent.put (8 * h.own + j) (e.sent.get 0 (8 * h.own + j) + 1) }
  | none => s

/-- RECV at element a for the region that holds element d (R279): d is a itself for a token, the continuation's element for a refusal. -/
def countGot (s : State) (a k d : Nat) : State :=
  let h := s.hedge (clusNo a) k
  match s.regionAt h.own h d with
  | some j => s.modElem a fun e => { e with recv := e.recv.put (8 * h.own + j) (e.recv.get 0 (8 * h.own + j) + 1) }
  | none => s

/-- An element's region makes progress (R307). -/
def progress (s : State) (a k : Nat) : State :=
  let h := s.hedge (clusNo a) k
  match s.regionAt h.own h a with
  | some j => s.modRegion h.own j fun g => { g with lastEvent := s.t7 }
  | none => s

/-- A token that R46 counts is received (R279, R307). -/
def countRecv (s : State) (a k d : Nat) : State := (s.countGot a k d).progress a k

/-- SENT for a continuation at issue: the region that holds the continuation frame's element (R279). -/
def countCont (s : State) (a k : Nat) (c : Option Cont) : State :=
  match c with
  | some c => match s.absOf a k (hElem c.fh) with
    | some d => s.countSent a k d
    | none => s
  | none => s

/-- RECV for a refusal that delivers nothing (R279); no token is received (R307). -/
def countRefused (s : State) (o : Org) : State :=
  match o.cont with
  | some c => match s.absOf o.elem o.ctx (hElem c.fh) with
    | some d => s.countGot o.elem o.ctx d
    | none => s
  | none => s

-- Request slots (R121) ---------------------------------------------------------------------------------------------------------

def freeReq (s : State) (a : Nat) (slot : Option Nat) : State :=
  match slot with
  | some k => s.modElem a fun e => { e with reqs := setAt e.reqs k none }
  | none => s

-- The networks (R38, R196, R289) ------------------------------------------------------------------------------------------------

/-- Two places on one router. -/
def placeClus : Place → Nat
  | .elem a => clusNo a
  | .clus c => c
  | _ => 0

/-- One bit of a CRC-32C (R201), bits taken from the lowest. -/
def crcStep (c b : Nat) : Nat := if (c + b) % 2 = 1 then (c / 2) ^^^ 0x82F63B78 else c / 2

/-- The CRC-32C of the n lowest bits of a number, from bit 0 upward: polynomial 0x1EDC_6F41, initial value and final XOR all ones (R201). -/
def crc32c (x n : Nat) : Nat := (List.range n).foldl (fun c i => crcStep c (bitsOf x i 1)) 0xFFFFFFFF ^^^ 0xFFFFFFFF

/-- The fields that a flit has in the places of R38; VN, ABS and OWN of every flit, and all of a token's. The spec lays out no other part of the other flits, and the model takes it as zero
(log 103). -/
def flitBits (x : Flight) : Nat :=
  let abs : Nat := match x.dst with | .elem a => a | _ => 0
  let low : Nat := x.vn % 4 * 2 ^ 61 + abs % 2 ^ 18 * 2 ^ 43 + x.own % 2 ^ 7 * 2 ^ 36
  match x.msg with
  | .tok t => t.payload.toNat * 2 ^ 192 + t.tag.toNat * 2 ^ 128 + t.fh.toNat * 2 ^ 96 + t.node % 4096 * 2 ^ 84 + t.port % 4 * 2 ^ 82 + t.tail.toNat * 2 ^ 78
      + t.fill % 128 * 2 ^ 71 + t.col % 8 * 2 ^ 68 + t.e.toNat * 2 ^ 67 + t.cls % 16 * 2 ^ 63 + low
  | _ => low

/-- CHK of a flit (R38, R201). -/
def flitChk (x : Flight) : Nat := crc32c (flitBits x / 2 ^ 32) 224

/-- A router or endpoint finds that a flit's bits do not match its CHK (R201). -/
def chkFails (x : Flight) : Bool :=
  let w := (flitBits x + x.chk) ^^^ x.noise
  x.noise != 0 && w % 2 ^ 32 != crc32c (w / 2 ^ 32) 224

/-- The route of a flit of a route-class entry (R197, R198): minimal, non-minimal, or along the class's tree where this leads to the destination (log 43). -/
def classRoute (s : State) (ts cls src dst : Nat) : List Nat :=
  let ent (c : Nat) : RouteEnt := (s.clus c).routes.get {} (16 * ts + cls)
  let r := ent src
  let after := (routeOf src dst none).drop (routeExit (dieOfClus src) (quadOf src) (idxOf src) (exitGate (dieOfClus src) (dieOfClus dst))).length
  let tree := if r.mode = 2 then treePath (fun c => (ent c).tree) dst after 48 [] src else none
  tree.getD (routeOf src dst (if r.mode = 1 then some r.iq else none))

/-- A message handed to a network: on one element, on the cluster buses, and to and from the units of the I/O dies it is at its endpoint at
once; through the partition plane it starts as a candidate at its first output, with its check word. -/
def post (s : State) (src dst : Place) (vn cls own : Nat) (bus : Bool) (msg : Msg) : State :=
  let c := placeClus src
  let ts := if (nth (s.clus c).hedges 1 {}).v && (nth (s.clus c).hedges 1 {}).own == own then 1 else 0
  let plane : Bool := !bus && src != dst && (match src, dst with
    | .cp, _ => false | _, .cp => false | .disp _, _ => false | _, .disp _ => false | _, _ => true)
  let f : Flight := { src := src, dst := dst, vn := vn, cls := cls, own := own, msg := msg, port := rOut c 31, since := s.cycle }
  if plane then
    { s with net := s.net ++ [{ f with route := s.classRoute ts cls c (placeClus dst), at_ := .cand, stamp := s.hops, chk := flitChk f }], hops := s.hops + 1 }
  else { s with net := s.net ++ [f] }

/-- A flit enters the memory plane by an input port, with its check word, and is a candidate at the first output of its route (R201, R202). -/
def postMem (s : State) (src dst : Place) (vn own port : Nat) (route : List Nat) (msg : Msg) : State :=
  let f : Flight := { src := src, dst := dst, vn := vn, cls := 0, own := own, msg := msg, route := route, port := port, at_ := .cand, stamp := s.hops, since := s.cycle }
  { s with net := s.net ++ [{ f with chk := flitChk f }], hops := s.hops + 1 }

/-- HEDGE_DROP (R289, R305): the record of a flit whose destination lies outside the rectangle. -/
def hedgeDrop (s : State) (o : Org) (tag : DWord) (fh : Word) : State := s.errorOnly { o with tag := tag, fh := fh } 0x82

/-- A token leaves element a: the hedge forms its absolute destination; outside the rectangle it is dropped and counts nowhere (R289).
`count` says that it counts as sent here (R145, R279). -/
def injectToken (s : State) (o : Org) (t : Token) (count : Bool) : State :=
  let a := o.elem
  match s.absOf a o.ctx (hElem t.fh) with
  | none => s.hedgeDrop o t.tag t.fh
  | some d =>
    let s1 := if count then s.countSent a o.ctx d else s
    s1.post (.elem a) (.elem d) 2 t.cls (s.ownOf a o.ctx) false (.tok t)

-- Readiness and arrival -----------------------------------------------------------------------------------------------------------

/-- The LINK bits of the entry before `nxt` (R44): the last entry names nothing and has END = 1. -/
def linkBits (nxt : Option ReadyEntry) : Nat :=
  match nxt with
  | some n => hIdx n.fh * 2 ^ 16 + hGen n.fh * 2 ^ 12 + n.node
  | none => 2 ^ 26

/-- Writes the LINK of one ready node's first slot. -/
def linkOne (s : State) (a : Nat) (x : ReadyEntry) (nxt : Option ReadyEntry) : State :=
  let e := s.elem a
  match e.live x.fh with
  | some y => match s.head a (e.readHdr y).ctx x.node with
    | some (_, o) => s.setElem a (e.setSlot y o.slot.toNat (setBits (e.slot y o.slot.toNat) 96 31 (linkBits nxt)))
    | none => s
  | none => s

def linkAll (s : State) (a : Nat) : List ReadyEntry → State
  | [] => s
  | [x] => s.linkOne a x none
  | x :: y :: r => linkAll (s.linkOne a x (some y)) a (y :: r)

/-- Threads one channel's ready list anew through its slots (R44, R47). -/
def relink (s : State) (a ch : Nat) : State := s.linkAll a ((s.elem a).ready.filter fun x => x.ch == ch)

/-- The node's firing condition (R47, R50). -/
def fires (e : Elem) (y : HEntry) (kind : Nat) (o : OpN) : Bool :=
  let n : Nat := o.nin.toNat + 1
  let p (k : Nat) : Bool := slotP (e.slot y (o.slot.toNat + k))
  if kind = 2 then p 0 || p 1 else (List.range n).all p

/-- Appends a node to its channel's ready list when its condition is true and it is not on it (R47). -/
def noteReady (s : State) (a : Nat) (fh : Word) (node ch : Nat) : State :=
  let e := s.elem a
  match e.live fh with
  | some y => match s.head a (e.readHdr y).ctx node with
    | some (kind, o) =>
      if fires e y kind o && !(e.ready.any fun r => r.fh == fh && r.node == node) then
        (s.setElem a { e with ready := e.ready ++ [⟨fh, node, ch, s.cycle⟩] }).relink a ch
      else s
    | none => s
  | none => s

/-- The trap token of a fault record (R55): none when the trap destination is unused, the frame is stale or the trap slot is present. DESIGN CHOICE (log 109): R55 and
R40 say neither COL, TAIL and FILL of the token nor its place among the element's other tokens; it has COL 0, TAIL 0 and the header's FILL, and leaves at once. -/
def trapToken (s : State) (o : Org) (code : Nat) : State :=
  let a := o.elem
  let e := s.elem a
  match e.live o.fh with
  | none => s
  | some y =>
    let h := e.readHdr y
    let d := (s.ctx a h.ctx).trap
    let busy : Bool := match s.head a h.ctx d.node.toNat with
      | some (_, q) => slotP (e.slot y q.slot.toNat)
      | none => false
    if d.mode == 0 || busy then s
    else
      let pl : Nat := code % 256 * 2 ^ 56 + o.word % 128 * 2 ^ 44 + o.node % 4096 * 2 ^ 32 + o.fh.toNat
      s.injectToken o { payload := BitVec.ofNat 64 pl, tag := h.tag, fill := h.fill, fh := o.fh, node := d.node.toNat, e := true, trap := true } true

/-- A fault (R55): its record goes to the error ring and to the trap node of the affected frame. -/
def fault (s : State) (o : Org) (code : Nat) : State := (s.errorOnly o code).trapToken o code

/-- A fault found when a token arrives; a trap token's own fault makes no trap token (R55). -/
def arriveFault (s : State) (a k : Nat) (t : Token) (code : Nat) : State :=
  let o : Org := { elem := a, ctx := k, fh := t.fh, node := t.node, tag := t.tag }
  if t.trap then s.errorOnly o code else s.fault o code

/-- The context through which a handle of element a is owned when its frame is gone: tenant slots split the handle table (R291). -/
def ctxOfHandle (s : State) (a : Nat) (h : Word) : Nat := if s.shared (clusNo a) && 512 ≤ hIdx h then 4 else 0

/-- R49: a token at an empty JOIN slot. -/
def joinArrive (s : State) (a k : Nat) (y : HEntry) (h : FrameHdr) (j ch : Nat) (t : Token) : State :=
  let e := s.elem a
  let v := e.slot y j
  if h.comp = 0 then s.arriveFault a k t 0x25
  else
    let s1 := s.setElem a (e.writeHdr y { h with comp := h.comp - 1 })
    let acc : Bool := t.e || bitsOf v 69 1 == 1
    if h.comp = 1 then (s1.modElem a fun e => e.setSlot y j (slotStore v t acc)).noteReady a t.fh t.node ch
    else s1.modElem a fun e => e.setSlot y j (setBits v 69 1 acc.toNat)

/-- R46: a token reaches element a. -/
def applyToken (s : State) (a : Nat) (t : Token) : State :=
  let s := s.modElem a fun e => e.count (s.ownOf a (s.ctxOfHandle a t.fh)) 4 1
  let e := s.elem a
  match e.live t.fh with
  | none =>
    let k := s.ctxOfHandle a t.fh
    (s.countRecv a k a).arriveFault a k t 0x23
  | some y =>
    let h := e.readHdr y
    let k := h.ctx
    let s := s.countRecv a k a
    let ce := e.classes.get {} (16 * s.tslotOf (clusNo a) k + t.cls)
    let node : Nat := if t.handler then ce.node else t.node
    let t : Token := { t with node := node }
    -- a class without a valid entry; class 0, which no program need declare, names no handler (log 104)
    if (t.handler || t.cls != 0) && !ce.valid then s.arriveFault a k t 0x24
    else match s.head a k node with
    | none => s.arriveFault a k t 0x24
    | some (kind, o) =>
      let j : Nat := o.slot.toNat + t.port
      let ch : Nat := if t.handler then ce.ch else o.ch.toNat
      if o.nin.toNat < t.port || h.nslot < j then s.arriveFault a k t 0x24
      else if slotP (e.slot y j) then s.arriveFault a k t 0x22
      else if kind = 9 then s.joinArrive a k y h j ch t
      else (s.modElem a fun e => e.setSlot y j (slotStore (e.slot y j) t t.e)).noteReady a t.fh node ch

/-- The context that runs at an element for the tenant of one of its contexts (R132). -/
def ctxNow (s : State) (a k : Nat) : Nat :=
  let h := s.hedge (clusNo a) k
  match s.regionAt h.own h a with
  | some j => (s.region h.own j).cur.getD k
  | none => k

/-- A correctable error that was met: its record and SRAM_CE go to the owner of the context, of an element without one its record to the PF (R132, R302, R304).
The spec gives the record no layout. -/
def sramCe (s : State) (a k array : Nat) : State :=
  let rec_ := Config.openRecord (freeIdx a 3 array)
  if (s.hedge (clusNo a) k).v then (s.ringPush (s.ringFn a k) rec_).setVce (s.ownOf a k) 0 else s.ringPush 128 rec_

/-- A read of indices of an array: correctable errors are corrected, written back, logged and reported; whether an uncorrectable one was met, which
is logged as well (R37, R124, R132, R304). -/
def eccRead (s : State) (a k array : Nat) (idxs : List Nat) : State × Bool :=
  let e := s.elem a
  let hit := eccHits e array idxs
  if hit.isEmpty then (s, false)
  else
    let ctx := s.ctxNow a k
    let e1 := hit.foldl (fun e f => logEvent e f ctx) { e with ecc := readFlips e.ecc fun f => f.array == array && idxs.contains f.at_ }
    ((hit.filter fun f => !f.ue).foldl (fun s _ => s.sramCe a k array) (s.setElem a e1), hit.any fun f => f.ue)

/-- A read that a turn makes beside its own checks meets injected errors: one that is uncorrectable is fatal to the partition when the turn ends (R124, R132). -/
def eccMeet (s : State) (a k : Nat) (o : Org) (reads : List (Nat × List Nat)) : State :=
  reads.foldl (fun s r =>
    let x := s.eccRead a k r.1 r.2
    if x.2 then { x.1 with hurt := x.1.hurt ++ [(o, eccCode r.1)] } else x.1) s

/-- The storage that a token reads at an element: the handle table, the context store, and the frame's header and slot (R124, R132), with the context and the node. -/
def tokenReads (s : State) (a : Nat) (t : Token) : Nat × Nat × List (Nat × List Nat) :=
  let e := s.elem a
  match e.live t.fh with
  | none => (s.ctxOfHandle a t.fh, t.node, [(2, [hIdx t.fh])])
  | some y =>
    let k := (e.readHdr y).ctx
    let node : Nat := if t.handler then (e.classes.get {} (16 * s.tslotOf (clusNo a) k + t.cls)).node else t.node
    (k, node, [(2, [hIdx t.fh]), (3, [k]), (0, frameWords y (match s.head a k node with | some (_, o) => [o.slot.toNat + t.port] | none => []))])

/-- A token that is delivered within its element meets the errors of the storage that it reads (R124, R132). -/
def meetToken (s : State) (a : Nat) (t : Token) : State :=
  let r := s.tokenReads a t
  s.eccMeet a r.1 { elem := a, ctx := r.1, fh := t.fh, node := r.2.1, tag := t.tag } r.2.2

/-- A token formed as the grant token (R137) reaches its continuation from element a: at once on its own element, else as a token. It was
counted as sent when its request was issued (R279). -/
def deliver (s : State) (o : Org) (t : Token) : State :=
  match s.absOf o.elem o.ctx (hElem t.fh) with
  | some d => if d = o.elem then (s.meetToken d t).applyToken d t else s.injectToken o t false
  | none => s.injectToken o t false

/-- The grant token of R137 for an operation's continuation, with a payload and E. -/
def grantTok (o : Org) (c : Cont) (payload : DWord) (e : Bool) : Token :=
  { payload := payload, tag := o.tag, fill := o.fill, fh := c.fh, node := c.node, port := c.port, e := e }

/-- The reply to an operation at its issuer: the request slot is freed and the token, if the operation names a continuation, delivered. -/
def replyTo (s : State) (o : Org) (payload : DWord) (e : Bool) : State :=
  let s1 := s.freeReq o.elem o.slot
  match o.cont with
  | some c => s1.deliver o (grantTok o c payload e)
  | none => s1

/-- A poison token (R215) in place of a reply. -/
def poisonTo (s : State) (o : Org) (code : Nat) : State := s.replyTo o (BitVec.ofNat 64 (code % 256)) true

/-- A reply sent over RSP or CTL from another place to the issuer (R176, R189, R190). -/
def replyFrom (s : State) (src : Place) (o : Org) (payload : DWord) : State :=
  s.post src (.elem o.elem) 1 0 (s.ownOf o.elem o.ctx) false (.reply o (o.cont.map fun c => grantTok o c payload o.e))

end State

end Sys2Proof.Machine
end

