-- ==== Sys2Proof/Machine/Operands.lean ====
section
/-! DEFINITION. Operands: source reads (R28), the guard (R29), destination writes, the placement of elements in memory (R141, R236),
the checks of local accesses (R142), and the frame of every body word: `runWord` (R52, R56). -/

namespace Sys2Proof.Machine

/-- What a body word does: it goes on with a state and its activation; it raises a synchronous fault and has no effect (R56); or it raises one
after a read met a storage error, and what the read corrected and logged stays (R124, R132). -/
inductive WRes
  | go (s : State) (act : Act)
  | bad (code : Nat)
  | hurt (s : State) (code : Nat)

-- Source reads ----------------------------------------------------------------------------------------------------------

/-- lit_ext of R28: the literal in every lane, or the 64-bit extension in lane pair 1:0. -/
def litLane (t : Ty) (l : Word) (i : Nat) : Lane :=
  if t.is64 then
    (if i = 0 then Lane.ofWord l else if i = 1 then Lane.ofWord (if t == .i64 && l.msb then 0xFFFFFFFF else 0) else Lane.zero)
  else Lane.ofWord l

/-- Lane i of an input slot (R28). -/
def inLane (x : InSlot) (i : Nat) : Lane :=
  if i = 0 then ⟨x.payload.setWidth 32, x.tail.getLsbD 1, x.tail.getLsbD 0⟩
  else if i = 1 then ⟨(x.payload >>> 32).setWidth 32, x.tail.getLsbD 3, x.tail.getLsbD 2⟩
  else Lane.zero

namespace Act

def temp (a : Act) (r i : Nat) : Lane := nth (nth a.temps r []) i Lane.zero

/-- read_src of R28. -/
def src (a : Act) (t : Ty) (l : Word) (sel : Sel) (i : Nat) : Lane :=
  match sel with
  | .t k => a.temp k.val i
  | .inp k => inLane (nth a.ins k.val {}) i
  | .lit => litLane t l i
  | .z => Lane.zero
  | .tag => if i = 0 then Lane.ofWord (a.hdr.tag.setWidth 32) else if i = 1 then Lane.ofWord ((a.hdr.tag >>> 32).setWidth 32) else Lane.zero
  | .fp => if i = 0 then Lane.ofWord a.fh else Lane.zero

/-- Lane i of a predicate; pt is all lanes true (R29, R52). -/
def pred (a : Act) (p i : Nat) : Bool := if p = 0 then true else nth (nth a.preds (p - 1) []) i false

/-- Lane i of the guard (R29). -/
def guard (a : Act) (pr : BitVec 2) (pn : Bool) (i : Nat) : Bool := a.pred pr.toNat i != pn

/-- The lane pair 1:0 of a source as 64 bits. -/
def pair (a : Act) (t : Ty) (l : Word) (sel : Sel) : DWord :=
  ((a.src t l sel 1).v.setWidth 64 <<< 32) ||| (a.src t l sel 0).v.setWidth 64

/-- Writes a temporary; a write to z is discarded (R28). -/
def setTemp (a : Act) (d : Sel) (ls : List Lane) : Act :=
  match d with
  | .t k => { a with temps := (List.range 8).map fun r => if r = k.val then ls else nth a.temps r [], wrote := a.wrote ++ ls }
  | _ => a

/-- Writes predicate p; a write to pt is discarded (R28). -/
def setPred (a : Act) (p : Nat) (bs : List Bool) : Act :=
  if p = 0 then a else { a with preds := (List.range 3).map fun q => if q = p - 1 then bs else nth a.preds q [] }

end Act

/-- 31 lanes of zeros behind a lane (R83). -/
def lane0 (l : Lane) : List Lane := l :: List.replicate 31 Lane.zero

/-- A 64-bit value in lane pair 1:0, its tail in lane 0 (R57, R83). -/
def lanePair (v : DWord) (g s : Bool) : List Lane :=
  ⟨v.setWidth 32, g, s⟩ :: Lane.ofWord ((v >>> 32).setWidth 32) :: List.replicate 30 Lane.zero

-- The placement of elements (R141) -------------------------------------------------------------------------------------------

/-- The first bit of element i, counted from the access's first byte. -/
def elemBit (t : Ty) (i : Nat) : Nat := if t == .w3 then 32 * (i / 10) + 3 * (i % 10) else t.bits * i

/-- Alignment of an access of a type in bytes (R141). -/
def alignOf (t : Ty) : Nat := if t == .w4 then 1 else if t == .w3 then 4 else t.bits / 8

/-- The bytes that element i of an access at address `va`, with local counterpart `la`, takes, its pattern in place. -/
def elemPieces (t : Ty) (va la i pat : Nat) : List Piece :=
  let b : Nat := elemBit t i
  let off : Nat := b % 8
  let first : Nat := b / 8
  let x : Nat := pat % 2 ^ t.bits * 2 ^ off
  let m : Nat := (2 ^ t.bits - 1) * 2 ^ off
  (List.range ((off + t.bits + 7) / 8)).map fun k =>
    { va := va + first + k, la := la + first + k, mask := BitVec.ofNat 8 (bitsOf m (8 * k) 8), val := BitVec.ofNat 8 (bitsOf x (8 * k) 8) }

/-- The pattern of element i of an access at local address a. -/
def elemRead (m : List Host.Cell) (t : Ty) (a i : Nat) : Nat :=
  let b : Nat := elemBit t i
  bitsOf (Memory.readN m (a + b / 8) ((b % 8 + t.bits + 7) / 8)) (b % 8) t.bits

/-- The active lanes of an access (R141): lane 0 alone for 64-bit types, else the lanes below W whose guard is true. -/
def Act.active (a : Act) (t : Ty) (pr : BitVec 2) (pn : Bool) : List Nat :=
  if t.is64 then (if a.guard pr pn 0 then [0] else []) else (List.range a.width).filter (a.guard pr pn)

/-- Memory with the masked bits of pieces written at their local addresses. -/
def putPieces (m : List Host.Cell) : List Piece → List Host.Cell
  | [] => m
  | p :: ps => putPieces (Memory.put m p.la (mixByte (Memory.get m p.la) p.val p.mask)) ps

/-- The bits of a byte that pieces write. -/
def pieceMask (ps : List Piece) (la : Nat) : Byte := ps.foldl (fun b p => if p.la = la then b ||| p.mask else b) 0

/-- The bytes that pieces are about to overwrite. -/
def oldPieces (m : List Host.Cell) (ps : List Piece) : List Piece := ps.map fun p => { p with val := Memory.get m p.la }

/-- Writes data to a local store, as its own element sees it (R218, R219). -/
def Elem.putOwn (e : Elem) (ps : List Piece) : Elem :=
  { e with mem := putPieces e.mem ps, wdirty := e.wdirty || ps.any fun p => e.inBuffer p.la 1,
           ecc := wroteFlips e.ecc fun f => f.array == 0 && ps.any fun p => p.la / 8 == f.at_ }

/-- Writes data to a local store, for every observer. -/
def Elem.putData (e : Elem) (ps : List Piece) : Elem := { e.putOwn ps with memq := e.memq.map (Elem.passed (pieceMask ps)) }

-- Checks of local accesses (R125, R142, R291) -----------------------------------------------------------------------------------

/-- The local-store bytes that belong to a context's tenant: all of them for a sole tenant (R291). -/
def State.share (s : State) (a k : Nat) : Nat × Nat :=
  let c := clusNo a
  if s.shared c then
    let h0 := nth (s.clus c).hedges 0 {}
    let h1 := nth (s.clus c).hedges 1 {}
    if k < 4 then (0, 0x20000 * h0.shr) else (0x20000 * h0.shr, 0x20000 * (h0.shr + h1.shr))
  else (0, 0x60000)

/-- The fault of a third that is not ON (R125). -/
def thirdFault (e : Elem) (la : Nat) : Option Nat :=
  match nth e.thirds (la / 0x20000) .on with
  | .on => none
  | .off => some 0x31
  | .waking _ => some 0x32

/-- R142, steps 2 and 3, for the bytes at the given local addresses: none when they may be accessed. -/
def State.localCheck (s : State) (a k : Nat) (las : List Nat) : Option Nat :=
  let r := s.share a k
  if las.any fun x => 0x5FFFF < x || x < r.1 || r.2 ≤ x then some 0x36
  else (las.filterMap (thirdFault (s.elem a))).head?

/-- R142 for a whole byte range. -/
def State.rangeCheck (s : State) (a k lo n : Nat) : Option Nat :=
  let r := s.share a k
  if n = 0 then none
  else if 0x5FFFF < lo + n - 1 || lo < r.1 || r.2 < lo + n then some 0x36
  else ((List.range ((lo + n - 1) / 0x20000 - lo / 0x20000 + 1)).filterMap fun j => thirdFault (s.elem a) (lo + 0x20000 * j)).head?

-- The frame of a body word ----------------------------------------------------------------------------------------------------------

/-- The origin of a body word of an activation (R305): its element, frame, node and word, E OR XS, and its place in the issue order. -/
def Act.org (act : Act) (a seq : Nat) : Org :=
  { elem := a, ctx := act.ctx, fh := act.fh, node := act.node, word := act.pc, tag := act.hdr.tag, fill := act.hdr.fill,
    e := act.e || act.xs, aid := act.aid, seq := seq }

/-- The element's next place in its issue order. -/
def State.nextSeq (s : State) (a : Nat) : State × Nat :=
  let e := s.elem a
  (s.setElem a { e with seqNext := e.seqNext + 1 }, e.seqNext)

/-- Frees a sequence slot, which is idle from the given cycle on (R52, R56, R163): what its activation wrote to temporaries may stay behind. -/
def Elem.endSeq (e : Elem) (k cycle : Nat) : Elem :=
  { e with seqs := setAt e.seqs k none, lastBusy := cycle,
           wrote := e.wrote ++ (match nth e.seqs k none with | some x => x.wrote.map fun l => (x.ctx, l) | none => []) }

/-- Frees a sequence slot in this cycle (R52). -/
def State.endSeq (s : State) (a k : Nat) : State := s.modElem a fun e => e.endSeq k s.cycle

/-- A synchronous fault of a body word ends its activation: no further word of it is issued, and its sequence slot is freed in the next cycle (R56). -/
def State.syncFault (s : State) (a k : Nat) (act : Act) (code : Nat) : State :=
  (s.modElem a fun e => { e with late := e.late ++ [.ended k act.aid (s.cycle + 1)] }).fault (act.org a 0) code

/-- The frame has an open ordered-section instance (R231). -/
def Elem.inSection (e : Elem) (fh : Word) : Bool := e.sects.any fun x => x.fh == fh && !x.closed && !x.wait

/-- Stores an activation back with its next word, unless its sequence slot no longer runs it. -/
def State.putAct (s : State) (a k : Nat) (act : Act) : State :=
  s.modElem a fun e =>
    match nth e.seqs k none with
    | some x => if x.aid == act.aid then { e with seqs := setAt e.seqs k (some { act with pc := act.pc + 1 }) } else e
    | none => e

/-- Runs one body word of the activation that the step has chosen. -/
def runWord (s : State) (f : State → Nat → Act → WRes) : Out :=
  match s.cur with
  | none => .fault .noActivation
  | some c =>
    match nth (s.elem c.elem).seqs c.seq none with
    | none => .fault .noActivation
    | some act =>
      match f s c.elem act with
      | .go s1 act1 => .next (s1.putAct c.elem c.seq act1)
      | .bad code => .next (s.syncFault c.elem c.seq act code)
      | .hurt s1 code => .next (s1.syncFault c.elem c.seq act code)

/-- An effect that an open ordered section does not permit: SECTION_OP (R231). -/
def barred (f : State → Nat → Act → WRes) (s : State) (a : Nat) (act : Act) : WRes :=
  if (s.elem a).inSection act.fh then .bad 0x5E else f s a act

/-- A word that only changes its activation. -/
def runPure (s : State) (f : State → Nat → Act → Act) : Out := runWord s fun s a act => .go s (f s a act)

/-- A word whose effect is not per lane: nothing happens when lane 0 of its guard is false (R29). -/
def gated (pr : BitVec 2) (pn : Bool) (f : State → Nat → Act → WRes) (s : State) (a : Nat) (act : Act) : WRes :=
  if act.guard pr pn 0 then f s a act else .go s act

/-- Runs a word whose effect is not per lane and that an open ordered section does not permit: nothing where lane 0 of its guard is false (R29), else SECTION_OP
or its effect (R231). -/
def runBarred (pr : BitVec 2) (pn : Bool) (s : State) (f : State → Nat → Act → WRes) : Out := runWord s <| gated pr pn <| barred f

-- Continuations and request slots -----------------------------------------------------------------------------------------------------

/-- The frame handle that a DST mode gives (R39): none for the null handle. -/
def Act.dstHandle (act : Act) (mode : BitVec 2) : Option Word :=
  let h : Word := if mode == 2 then act.hdr.parent else act.fh
  if isNull h then none else some h

/-- The continuation of a DST field: `some none` for mode 00, none for the null handle (R39). -/
def Act.cont (act : Act) (d : Dst) : Option (Option Cont) :=
  if d.mode == 0 then some none
  else match act.dstHandle d.mode with
    | some h => some (some ⟨h, d.node.toNat, d.port.toNat⟩)
    | none => none

/-- The request slots that a context's tenant may use (R291). -/
def State.slotRange (s : State) (a k : Nat) : List Nat := if s.shared (clusNo a) then (if k < 4 then [0, 1, 2, 3] else [4, 5, 6, 7]) else List.range 8

/-- Slots set aside for running activations (R121). -/
def Elem.setAside (e : Elem) (s : State) (a k : Nat) : Nat :=
  let same (j : Nat) : Bool := !s.shared (clusNo a) || ((j < 4) == (k < 4))
  e.seqs.foldl (fun n x => match x with | some y => if same y.ctx then n + y.reqSet else n | none => n) 0

/-- Free request slots of a context's tenant, those set aside apart (R121). -/
def State.freeSlots (s : State) (a k : Nat) : Nat :=
  let e := s.elem a
  ((s.slotRange a k).filter fun j => (nth e.reqs j none).isNone).length - e.setAside s a k

/-- Takes a request slot for an activation: a set-aside one, else a free one; none when there is neither (R121). -/
def State.takeSlot (s : State) (a : Nat) (act : Act) (r : Req) : Option (State × Act × Nat) :=
  if act.reqSet = 0 && s.freeSlots a act.ctx = 0 then none
  else
    match (s.slotRange a act.ctx).find? fun j => (nth (s.elem a).reqs j none).isNone with
    | none => none
    | some j => some (s.modElem a fun e => { e with reqs := setAt e.reqs j (some r) }, { act with reqSet := act.reqSet - 1 }, j)

end Sys2Proof.Machine
end

