-- ==== Sys2Proof/Machine/Flags.lean ====
section
/-! DEFINITION. The exception bit XS (R54, R78), final stores of lanes with their stochastic draws (R65 to R68) and the FPX record of a
final store (R79). -/

namespace Sys2Proof.Machine

/-- Raises exceptions into XS (R54, R78). -/
def Act.raise (a : Act) (x : Exc) : Act := { a with xs := a.xs || x.any }

/-- FPX of a final store (R79): E OR XS, read after the store's own exceptions, is 1 and at least one element is written. -/
def State.fpxIf (s : State) (a : Nat) (act : Act) (wrote : Bool) : State :=
  if wrote && (act.e || act.xs) then s.fpx (act.org a 0) else s

/-- A 64-bit lane pair's final store (R68): rounded by lane 0's tail, saturated. -/
def storePair (t : Ty) (rm : Nat) (v : DWord) (l0 : Lane) (draw : Nat) : Nat × Exc :=
  let x : Int := if t == .i64 then v.toInt else v.toNat
  let q : Int := 4 * x + 2 * l0.g.toNat + l0.s.toNat
  let fr : Nat := l0.g.toNat * 2 ^ 15 + (if l0.s then 2 ^ 15 - 1 else 0)
  let up : Bool := rm == 6 && 2 ^ 16 ≤ (x * 2 ^ 16 + fr).natAbs % 2 ^ 16 + draw
  let r := finalInt (.fin (q < 0) q.natAbs 1 (-2)) t rm up
  ((r.1 % 2 ^ 64).toNat, r.2)

/-- The stored patterns of the active lanes of a final store of type t, with the exceptions raised. -/
def storeLanes (act : Act) (t : Ty) (rm : Nat) (rng : Word) (l : Word) (sel : Sel) (lanes : List Nat) : List (Nat × Nat) × Exc :=
  if t.is64 then
    lanes.foldl (fun r i =>
      let x := storePair t rm (act.pair t l sel) (act.src t l sel 0) (srDraw rng i)
      (r.1 ++ [(i, x.1)], r.2.or x.2)) ([], Exc.none)
  else
    lanes.foldl (fun r i =>
      let x := storeLane (wholeTy t) t rm (act.src t l sel i) (srDraw rng i)
      (r.1 ++ [(i, x.1)], r.2.or x.2)) ([], Exc.none)

/-- The generator advances once per final store with RM = SR (R67). -/
def State.srAdvance (s : State) (a rm : Nat) : State := if rm = 6 then s.modElem a fun e => { e with rng := rngNext e.rng } else s

end Sys2Proof.Machine
end

