-- ==== Sys2Proof/Machine/Nodes.lean ====
section
/-! DEFINITION. Group 0: the choice of the node that starts (R47, R122, R278, R281), the start of a node, and the thirteen node kinds
(R50, R80 to R82). -/

namespace Sys2Proof.Machine

/-- The port whose slot is the firing slot (R47): port 0, or for a MERGE port 1 when port 0 is empty. -/
def firingPort (e : Elem) (y : HEntry) (kind : Nat) (o : OpN) : Nat :=
  if kind = 2 && !slotP (e.slot y o.slot.toNat) then 1 else 0

/-- The sequence slots that a context's tenant may use (R291). -/
def State.seqRange (s : State) (a k : Nat) : List Nat := if s.shared (clusNo a) then (if k < 4 then [0] else [1]) else [0, 1]

/-- A free sequence slot. -/
def State.seqFree (s : State) (a k : Nat) : Option Nat :=
  (s.seqRange a k).find? fun j => (nth (s.elem a).seqs j none).isNone

/-- Open instances of section n of a context in a region (R231): those of every element of the region. -/
def State.openSects (s : State) (p j k n : Nat) : List Sect :=
  s.elems.rows.foldl (fun l r =>
    if s.regionAt p (s.hedge (clusNo r.1) k) r.1 = some j && s.ownOf r.1 k = p then
      l ++ r.2.sects.filter fun x => x.num == n && x.ctx == k
    else l) []

/-- A ready node whose body begins with OSEC may start only below 32 open instances, and a squashed instance that overflowed only when its
key equals the cursor (R231, R232). -/
def State.sectOk (s : State) (a p j : Nat) (h : FrameHdr) (r : ReadyEntry) : Bool :=
  match s.nodeWord a h.ctx (r.node + 1) with
  | some w => match decode w with
    | some (.osec o) =>
      let n := o.k8.toNat
      let mine := (s.elem a).sects.find? fun x => x.fh == r.fh && x.num == n
      let cur := (s.region p j).cursors.get 0 (16 * h.ctx + n)
      (match mine with
       | some x => !x.direct || x.key == cur
       | none => (s.openSects p j h.ctx n).length < 32)
    | _ => true
  | none => true

/-- A ready node may start (R47, R278, R281). -/
def State.eligible (s : State) (a : Nat) (r : ReadyEntry) : Bool :=
  let e := s.elem a
  match e.live r.fh with
  | none => false
  | some y =>
    let h := e.readHdr y
    let hg := s.hedge (clusNo a) h.ctx
    match s.head a h.ctx r.node, s.regionAt hg.own hg a with
    | some (kind, o), some j =>
      let g := s.region hg.own j
      let cls := (slotIn (e.slot y (o.slot.toNat + firingPort e y kind o))).cls
      let need : Nat := if kind = 4 ∨ kind = 5 ∨ kind = 7 then max 1 o.req.toNat else o.req.toNat
      let halted : Bool := match g.run with | some x => x.halted && x.ctxs.contains h.ctx | none => false
      g.cur == some h.ctx && !halted && !(s.part hg.own).frozen && !(s.ctx a h.ctx).mask.getLsbD cls && need ≤ s.freeSlots a h.ctx
        && (kind != 0 || (s.seqFree a h.ctx).isSome) && !(kind = 12 && g.parking) && s.sectOk a hg.own j h r
    | _, _ => false

/-- The choice of R122 among the eligible ready nodes. The list is in the order in which nodes became ready. -/
def State.chooseStart (s : State) (a : Nat) : Option ReadyEntry :=
  let e := s.elem a
  let el := e.ready.filter (s.eligible a)
  let top : Nat := el.foldl (fun m r => max m r.ch) 0
  let low := el.filter fun r => r.ch < top
  let turn : Bool := e.startCount % 64 == 63
  let longest : Option ReadyEntry := low.foldl (fun b r => match b with
    | none => some r
    | some x => if r.since < x.since || (r.since == x.since && x.ch < r.ch) then some r else some x) none
  match (if turn then longest else none) with
  | some r => some r
  | none => el.find? fun r => r.ch == top

/-- The slots that a starting node latches (R47, R48). -/
def latched (e : Elem) (y : HEntry) (kind : Nat) (o : OpN) : List Nat :=
  if kind = 2 then [o.slot.toNat + firingPort e y kind o] else (List.range (o.nin.toNat + 1)).map fun k => o.slot.toNat + k

/-- Clears P of latched slots and nothing else: E is written by arrivals alone (R44, R47, log 40). -/
def clearSlots (e : Elem) (y : HEntry) (js : List Nat) : Elem := js.foldl (fun e j => e.setSlot y j (setBits (e.slot y j) 68 1 0)) e

/-- A starting node: its element, list entry, frame, header, head, kind, latched inputs and activation number. -/
structure Start where
  a : Nat
  r : ReadyEntry
  y : HEntry
  h : FrameHdr
  o : OpN
  kind : Nat
  ins : List InSlot
  aid : Nat

/-- The activation's E (R48). -/
def Start.e (x : Start) : Bool := x.ins.any fun i => i.e

/-- The origin that a control node's effects name: word 0 is the head. -/
def Start.org (x : Start) : Org :=
  { elem := x.a, ctx := x.h.ctx, fh := x.r.fh, node := x.r.node, word := 0, tag := x.h.tag, fill := x.h.fill, e := x.e, aid := x.aid }

/-- Starts the chosen node: inputs latched, P bits cleared, the entry off its list, the start counted (R47, R122, R326). -/
def startHead (s : State) (kind : Nat) (o : OpN) (f : State → Start → State) : Out :=
  match s.cur with
  | none => .fault .noActivation
  | some c =>
    match c.rdy with
    | none => .fault .noActivation
    | some r =>
      let e := s.elem c.elem
      match e.live r.fh with
      | none => .fault .noActivation
      | some y =>
        let js := latched e y kind o
        let e1 := clearSlots e y js
        let e2 := { e1 with ready := e1.ready.filter fun x => !(x.fh == r.fh && x.node == r.node), startCount := (e1.startCount + 1) % 64,
                            startNext := s.cycle + 1, lastBusy := s.cycle, aidNext := e1.aidNext + 1 }
        let s1 := ((s.setElem c.elem (e2.count (s.ownOf c.elem (e.readHdr y).ctx) 1 1)).relink c.elem r.ch).noteReady c.elem r.fh r.node r.ch
        let h := e.readHdr y
        .next (f (s1.progress c.elem h.ctx)
          { a := c.elem, r := r, y := y, h := h, o := o, kind := kind, ins := js.map fun j => slotIn (e.slot y j), aid := e.aidNext })

/-- Puts a token on the element's send queue (R145). -/
def State.queueTok (s : State) (o : Org) (t : Token) : State :=
  let n := s.nextSeq o.elem
  n.1.modElem o.elem fun e => { e with sendq := e.sendq ++ [{ org := { o with seq := n.2 }, msg := .tok t }] }

/-- The frame handle of a control node's destination (R39). -/
def Start.dst (x : Start) (d : Dst) : Word := if d.mode == 2 then x.h.parent else x.r.fh

/-- A destination of mode 10 meets a null PARENT (R82). -/
def Start.badDst (x : Start) (d : Dst) : Bool := d.mode == 2 && isNull x.h.parent

/-- Port k's token, as R50 builds an emitted token. -/
def Start.tok (x : Start) (k : Nat) : Token :=
  let i := nth x.ins k {}
  { payload := i.payload, tail := i.tail, col := i.col, cls := i.cls, e := x.e, tag := x.h.tag, fill := x.h.fill }

/-- Sends a token to a destination of the head; nothing in mode 00. -/
def Start.send (x : Start) (s : State) (d : Dst) (t : Token) : State :=
  if d.mode == 0 then s else s.queueTok x.org { t with fh := x.dst d, node := d.node.toNat, port := d.port.toNat }

/-- STEER, MERGE, GATE, JOIN, CONST and PRUNE fault when a destination of mode 10 meets a null PARENT (R82). -/
def checkedSend (s : State) (x : Start) (f : State → State) : State :=
  if x.badDst x.o.dsta || x.badDst x.o.dstb then s.fault x.org 0x24 else f s

/-- The lanes that the partition of a context of element a has written to temporaries (R52). -/
def State.written (s : State) (a k : Nat) : List Lane :=
  let p := s.ownOf a k
  s.elems.rows.flatMap fun r =>
    ((r.2.wrote.filter fun x => s.ownOf r.1 x.1 == p).map fun x => x.2)
      ++ r.2.seqs.flatMap fun q => match q with | some y => if s.ownOf r.1 y.ctx == p then y.wrote else [] | none => []

/-- Lane i of temporary r at an activation's entry (R52): a lane that the same partition wrote earlier, or zero; which one is open (log 4). -/
def entryLane (ws : List Lane) (free r i : Nat) : Lane := nth (Lane.zero :: ws) ((Config.freeWord (freeIdx free 0 (32 * r + i))).toNat % (ws.length + 1)) Lane.zero

/-- SEQ (R52): an activation takes a sequence slot; its temporaries hold what the partition wrote earlier, or zero. -/
def execSeq (o : OpN) (s : State) : Out :=
  startHead s 0 o fun s x =>
    match s.seqFree x.a x.h.ctx with
    | none => s
    | some k =>
      let lm := (s.ctx x.a x.h.ctx).lmax
      let col : Nat := (nth x.ins 0 {}).col
      let act : Act :=
        { aid := x.aid, fh := x.r.fh, node := x.r.node, ctx := x.h.ctx, hdr := x.h, nin := o.nin.toNat + 1, len := o.lit.toNat,
          dsta := o.dsta, dstb := o.dstb, pc := 1, ins := x.ins,
          temps := (List.range 8).map fun r => (List.range 32).map (entryLane (s.written x.a x.h.ctx) s.free r)
          preds := List.replicate 3 (List.replicate 32 false), width := 2 ^ min col lm, e := x.e, xs := false, reqSet := o.req.toNat }
      { s.modElem x.a fun e => { e with seqs := setAt e.seqs k (some act) } with free := s.free + 1 }

/-- STEER (R50, R81). -/
def execSteer (o : OpN) (s : State) : Out :=
  startHead s 1 o fun s x =>
    checkedSend s x fun s =>
      let z : Bool := (nth x.ins 1 {}).payload.setWidth 32 == (0 : Word)
      x.send s (if z == o.kf.getLsbD 0 then o.dsta else o.dstb) (x.tok 0)

/-- MERGE (R50). -/
def execMerge (o : OpN) (s : State) : Out := startHead s 2 o fun s x => checkedSend s x fun s => x.send s o.dsta (x.tok 0)

/-- GATE (R50). -/
def execGate (o : OpN) (s : State) : Out := startHead s 3 o fun s x => checkedSend s x fun s => x.send s o.dsta (x.tok 0)

/-- A frame request of LOOP, NEXT or CALL (R50): at the same element, from pool 0, one consumer, one granule, keyed by the new tag. -/
def frameRequest (s : State) (x : Start) (h : FrameHdr) : State :=
  match (s.slotRange x.a x.h.ctx).find? fun j => (nth (s.elem x.a).reqs j none).isNone with
  | none => s.fault x.org 0x38
  | some j =>
    let key : Word := h.tag.setWidth 32
    let tok : Token := { x.tok 0 with tag := h.tag, fill := h.fill, node := x.o.dsta.node.toNat, port := x.o.dsta.port.toNat }
    let n := s.nextSeq x.a
    let org : Org := { x.org with seq := n.2, slot := some j, cont := some ⟨x.r.fh, tok.node, tok.port⟩ }
    let req : AllocReq := { org := org, target := x.a, ctx := x.h.ctx, pool := 0, gran := (64 + 16 * (x.h.nslot + 1) + 31) / 32, alog := 0, cons := 1, key := key,
                            hdr := some { h with nslot := x.h.nslot, ctx := x.h.ctx, comp := 0 }, put := some tok }
    let s1 := n.1.modElem x.a fun e => { e with reqs := setAt e.reqs j (some { kind := .frame, target := x.a, ctx := x.h.ctx, pool := 0, key := key }) }
    (s1.countSent x.a x.h.ctx x.a).post (.elem x.a) (.elem x.a) 0 0 (s.ownOf x.a x.h.ctx) false (.alloc req)

/-- LOOP (R50, R82). -/
def execLoop (o : OpN) (s : State) : Out :=
  startHead s 4 o fun s x =>
    match x.h.push 0 o.lit.toNat with
    | none => s.fault x.org 0x20
    | some h => frameRequest s x { h with parent := x.r.fh }

/-- NEXT (R50, R82): field 0 goes up by one within its width. -/
def execNext (o : OpN) (s : State) : Out :=
  startHead s 5 o fun s x =>
    let w := o.lit.toNat
    if x.h.nf = 0 ∨ nth x.h.widths 0 0 ≠ w then s.fault x.org 0x21
    else if x.h.field 0 = 2 ^ w - 1 then s.fault x.org 0x20
    else frameRequest s x { x.h with tag := x.h.tag + 1 }

/-- EXIT (R50, R82): the popped tag goes to the parent frame. -/
def execExit (o : OpN) (s : State) : Out :=
  startHead s 6 o fun s x =>
    match x.h.pop o.lit.toNat with
    | none => s.fault x.org 0x21
    | some h =>
      if isNull x.h.parent then s.fault x.org 0x24
      else x.send s o.dsta { x.tok 0 with tag := h.tag, fill := h.fill }

/-- CALL (R50, R81, R82): RET is DSTB with mode 10. -/
def execCall (o : OpN) (s : State) : Out :=
  startHead s 7 o fun s x =>
    match x.h.push 0 o.lit.toNat with
    | none => s.fault x.org 0x20
    | some h => frameRequest s x { h with parent := x.r.fh, ret := { o.dstb with mode := 2 } }

/-- RETN (R50, R82). -/
def execRetn (o : OpN) (s : State) : Out :=
  startHead s 8 o fun s x =>
    match x.h.pop o.lit.toNat with
    | none => s.fault x.org 0x21
    | some h =>
      if x.h.ret.mode == 0 || isNull x.h.parent then s.fault x.org 0x24
      else x.send s { x.h.ret with mode := 2 } { x.tok 0 with tag := h.tag, fill := h.fill }

/-- JOIN (R49, R50). -/
def execJoin (o : OpN) (s : State) : Out := startHead s 9 o fun s x => checkedSend s x fun s => x.send s o.dsta (x.tok 0)

/-- SINK (R50): a flagged activation logs an FPX record. -/
def execSink (o : OpN) (s : State) : Out := startHead s 10 o fun s x => if x.e then s.fpx x.org else s

/-- CONST (R50, R81): to DSTA first, then to DSTB. -/
def execConst (o : OpN) (s : State) : Out :=
  startHead s 11 o fun s x =>
    checkedSend s x fun s =>
      let t : Token := { x.tok 0 with payload := o.lit.setWidth 64, tail := 0, col := 0 }
      x.send (x.send s o.dsta t) o.dstb t

/-- PRUNE (R50): in service it passes its token; while the region parks it does not start (R281). -/
def execPrune (o : OpN) (s : State) : Out := startHead s 12 o fun s x => checkedSend s x fun s => x.send s o.dsta (x.tok 0)

end Sys2Proof.Machine
end

