-- ==== Sys2Proof/Machine/Order.lean ====
section
/-! DEFINITION. The order of accesses (R218 to R221, R225): which earlier entries of an element's memory queue hold a later one back,
when markers (fences, ACQ, REL, INVAL) take effect, when cluster accesses leave, and the causal token rule. -/

namespace Sys2Proof.Machine

/-- Class Ld of R219. -/
def AccKind.isLoad : AccKind → Bool
  | .load _ | .ldc _ _ => true
  | _ => false

/-- Class St of R219. -/
def AccKind.isStore : AccKind → Bool
  | .store | .stc _ | .stl | .freed _ => true
  | _ => false

/-- Class Amo of R219. -/
def AccKind.isAmo : AccKind → Bool
  | .atomic _ | .futn | .fres _ | .freg _ => true
  | _ => false

/-- An access, markers apart. -/
def AccKind.isAccess (k : AccKind) : Bool := k.isLoad || k.isStore || k.isAmo || (match k with | .clean _ _ => true | .pref _ => true | _ => false)

/-- A fetching atomic, exchange, CAS or future operation (note e of R219). -/
def AccKind.fetches : AccKind → Bool
  | .atomic op => op.fetch
  | .futn | .fres _ | .freg _ => true
  | _ => false

/-- A cluster access, whose target stands for its address (note a of R219). -/
def AccKind.clusTarget : AccKind → Option Nat
  | .ldc t _ => some t
  | .stc t => some t
  | _ => none

/-- The element whose local store an access reaches, which stands for its address (note a of R219); a FREE or TFUL is ordered as a store to all of the allocation
that it names (R135). -/
def Acc.target (x : Acc) : Option Nat :=
  match x.kind with
  | .ldc t _ => some t
  | .stc t => some t
  | .stl => some x.org.elem
  | .freed t => some t
  | _ => none

/-- The two access a common address in the memory they share. -/
def sameAddr (x y : Acc) : Bool :=
  match x.target, y.target with
  | some a, some b => a == b
  | none, none => x.pcs.any fun p => y.pcs.any fun q => p.va == q.va
  | _, _ => false

/-- A pair that the matrices of R219 keep, the flags and markers included: the later one `y` waits for the earlier one `x`. -/
def kept (x y : Acc) : Bool :=
  match x.kind with
  | .fence => x.rl || y.kind.isLoad
  | .rel _ => true
  | .acq _ => y.kind.isLoad
  | .inval _ _ => y.kind.isLoad
  | _ =>
    if !x.kind.isAccess then false
    else if x.aq || y.rl then true
    else if (match y.kind with | .clean _ _ => x.kind.isStore || x.kind.isAmo | _ => false) then true
    else if !y.kind.isAccess then false
    else if x.kind.isLoad then (if y.kind.isLoad then x.kind.clusTarget.isSome && sameAddr x y else true)
    else if x.kind.isAmo && x.kind.fetches && y.kind.isStore then true
    else sameAddr x y

/-- Earlier entries of the same activation. -/
def earlier (q : List Acc) (y : Acc) : List Acc := q.filter fun x => x.org.aid == y.org.aid && x.org.seq < y.org.seq

/-- No kept pair holds the entry back; and a load follows every global store, atomic and future operation that its element issued earlier to the same address,
whichever activation issued it, since those are performed at element scope when issued (R218). -/
def accReady (q : List Acc) (y : Acc) : Bool :=
  !((earlier q y).any fun x => kept x y)
    && !(y.kind.isLoad && q.any fun x => (x.kind == .store || x.kind.isAmo) && x.org.seq < y.org.seq && sameAddr x y)

/-- The local store as other elements see it: without the stores that an earlier access holds back from them (R144, R219). -/
def Elem.farMem (e : Elem) : List Host.Cell := e.memq.foldr (fun x m => if x.kind == .stl then putPieces m x.pcs else m) e.mem

/-- A held store is seen by others: those that stand before it lose the bits that it gave a newer value. -/
def Elem.landStl (e : Elem) (y : Acc) : Elem :=
  { e with memq := (e.memq.filter fun x => x.org.seq != y.org.seq).map fun x => if x.org.seq < y.org.seq then Elem.passed (pieceMask y.pcs) x else x }

/-- An activation's stores to host memory that the host has not completed (R218). -/
def State.hostPending (s : State) (o : Org) : Bool := s.hostq.any fun w => w.elem == o.elem && w.aid == o.aid && w.seq < o.seq

/-- The regions bound to a phaser, as (first line, lines) (R222). -/
def State.boundOf (s : State) (c ts phn : Nat) : List (Nat × Nat) :=
  ((s.clus c).binds.filter fun b => b.phn == phn && b.ts == ts).map fun b => (b.base, b.len)

/-- Cluster number and number that a phaser id names for a context of element a (R166); a tenant that shares the cluster has half of the phasers
(R291). -/
def State.phaserAt (s : State) (a k : Nat) (id : Nat) : Option (Nat × Nat) :=
  match s.absOf a k (bitsOf id 8 18) with
  | some d => if s.shared (clusNo a) && ((id % 256 < 128) != (k < 4)) then none else some (clusNo d, id % 256)
  | none => none

/-- Lines of bound regions touched by an access. -/
def touches (regs : List (Nat × Nat)) (x : Acc) : Bool :=
  x.pcs.any fun p => regs.any fun r => r.1 ≤ p.va / 128 && p.va / 128 < r.1 + r.2

/-- Invalidates read-cache lines of a tenant slot that a test selects (R155, R225). -/
def State.rcDrop (s : State) (c ts : Nat) (p : Nat → Bool) : State :=
  s.modClus c fun x => { x with rc := x.rc.filter fun l => !(l.ts == ts && p l.line) }

/-- A BIND or UNBND of an element, issued before the place `seq`, has not reached the cluster of its phaser: an ACQ's message follows it there (R199, R245). -/
def State.bindAhead (s : State) (a seq pc : Nat) : Bool :=
  let ahead (m : Msg) : Bool := match m with
    | .bind o id _ _ _ => o.elem == a && o.seq < seq && (match s.phaserAt a o.ctx id with | some (c, _) => c == pc | none => false)
    | _ => false
  (s.net.any fun f => ahead f.msg) || (s.elem a).sendq.any fun i => ahead i.msg

/-- A marker's own release part is met: every earlier access is performed or bound (REL: of the phaser's regions; R225). -/
def markReady (s : State) (a : Nat) (q : List Acc) (m : Acc) : Bool :=
  match m.kind with
  | .fence => !m.rl || (((earlier q m).all fun x => !x.kind.isAccess) && !(m.scope = 4 && s.hostPending m.org))
  | .rel ph =>
    let regs := match s.phaserAt a m.org.ctx ph.toNat with
      | some (c, n) => s.boundOf c (s.tslotOf c m.org.ctx) n
      | none => []
    ((earlier q m).all fun x => !(x.kind.isAccess && touches regs x)) && !(m.scope = 4 && s.hostPending m.org)
  | .acq ph => match s.phaserAt a m.org.ctx ph.toNat with
    | some (pc, _) => !s.bindAhead a m.org.seq pc
    | none => true
  | _ => true

/-- What a marker does when its turn comes: the acquire part invalidates lines of the issuer's cluster read cache, at a scope above
element (R225); INVAL the lines of its range (R242). -/
def markDo (s : State) (a : Nat) (m : Acc) : State :=
  let c := clusNo a
  let ts := s.tslotOf c m.org.ctx
  match m.kind with
  | .fence => if m.aq && m.scope != 0 then s.rcDrop c ts fun _ => true else s
  | .acq ph => match s.phaserAt a m.org.ctx ph.toNat with
    | some (pc, n) =>
      let regs := s.boundOf pc (s.tslotOf pc m.org.ctx) n
      s.rcDrop c ts fun l => regs.any fun r => r.1 ≤ l && l < r.1 + r.2
    | none => s
  | .inval va len =>
    let s1 := if len = 0 then s else s.rcDrop c ts fun l => va / 128 ≤ l && l ≤ (va + len - 1) / 128
    s1.replyTo m.org 0 m.org.e
  | _ => s

/-- Takes an entry out of a memory queue. -/
def State.memqDrop (s : State) (a seq : Nat) : State :=
  s.modElem a fun e => { e with memq := e.memq.filter fun x => x.org.seq != seq }

/-- Marks an entry as sent. -/
def State.memqOut (s : State) (a seq : Nat) : State :=
  s.modElem a fun e => { e with memq := e.memq.map fun x => if x.org.seq == seq then { x with out := true } else x }

def isMark : AccKind → Bool
  | .fence | .acq _ | .rel _ | .inval _ _ => true
  | _ => false

/-- One settling move of an element's memory queue: a marker whose turn has come takes effect, a cluster access that nothing holds back leaves on the buses,
or a local store is performed for the others. Nothing of a frozen tenant moves (R293). -/
def settleOne (s : State) (a : Nat) : Option State :=
  let q := (s.elem a).memq
  match q.find? fun m => accReady q m && !(s.part (s.ownOf a m.org.ctx)).frozen
      && ((isMark m.kind && markReady s a q m) || (!m.out && m.kind.clusTarget.isSome) || m.kind == .stl) with
  | none => none
  | some m =>
    match m.kind with
    | .ldc t c => some ((s.memqOut a m.org.seq).post (.elem a) (.elem t) 0 0 (s.ownOf a m.org.ctx) true (.clusAcc m.org ⟨t, false, m.pcs, c⟩))
    | .stc t => some ((s.memqOut a m.org.seq).post (.elem a) (.elem t) 0 0 (s.ownOf a m.org.ctx) true (.clusAcc m.org ⟨t, true, m.pcs, 0⟩))
    | .stl => some (s.modElem a fun e => e.landStl m)
    | _ => some (markDo (s.memqDrop a m.org.seq) a m)

/-- Settles until nothing moves; every move shortens what is left to do. -/
def settleGo (a : Nat) : Nat → State → State
  | 0, s => s
  | n + 1, s => match settleOne s a with
    | some s1 => settleGo a n s1
    | none => s

def State.settle (s : State) (a : Nat) : State := settleGo a (2 * (s.elem a).memq.length + 2) s

/-- Appends an access to an element's memory queue and settles it. -/
def State.issue (s : State) (a : Nat) (x : Acc) : State :=
  (s.modElem a fun e => { e with memq := e.memq ++ [x] }).settle a

-- The causal token rule (R145, R220, R225, R233) -----------------------------------------------------------------------------------

/-- Messages in flight from an activation's earlier FREE and TFUL (R220). -/
def State.freePending (s : State) (o : Org) : Bool :=
  (s.net.any fun f => match f.msg with
    | .free p _ _ | .tful p _ _ => p.elem == o.elem && p.aid == o.aid && p.seq < o.seq
    | _ => false)
  || ((s.elem o.elem).sendq.any fun i => match i.msg with
    | .free p _ _ | .tful p _ _ => p.aid == o.aid && p.seq < o.seq
    | _ => false)

/-- Earlier engine commands of an activation that have not sent their completion (R226, R233): waiting in the send queue or in an
engine. -/
def State.enginePending (s : State) (o : Org) : Bool :=
  ((s.clus (clusNo o.elem)).eng.any fun c => c.org.elem == o.elem && c.org.aid == o.aid && c.org.seq < o.seq)
  || ((s.elem o.elem).sendq.any fun i => match i.msg with
    | .engine c => c.org.aid == o.aid && c.org.seq < o.seq
    | .disp p _ _ | .coll p _ _ => p.aid == o.aid && p.seq < o.seq
    | _ => false)

/-- Earlier accesses of an activation that are not performed, bound or applied. -/
def Elem.accPending (e : Elem) (o : Org) : Bool := e.memq.any fun x => x.org.aid == o.aid && x.org.seq < o.seq && x.kind.isAccess

/-- A fence or a REL that holds later tokens and engine commands (R225). -/
def Elem.markPending (e : Elem) (o : Org) : Bool :=
  e.memq.any fun x => x.org.aid == o.aid && x.org.seq < o.seq && (match x.kind with | .fence => x.rl | .rel _ => true | _ => false)

end Sys2Proof.Machine
end

