-- ==== Sys2Proof/Machine/Local.lean ====
section
/-! DEFINITION. Local and cluster accesses (R141 to R144, R154, R187), with the buffers of ordered sections (R232). -/

namespace Sys2Proof.Machine

/-- The 32-bit address of a local or cluster operand (R141). -/
def Act.addr32 (act : Act) (o : OpM) : Nat :=
  ((act.src o.ty o.lit o.a 0).v + (act.src o.ty o.lit o.b 0).v + o.lit).toNat

/-- The open section instance of a frame, unless it runs unbuffered (R232). -/
def Elem.buffered (e : Elem) (fh : Word) : Option Sect := e.sects.find? fun x => x.fh == fh && !x.closed && !x.wait && !x.direct

/-- A byte of element d as an instance sees it: its own buffered bits first, committed bits otherwise (R232). -/
def sectByte (x : Sect) (d a : Nat) (b : Byte) : Byte :=
  x.buf.foldl (fun b r => if r.1 == d * 2 ^ 19 + a then mixByte b r.2.2 r.2.1 else b) b

/-- The local store of element d as an instance sees it at the given addresses. -/
def sectView (x : Sect) (d : Nat) (m : List Host.Cell) (las : List Nat) : List Host.Cell :=
  las.foldl (fun m a => Memory.put m a (sectByte x d a (Memory.get m a))) m

/-- The bank of a local address (R124). -/
def bankOf (la : Nat) : Nat := 4 * (la / 0x20000) + la / 32 % 4

/-- A signature with the banks of local addresses of element d (R232). -/
def withBanks (g : BitVec 256) (d : Nat) (las : List Nat) : BitVec 256 := las.foldl (fun g a => g ||| BitVec.ofNat 256 (2 ^ ((d * 12 + bankOf a) % 256))) g

/-- Marks the banks that a load reads in the instance's signature (R232). -/
def markRead (x : Sect) (d : Nat) (las : List Nat) : Sect := { x with sig := withBanks x.sig d las }

def Elem.setSect (e : Elem) (x : Sect) : Elem :=
  { e with sects := e.sects.map fun y => if y.fh == x.fh && y.num == x.num then x else y }

/-- The section buffer holds 64 entries of 32 bytes (R232). -/
def bufEntries (x : Sect) : Nat := ((x.buf.map fun r => r.1 / 32).eraseDups).length

/-- Stores of an instance go to its buffer (R232). -/
def bufStore (x : Sect) (d : Nat) (ps : List Piece) : Sect :=
  { x with buf := x.buf ++ ps.map fun p => (d * 2 ^ 19 + p.la, p.mask, p.val) }

/-- An access that an instance issued. -/
def Sect.issued (x : Sect) (a : Nat) (o : Org) : Bool := o.elem == a && o.fh == x.fh && x.from_ ≤ o.seq

/-- The instance that issued an access, closed or not, while it has not committed (R232). -/
def Elem.issuer (e : Elem) (a : Nat) (o : Org) : Option Sect := e.sects.find? fun x => x.issued a o && !x.wait

/-- Marks the banks that an instance which runs unbuffered stores to: its commit squashes the younger readers of them (R232). -/
def Elem.markStore (e : Elem) (fh : Word) (d : Nat) (las : List Nat) : Elem :=
  match e.sects.find? fun x => x.fh == fh && !x.closed && !x.wait && x.direct with
  | some x => e.setSect { x with reach := withBanks x.reach d las }
  | none => e

/-- As `markStore`, for the data of an LDC that the instance issued, which may come after its OEND. -/
def Elem.markLoaded (e : Elem) (a : Nat) (o : Org) (las : List Nat) : Elem :=
  match e.issuer a o with
  | some x => if x.direct then e.setSect { x with reach := withBanks x.reach a las } else e
  | none => e

/-- A held token takes its place in the issue order (R232). -/
def holdAt (q : List SendItem) (i : SendItem) : List SendItem := (q.filter fun x => x.org.seq < i.org.seq) ++ i :: q.filter fun x => i.org.seq ≤ x.org.seq

/-- A token that an instance sent to its own frame, on its way there. -/
def Sect.sent (x : Sect) (a : Nat) (f : Flight) : Bool := match f.msg with
  | .tok t => f.src == .elem a && t.fh == x.fh && (match t.sect with | some n => x.from_ ≤ n | none => false)
  | _ => false

/-- The cluster accesses and tokens of a squashed instance come to nothing: the accesses under way and the buffered ones free their slots and deliver nothing, the tokens of
served LDCs that are held and the tokens on their way to the instance's own frame are dropped (R232); each counts as received (R279). -/
def State.squashReqs (s : State) (a : Nat) (x : Sect) : State :=
  let os := (((s.elem a).memq.filter fun y => x.issued a y.org && y.kind.clusTarget.isSome).map fun y => y.org) ++ x.stcs.map fun r => r.1
  let s1 := os.foldl (fun s o => (s.freeReq a o.slot).countRefused o) s
  let s2 := (x.hold.filter fun i => i.paid).foldl (fun s i => s.countRefused i.org) s1
  let s3 := (s2.net.filter (x.sent a)).foldl (fun s _ => s.countGot a x.ctx a) s2
  { s3.modElem a fun e => { e with memq := e.memq.filter fun y => !(x.issued a y.org && y.kind.clusTarget.isSome) } with
    net := s3.net.filter fun f => !x.sent a f && (match f.msg with | .clusAcc o _ | .clusRep o _ _ => !x.issued a o | _ => true) }

/-- Squashes an instance (R232): its buffered stores and held tokens are discarded, its frame's activations end, its slots are cleared, the
inputs that its OSEC activation latched are restored, and the node is ready again. `direct` makes it run unbuffered when it fires. -/
def State.squash (s : State) (a : Nat) (x : Sect) (direct : Bool) : State :=
  let s := s.squashReqs a x
  let e := s.elem a
  let e1 : Elem := { e with
    seqs := e.seqs.map fun q => match q with | some y => if y.fh == x.fh then none else some y | none => none
    ready := e.ready.filter fun r => r.fh != x.fh
    lastBusy := s.cycle
    wrote := e.wrote ++ e.seqs.flatMap fun q => match q with | some y => if y.fh == x.fh then y.wrote.map fun l => (y.ctx, l) else [] | none => []
    sects := if direct then e.sects.map fun y => if y.fh == x.fh && y.num == x.num then { y with buf := [], hold := [], sig := 0, stcs := [], closed := false, wait := true, direct := true } else y
             else e.sects.filter fun y => !(y.fh == x.fh && y.num == x.num) }
  match e1.live x.fh with
  | none => s.setElem a e1
  | some y =>
    let h := e1.readHdr y
    let e2 := (List.range (h.nslot + 1)).foldl (fun e j => e.setSlot y j 0) e1
    match s.head a x.ctx x.node with
    | some (_, o) =>
      let e3 := (List.range x.ins.length).foldl (fun e k =>
        let i := nth x.ins k {}
        e.setSlot y (o.slot.toNat + k) (slotStore 0 { payload := i.payload, tail := i.tail, col := i.col, cls := i.cls } i.e)) e2
      let s1 := (List.range 8).foldl (fun s c => s.relink a c) (s.setElem a e3)
      s1.noteReady a x.fh x.node o.ch.toNat
    | none => s.setElem a e2

/-- LDL (R141 to R143). -/
def execLdl (o : OpM) (s : State) : Out :=
  runWord s fun s a act =>
    let adr := act.addr32 o
    let on := act.active o.ty o.pr o.pn
    let las := on.flatMap fun i => (elemPieces o.ty 0 adr i 0).map fun p => p.la
    let old (i : Nat) : Lane := match o.d with | .t k => act.temp k.val i | _ => Lane.zero
    let rest (f : Nat → Option Lane) : List Lane := (List.range 32).map fun i =>
      match f i with
      | some l => l
      | none => if i < act.width then old i else Lane.zero
    if on.isEmpty then .go s (act.setTemp o.d (rest fun _ => none))
    else if adr % alignOf o.ty ≠ 0 then .bad 0x3C
    else match s.localCheck a act.ctx las with
      | some c => .bad c
      | none =>
        let r := s.eccRead a act.ctx 0 (las.map fun x => x / 8)
        if r.2 then .hurt r.1 0x33
        else
          let e := r.1.elem a
          let v := e.buffered act.fh
          let m := match v with | some x => sectView x a e.mem las | none => e.mem
          let s1 := match v with | some x => r.1.setElem a (e.setSect (markRead x a las)) | none => r.1
          let val (i : Nat) : Option Lane :=
            if o.ty.is64 then
              (if i < 2 then some (Lane.ofWord (BitVec.ofNat 32 (bitsOf (elemRead m o.ty adr 0) (32 * i) 32))) else none)
            else if on.contains i then some (loadLane o.ty (elemRead m o.ty adr i)) else none
          .go s1 (act.setTemp o.d (rest val))

/-- Writes an activation's local bytes: to the open instance's buffer, which squashes the instance when it overflows, else to the local store, at once; where an earlier
access of the activation holds the store back from other elements, what they see in its place waits in the memory queue (R144, R218, R219, R221, R225, R232). DESIGN CHOICE (log 100): a store into a slot of a frame with a ready
node leaves the ready list as it is, and the node latches the stored bytes; R45 calls both unpredictable. -/
def State.storeLocal (s : State) (a : Nat) (act : Act) (ps : List Piece) : State :=
  let e := s.elem a
  match e.buffered act.fh with
  | some x =>
    let y := bufStore x a ps
    if 64 < bufEntries y then s.squash a x true else s.setElem a (e.setSect y)
  | none =>
    let s := s.modElem a fun e => e.markStore act.fh a (ps.map fun p => p.la)
    let n := s.nextSeq a
    let y : Acc := { org := act.org a n.2, kind := .stl, pcs := oldPieces e.mem ps }
    if accReady e.memq y then s.modElem a fun e => e.putData ps else (n.1.modElem a fun e => e.putOwn ps).issue a y

/-- STL (R141 to R143). -/
def execStl (o : OpM) (s : State) : Out :=
  runWord s fun s a act =>
    let adr := act.addr32 o
    let rm := o.rm.toNat
    let on := act.active o.ty o.pr o.pn
    if on.isEmpty then .go (s.srAdvance a rm) act
    else if adr % alignOf o.ty ≠ 0 then .bad 0x3C
    else
      let st := storeLanes act o.ty rm (s.elem a).rng o.lit o.c on
      let ps := st.1.flatMap fun x => elemPieces o.ty 0 adr x.1 x.2
      match s.localCheck a act.ctx (ps.map fun p => p.la) with
      | some c => .bad c
      | none =>
        let act1 := act.raise st.2
        .go (((s.srAdvance a rm).fpxIf a act1 true).storeLocal a act ps) act1

-- Cluster accesses -------------------------------------------------------------------------------------------------------

/-- The checks of R154 at the issuer, for a cluster address and the local bytes of its active elements. -/
def clusCheck (adr : Nat) (las : List Nat) : Option Nat :=
  if 2 ^ 26 ≤ adr then some 0x40
  else if 96 ≤ adr / 2 ^ 19 then some 0x41
  else if las.any fun x => 0x5FFFF < x then some 0x36
  else none

/-- Queues a cluster access with its request slot and continuation (R187). -/
def clusIssue (s : State) (a : Nat) (act : Act) (o : OpM) (kind : AccKind) (target : Nat) (ps : List Piece) : WRes :=
  match s.takeSlot a act { kind := .cluster, target := target } with
  | none => .bad 0x38
  | some (s1, act1, j) =>
    match act.cont o.dst with
    | none => .bad 0x24
    | some k =>
      let n := s1.nextSeq a
      let org : Org := { act.org a n.2 with slot := some j, cont := k }
      .go ((n.1.countCont a act.ctx k).issue a { org := org, kind := kind, pcs := ps }) act1

/-- LDC (R187). -/
def execLdc (o : OpM) (s : State) : Out :=
  runWord s fun s a act =>
    let adr := act.addr32 o
    let loc := adr % 2 ^ 19
    let on := act.active o.ty o.pr o.pn
    let c := (act.src o.ty o.lit o.c 0).v.toNat
    let ps := on.flatMap fun i => elemPieces o.ty loc c i 0
    if on.isEmpty then .go s act
    else match clusCheck adr (ps.map fun p => p.va) with
      | some k => .bad k
      | none =>
        if adr % alignOf o.ty ≠ 0 ∨ c % alignOf o.ty ≠ 0 then .bad 0x3C
        else match s.localCheck a act.ctx (ps.map fun p => p.la) with
          | some k => .bad k
          | none =>
            let t := idOfClus (clusNo a) (adr / 2 ^ 19)
            let e := s.elem a
            let s1 := match e.buffered act.fh with
              | some x => s.setElem a (e.setSect (markRead x t (ps.map fun p => p.va)))
              | none => s
            clusIssue s1 a act o (.ldc t c) t ps

/-- STC (R187): the final store's conversion at the issuer; in an open section instance its bytes are buffered, and its request slot is held until they are performed (R232). -/
def execStc (o : OpM) (s : State) : Out :=
  runWord s fun s a act =>
    let adr := act.addr32 o
    let rm := o.rm.toNat
    let on := act.active o.ty o.pr o.pn
    if on.isEmpty then .go (s.srAdvance a rm) act
    else
      let st := storeLanes act o.ty rm (s.elem a).rng o.lit o.c on
      let ps := st.1.flatMap fun x => elemPieces o.ty 0 (adr % 2 ^ 19) x.1 x.2
      match clusCheck adr (ps.map fun p => p.la) with
      | some k => .bad k
      | none =>
        if adr % alignOf o.ty ≠ 0 then .bad 0x3C
        else
          let act1 := act.raise st.2
          let t := idOfClus (clusNo a) (adr / 2 ^ 19)
          let s1 := (s.srAdvance a rm).fpxIf a act1 true
          match (s1.elem a).buffered act.fh with
          | some x =>
            match s1.takeSlot a act1 { kind := .cluster, target := t }, act.cont o.dst with
            | none, _ => .bad 0x38
            | _, none => .bad 0x24
            | some (s2, act2, j), some k =>
              let n := (s2.countCont a act.ctx k).nextSeq a
              let org : Org := { act1.org a n.2 with slot := some j, cont := k }
              let y := { bufStore x t ps with stcs := x.stcs ++ [(org, t, x.buf.length, ps.length)] }
              let s3 := n.1.setElem a ((n.1.elem a).setSect y)
              .go (if 64 < bufEntries y then s3.squash a y true else s3) act2
          | none => clusIssue (s1.modElem a fun e => e.markStore act.fh t (ps.map fun p => p.la)) a act1 o (.stc t) t ps

end Sys2Proof.Machine
end

