-- ==== Sys2Proof/Machine/Storage.lean ====
section
/-! DEFINITION. Requests for storage (R135 to R140) and the allocator (R119, R120, R126 to R128). -/

namespace Sys2Proof.Machine

-- Messages between an activation and an owner element ------------------------------------------------------------------------

/-- Queues a message that waits for the causal token rule in the element's send queue (R145, R220). -/
def State.queueMsg (s : State) (o : Org) (m : Msg) (scope : Option Nat) (otok : Bool) : State :=
  s.modElem o.elem fun e => { e with sendq := e.sendq ++ [{ org := o, msg := m, scope := scope, otok := otok }] }

/-- The owner element and the origin of a storage message (R135). -/
def State.storageMsg (s : State) (m : Msg) : Option (Nat × Org) :=
  let own (o : Org) (r : Nat) : Option (Nat × Org) := (s.absOf o.elem o.ctx r).map fun d => (d, o)
  match m with
  | .alloc r => if r.unit.isSome then none else some (r.target, r.org)
  | .free o h _ | .hold o h _ | .tful o h _ => own o (hElem h)
  | .aqry o k a _ => own o (if k = 0 then hElem a else a.toNat % 2 ^ 18)
  | _ => none

/-- An earlier storage message of the same activation to the same owner that has not arrived: in flight or in the send queue (R135). -/
def State.storageAhead (s : State) (d : Nat) (o : Org) (queued : Bool) : Bool :=
  let before (m : Msg) : Bool := match s.storageMsg m with
    | some (e, p) => e == d && p.elem == o.elem && p.aid == o.aid && p.seq < o.seq
    | none => false
  (s.net.any fun f => before f.msg) || (queued && (s.elem o.elem).sendq.any fun i => before i.msg)

/-- Sends a storage request: at once, or through the send queue behind an earlier storage message to the same owner (R135). -/
def State.sendStorage (s : State) (d : Nat) (o : Org) (m : Msg) : State :=
  let behind : Bool := (s.elem o.elem).sendq.any fun i => match s.storageMsg i.msg with
    | some (e, p) => e == d && p.aid == o.aid
    | none => false
  if behind then s.queueMsg o m none false
  else s.post (.elem o.elem) (.elem d) 0 0 (s.ownOf o.elem o.ctx) false m

/-- ALLOC (R136, R137). -/
def execAlloc (o : OpM) (s : State) : Out :=
  runBarred o.pr o.pn s fun s a act =>
    let lane (x : Sel) : Word := (act.src o.ty o.lit x 0).v
    let frame : Bool := o.n9.getLsbD 8
    let q : Nat := bitsOf o.lit.toNat 0 19 + (if o.b = .z then 0 else (lane o.b).toNat)
    let bytes : Nat := if frame then 64 + 16 * q else q
    match s.absOf a act.ctx ((lane o.a).toNat % 2 ^ 18) with
    | none => .bad 0x3A
    | some d =>
      if q < 1 ∨ (if frame then 256 else 0x60000) < q then .bad 0x30
      else
        let pool := bitsOf o.lit.toNat 23 2
        let key := lane o.c
        match s.takeSlot a act { kind := .alloc, target := d, ctx := act.ctx, pool := pool, key := key } with
        | none => .bad 0x38
        | some (s1, act1, j) =>
          match act.cont o.dst with
          | none => .bad 0x24
          | some k =>
            let n := s1.nextSeq a
            let org : Org := { act.org a n.2 with slot := some j, cont := k }
            let hdr : FrameHdr := { tag := act.hdr.tag, fill := act.hdr.fill, widths := act.hdr.widths, nslot := q - 1, ctx := act.ctx }
            let r : AllocReq :=
              { org := org, target := d, ctx := act.ctx, pool := pool, gran := (bytes + 31) / 32, alog := bitsOf o.lit.toNat 19 4,
                cons := bitsOf o.n9.toNat 0 8, key := key, hdr := if frame then some hdr else none }
            .go ((n.1.countCont a act.ctx k).sendStorage d org (.alloc r))
              (act1.setTemp o.d (lane0 (Lane.ofWord (BitVec.ofNat 32 j))))

/-- A FREE or TFUL is ordered as a store to its allocation (R135): until it is applied it stands in its issuer's memory queue as a mark. -/
def State.markFreed (s : State) (o : Org) (h : Word) : State :=
  match s.absOf o.elem o.ctx (hElem h) with
  | some d => s.modElem o.elem fun e => { e with memq := e.memq ++ [{ org := o, kind := .freed d }] }
  | none => s

/-- The mark goes when the message is applied, and what it held back moves. -/
def State.freedDone (s : State) (o : Org) : State := (s.memqDrop o.elem o.seq).settle o.elem

/-- FREE, HOLD and TFUL send one message, no reply (R138); `store` marks those that R135 orders as stores. -/
def ownerMsg (s : State) (o : OpM) (store : Bool) (m : Org → Word → Msg) : Out :=
  runBarred o.pr o.pn s fun s a act =>
    let n := s.nextSeq a
    let org := act.org a n.2
    let h := (act.src o.ty o.lit o.a 0).v
    let s1 := if store then n.1.markFreed org h else n.1
    .go (s1.queueMsg org (m org h) none false) act

/-- FREE (R138). -/
def execFree (o : OpM) (s : State) : Out := ownerMsg s o true fun org h => .free org h (bitsOf o.n9.toNat 0 8)

/-- HOLD (R138). -/
def execHold (o : OpM) (s : State) : Out := ownerMsg s o false fun org h => .hold org h (bitsOf o.n9.toNat 0 8)

/-- TFUL (R138). -/
def execTful (o : OpM) (s : State) : Out := ownerMsg s o true fun org h => .tful org h (o.n9.getLsbD 0)

/-- AQRY (R140). -/
def execAqry (o : OpM) (s : State) : Out :=
  runBarred o.pr o.pn s fun s a act =>
    let arg := (act.src o.ty o.lit o.a 0).v
    let kind := o.n9.toNat
    match s.absOf a act.ctx (if kind = 0 then hElem arg else arg.toNat % 2 ^ 18) with
    | none => .bad 0x3A
    | some d =>
      match s.takeSlot a act { kind := .query, target := d, ctx := act.ctx } with
      | none => .bad 0x38
      | some (s1, act1, j) =>
        match act.cont o.dst with
        | none => .bad 0x24
        | some k =>
          let n := s1.nextSeq a
          let org : Org := { act.org a n.2 with slot := some j, cont := k }
          .go ((n.1.countCont a act.ctx k).sendStorage d org (.aqry org kind arg (bitsOf o.lit.toNat 0 2))) act1

-- The allocator ------------------------------------------------------------------------------------------------------------

/-- The ordinary part (false) or the reserve (true) of a pool, as granules from lo to below hi; none for an undefined pool (R118). -/
def State.poolPart (s : State) (a k p : Nat) (reserve : Bool) : Option (Nat × Nat) :=
  let c := s.ctx a k
  let x := nth c.pools p {}
  if !c.pv.getLsbD p then none
  else if reserve then some (x.base + x.size - x.esc, x.base + x.size) else some (x.base, x.base + x.size - x.esc)

/-- The first multiple of 2^al at or above g. -/
def alignUp (g al : Nat) : Nat := (g + 2 ^ al - 1) / 2 ^ al * 2 ^ al

/-- A run of n granules from g touches no live allocation and lies in ON thirds (R127). -/
def runFree (e : Elem) (g n : Nat) : Bool :=
  !(e.handles.rows.any fun r => r.2.v && r.2.base < g + n && g < r.2.base + r.2.size)
    && (List.range ((g + n - 1) / 4096 - g / 4096 + 1)).all fun j => nth e.thirds (g / 4096 + j) .off == .on

/-- The lowest free run from position g in steps of 2^al, below hi (R127). -/
def findRun (e : Elem) (n al hi : Nat) : Nat → Nat → Option Nat
  | 0, _ => none
  | fuel + 1, g => if hi < g + n then none else if runFree e g n then some g else findRun e n al hi fuel (g + 2 ^ al)

/-- The handle-table entries of a context's tenant, as first entry and number (R291). -/
def State.handleRange (s : State) (a k : Nat) : Nat × Nat := if s.shared (clusNo a) then (if k < 4 then (0, 512) else (512, 512)) else (0, 1024)

/-- The lowest entry with V = 0 (R120). -/
def freeEntry (e : Elem) : Nat → Nat → Option Nat
  | 0, _ => none
  | fuel + 1, j => if (e.handles.get {} j).v then freeEntry e fuel (j + 1) else some j

/-- A request fits the ordinary part or the reserve (R127): its placement. -/
def State.fits (s : State) (a : Nat) (r : AllocReq) (reserve : Bool) : Option Nat :=
  let e := s.elem a
  let hr := s.handleRange a r.ctx
  match s.poolPart a r.ctx r.pool reserve, freeEntry e hr.2 hr.1 with
  | some (lo, hi), some _ =>
    let g := alignUp lo r.alog
    findRun e r.gran r.alog hi ((hi - g) / 2 ^ r.alog + 1) g
  | _, _ => none

/-- R126, step 2: the request could fit a part of its pool, occupancy and gating apart. -/
def State.couldFit (s : State) (a : Nat) (r : AllocReq) : Bool :=
  [false, true].any fun x => match s.poolPart a r.ctx r.pool x with
    | some (lo, hi) => alignUp lo r.alog + r.gran ≤ hi
    | none => false

/-- Marks that the allocator's state changed in this cycle: its next grant and query see it from the next cycle (R128, R140). -/
def State.allocTouched (s : State) (a : Nat) : State := s.modElem a fun e => { e with allocNext := s.cycle + 1 }

/-- The region that an element works in for a context, with its partition slot (R278). -/
def State.regionOf (s : State) (a k : Nat) : Option (Nat × Nat) :=
  let h := s.hedge (clusNo a) k
  (s.regionAt h.own h a).map fun j => (h.own, j)

/-- Marks that a tag of a cluster's allocations changed: its array controller sees it from the next cycle (R181, R183). -/
def State.tagTouched (s : State) (a : Nat) : State := s.modClus (clusNo a) fun x => { x with arrNext := s.cycle + 1 }

/-- Where the answer to an allocation request goes. -/
def AllocReq.home (r : AllocReq) : Place :=
  match r.unit with
  | some (c, _) => .clus c
  | none => .elem r.org.elem

/-- Clears P, E and LINK of every slot of a new frame, and the reserved bits, which are zero (R44). -/
def clearFrame (e : Elem) (y : HEntry) (n : Nat) : Elem :=
  (List.range n).foldl (fun e j => e.setSlot y j (setBits (setBits (e.slot y j) 68 2 0) 77 51 0)) e

/-- The grant of a request at granule g (R120, R128, R51): the entry, the header, the delivered token, and the answer on RSP. -/
def State.grantAt (s : State) (a : Nat) (r : AllocReq) (g : Nat) (esc : Bool) : State :=
  let e := s.elem a
  let hr := s.handleRange a r.ctx
  match freeEntry e hr.2 hr.1 with
  | none => s
  | some j =>
    let gen := (e.handles.get {} j).gen
    let y : HEntry := { v := true, pool := r.pool, ctx := r.ctx, gen := gen, cons := r.cons, fe := false, esc := esc, base := g, size := r.gran }
    let h := mkHandle (s.rel a r.ctx) j gen
    let e1 := { e.noteTable 2 j with handles := e.handles.put j y }
    let e2 := match r.hdr with
      | some d => clearFrame (e1.writeHdr y d) y (d.nslot + 1)
      | none => e1
    let s0 := match s.regionOf a r.ctx with
      | some (p, i) => s.modRegion p i fun g => { g with granted := true, lastEvent := s.t7 }
      | none => s
    let s1 := (s0.setElem a (e2.count (s.ownOf a r.ctx) 5 1)).allocTouched a
    let s2 := match r.put with
      | some t => s1.applyToken a { t with fh := h }
      | none => s1
    s2.post (.elem a) r.home 1 0 (s.ownOf a r.ctx) false (.grant r h g)

/-- Entry i of list l leaves it: the window loses it, and a new head starts with bypass count 0 (R128). -/
def State.listTake (s : State) (a l i : Nat) : State :=
  s.modElem a fun e =>
    let q := dropAt (e.lists.get [] l) i
    let q1 := if i = 0 then (match q with | h :: t => { h with bypass := 0 } :: t | [] => []) else q
    { e with lists := if q1.isEmpty then e.lists.erase l else e.lists.put l q1,
             win := e.win.put l (e.win.get 0 l - 1) }

/-- The window's entries after the head, as positions: the second to the fifth (R128). -/
def windowFit (s : State) (a : Nat) (q : List AllocReq) (win : Nat) : Option (Nat × Nat) :=
  ((List.range (min 5 (min win q.length))).drop 1).findSome? fun i => match q[i]? with
    | some r => (s.fits a r false).map fun g => (i, g)
    | none => none

/-- The horizon of an element's region (R129). -/
def State.horizonAt (s : State) (a k : Nat) : Option Word :=
  match s.regionOf a k with
  | some (p, j) => (s.region p j).horizon
  | none => none

/-- A key at or below the horizon, as escape grants compare (R128). -/
def State.keyAtHorizon (s : State) (a k : Nat) (key : Word) : Bool :=
  match s.horizonAt a k with
  | some h => key ≤ h
  | none => false

/-- What the allocator does with one list: a grant, or nothing (R128). -/
def State.tryList (s : State) (a l : Nat) : Option State :=
  let e := s.elem a
  match e.lists.get [] l with
  | [] => none
  | h :: t =>
    match s.fits a h false with
    | some g => some ((s.listTake a l 0).grantAt a h g false)
    | none =>
      match (if s.keyAtHorizon a h.ctx h.key then s.fits a h true else none) with
      | some g => some ((s.listTake a l 0).grantAt a h g true)
      | none =>
        if (s.ctx a h.ctx).bypl ≤ h.bypass then none
        else match windowFit s a (h :: t) (e.win.get 0 l) with
          | some (i, g) => match (h :: t)[i]? with
            | some r =>
              let s1 := s.modElem a fun e => { e with lists := e.lists.put l ({ h with bypass := h.bypass + 1 } :: t) }
              some ((s1.listTake a l i).grantAt a r g false)
            | none => none
          | none => none

/-- The visit of the waiting lists, in ascending index after the list visited last, up to the first grant (R128). -/
def State.visitLists (s : State) (a : Nat) : List Nat → State
  | [] => s
  | l :: ls =>
    match s.tryList a l with
    | some s1 => s1.modElem a fun e => { e with lastList := l }
    | none => (s.modElem a fun e => { e with lastList := l }).visitLists a ls

/-- The storage that a list's visit reads: its context's entry, and the handle-table entry that a grant would fill (R120, R124, R132). DESIGN CHOICE (log 110): the
spec does not say what the allocator reads. -/
def State.meetList (s : State) (a l : Nat) : State :=
  let k := l / 4
  let hr := s.handleRange a k
  s.eccMeet a k { elem := a, ctx := k } [(3, [k]), (2, (freeEntry (s.elem a) hr.2 hr.1).toList)]

/-- ALLOCATOR_GRANT (R128): at most one grant in a cycle, on the state of the cycle's start. -/
def execAllocatorGrant (a : Nat) (s : State) : Out :=
  let e := s.elem a
  let busy := (e.lists.rows.filter fun r => !r.2.isEmpty).map fun r => r.1
  if s.cycle < e.allocNext then .next s
  else .next ((busy.foldl (fun s l => s.meetList a l) s).visitLists a ((busy.filter fun l => e.lastList < l) ++ busy.filter fun l => l ≤ e.lastList))

-- Messages at their ends ------------------------------------------------------------------------------------------------------

/-- The message with number n of the list of flights, when it is at its endpoint, no earlier message of its channel is under way (R40, R190,
R199) and its partition is not frozen (R293). -/
def State.arrived (s : State) (n : Nat) : Option Flight :=
  match s.net[n]? with
  | none => none
  | some f =>
    let ahead := (s.net.take n).any fun g => g.src == f.src && g.dst == f.dst && g.vn == f.vn && g.cls == f.cls
    if f.at_ == .here && !ahead && !(s.part f.own).frozen then some f else none

def State.dropFlight (s : State) (n : Nat) : State := { s with net := dropAt s.net n }

/-- Takes the message n, when it has arrived and the event knows it; the state is unchanged when it may not be taken. -/
def onMsg (s : State) (n : Nat) (f : State → Flight → Option State) : Out :=
  match s.arrived n with
  | none => .next s
  | some x => match f (s.dropFlight n) x with
    | some s1 => .next s1
    | none => .next s

-- The waiting-list window (R128, R196) ------------------------------------------------------------------------------------------

/-- Where the request slot of a waiting request lies. -/
def AllocReq.place (r : AllocReq) : Place := match r.unit with | some (c, _) => .clus c | none => .elem r.org.elem

/-- The refill message of a list that is under way. -/
def State.refillAt (s : State) (a l : Nat) : Option Nat := s.net.findIdx? fun f => match f.msg with | .refill b k _ _ => b == a && k == l | _ => false

/-- WINDOW_REFILL (R128, R196): a CTL message goes to the request slot of the first entry of a list that its window does not hold, and brings its copy back; the window takes the copy if that
entry is still the next. -/
def execWindowRefill (a l : Nat) (s : State) : Out :=
  let n := (s.elem a).win.get 0 l
  let nxt := ((s.elem a).lists.get [] l)[n]?
  match s.refillAt a l with
  | some k => match s.arrived k with
    | none => .next s
    | some f =>
      let s1 := s.dropFlight k
      match f.msg with
      | .refill _ _ o true =>
        .next (if n < 5 ∧ nxt.map (fun r => r.org) = some o then (s1.modElem a fun e => { e with win := e.win.put l (n + 1) }).allocTouched a else s1)
      | .refill _ _ o false => .next (s1.post f.dst (.elem a) 3 0 f.own false (.refill a l o true))
      | _ => .next s
  | none => match nxt with
    | some r => .next (if n < 5 then s.post (.elem a) r.place 3 0 (s.ownOf a (l / 4)) false (.refill a l r.org false) else s)
    | none => .next s


/-- Storage messages of one activation to one owner arrive in issue order (R135). -/
def State.inOrder (s : State) (x : Flight) : Bool :=
  match s.storageMsg x.msg with
  | some (d, o) => !s.storageAhead d o true
  | none => true

/-- ALLOC_REQUEST_ACCEPT (R126): refused on RSP, or appended at the tail of its list. -/
def execAllocRequestAccept (n : Nat) (s : State) : Out :=
  onMsg s n fun s x =>
    if !s.inOrder x then none
    else match x.msg, x.dst with
    | .alloc r, .elem a =>
      let refuse (c : Nat) : State := s.post (.elem a) r.home 1 0 x.own false (.refuse r c)
      if (s.poolPart a r.ctx r.pool false).isNone then some (refuse 0x37)
      else if !s.couldFit a r then some (refuse 0x30)
      else
        let l := 4 * r.ctx + r.pool
        some ((s.modElem a fun e =>
          let q := e.lists.get [] l
          { e with lists := e.lists.put l (q ++ [{ r with bypass := 0 }]),
                   win := if e.win.get 0 l = q.length ∧ q.length < 5 then e.win.put l (q.length + 1) else e.win }).allocTouched a)
    | _, _ => none

/-- The release of an allocation (R120, R138): its ready nodes leave their lists. -/
def State.release (s : State) (a j : Nat) (y : HEntry) (h : Word) : State :=
  let gen : Nat := if y.gen = 15 then 1 else y.gen + 1
  let s1 := s.modElem a fun e =>
    { e with handles := e.handles.put j { y with v := false, fe := false, cons := 0, gen := gen },
             ready := e.ready.filter fun r => r.fh != h,
             lastBusy := if e.ready.any fun r => r.fh == h then s.cycle else e.lastBusy }
  (List.range 8).foldl (fun s c => if ((s.elem a).ready.any fun r => r.ch == c) then s.relink a c else s) s1

/-- The owner's entry for a message's handle, or the STALE_HANDLE record (R138). -/
def ownerEntry (s : State) (x : Flight) (o : Org) (h : Word) (f : Nat → HEntry → State) : Option State :=
  if !s.inOrder x then none
  else match x.dst with
  | .elem a => match (s.elem a).live h with
    | some y => some (f a y)
    | none => some (s.errorOnly o 0x23)
  | _ => none

/-- FREE_MESSAGE (R138, R120). -/
def execFreeMessage (n : Nat) (s : State) : Out :=
  onMsg s n fun s x =>
    match x.msg with
    | .free o h k => (ownerEntry s x o h fun a y =>
        if y.cons < k then s.errorOnly o 0x3B
        else if y.cons = k then (s.release a (hIdx h) y h).allocTouched a
        else (s.modElem a fun e => { e with handles := e.handles.put (hIdx h) { y with cons := y.cons - k } }).allocTouched a).map fun s => s.freedDone o
    | _ => none

/-- HOLD_MESSAGE (R138). -/
def execHoldMessage (n : Nat) (s : State) : Out :=
  onMsg s n fun s x =>
    match x.msg with
    | .hold o h k => ownerEntry s x o h fun a y =>
        if 255 < y.cons + k then s.errorOnly o 0x35
        else (s.modElem a fun e => { e with handles := e.handles.put (hIdx h) { y with cons := y.cons + k } }).allocTouched a
    | _ => none

/-- TFUL_MESSAGE (R138). -/
def execTfulMessage (n : Nat) (s : State) : Out :=
  onMsg s n fun s x =>
    match x.msg with
    | .tful o h b => (ownerEntry s x o h fun a y =>
        ((s.modElem a fun e => { e with handles := e.handles.put (hIdx h) { y with fe := b } }).allocTouched a).tagTouched a).map fun s => s.freedDone o
    | _ => none

/-- Free granules between lo and hi in ON thirds (R140). -/
def freeGranules (e : Elem) (lo hi : Nat) : Nat := ((List.range (hi - lo)).filter fun j => runFree e (lo + j) 1).length

/-- AQRY_QUERY (R140): the snapshot of the cycle's start goes back on RSP. -/
def execAqryQuery (n : Nat) (s : State) : Out :=
  onMsg s n fun s x =>
    match x.msg, x.dst with
    | .aqry o kind arg pool, .elem a =>
      let e := s.elem a
      let answer (lo hi : Nat) : Option State := some (s.replyFrom (.elem a) o (BitVec.ofNat 64 (hi % 2 ^ 32 * 2 ^ 32 + lo % 2 ^ 32)))
      if !s.inOrder x || s.cycle < e.allocNext then none
      else if kind = 0 then
        match e.live arg with
        | some y => answer (y.cons + y.fe.toNat * 256 + y.esc.toNat * 512) y.size
        | none => answer 0xFFFFFFFF 0
      else match s.poolPart a o.ctx pool false, s.poolPart a o.ctx pool true with
      | some p, some q =>
        if kind = 1 then answer (freeGranules e p.1 p.2) (freeGranules e q.1 q.2)
        else
          let l := e.lists.get [] (4 * o.ctx + pool)
          let byp : Nat := match l with | h :: _ => h.bypass | [] => 0
          answer l.length (byp % 16 + (if !l.isEmpty && (s.ctx a o.ctx).bypl ≤ byp then 2 ^ 31 else 0))
      | _, _ => some (s.post (.elem a) (.elem o.elem) 1 0 x.own false (.refused o 0x37))
    | _, _ => none

end Sys2Proof.Machine
end

