-- ==== Sys2Proof/Machine/Tokens.lean ====
section
/-! DEFINITION. The sends (R145, R146), the class masks (R147), and what a word leaves for the cycles after it (R144, R146, R147, R179, R323). -/

namespace Sys2Proof.Machine

/-- The token of a send (R145), its destination apart. -/
def Act.sendTok (act : Act) (o : OpK) (x : Sel) : Token :=
  let l0 := act.src .n32 o.lit x 0
  let l1 := act.src .n32 o.lit x 1
  { payload := (l1.v.setWidth 64 <<< 32) ||| l0.v.setWidth 64
    tail := BitVec.ofNat 4 (8 * l1.g.toNat + 4 * l1.s.toNat + 2 * l0.g.toNat + l0.s.toNat)
    tag := act.hdr.tag, fill := act.hdr.fill, col := Nat.log2 act.width, e := act.e || act.xs, cls := o.cls.toNat }

/-- Puts a token on the send queue; in an open section instance a token to the instance's own frame leaves at once and every other token is held
until commit (R232). -/
def State.sendTok (s : State) (a : Nat) (act : Act) (t : Token) : State :=
  let n := s.nextSeq a
  let org := act.org a n.2
  match (n.1.elem a).sects.find? fun x => x.fh == act.fh && !x.closed && !x.wait with
  | some x =>
    if t.fh == act.fh then (n.1.modElem a fun e => e.count (s.ownOf a act.ctx) 3 1).injectToken org { t with sect := some n.2 } true
    else n.1.modElem a fun e => e.setSect { x with hold := holdAt x.hold { org := org, msg := .tok t } }
  | none => n.1.queueMsg org (.tok t) none false

/-- The node and port that lane 0 of a source names (R146). -/
def nodePort (w : Word) : Nat × Nat := (bitsOf w.toNat 4 12, bitsOf w.toNat 2 2)

/-- SEND (R146). -/
def execSend (o : OpK) (s : State) : Out :=
  runWord s <| gated o.pr o.pn fun s a act =>
    let h := (act.src .n32 o.lit o.a 0).v
    let d := nodePort (act.src .n32 o.lit o.c 0).v
    if isNull h then .bad 0x24
    else .go (s.sendTok a act { act.sendTok o o.b with fh := h, node := d.1, port := d.2 }) act

/-- EMIT (R146): to a destination of the head; nothing for an unused one. -/
def execEmit (o : OpK) (s : State) : Out :=
  runWord s <| gated o.pr o.pn fun s a act =>
    let d := if o.ops.getLsbD 0 then act.dstb else act.dsta
    if d.mode == 0 then .go s act
    else match act.dstHandle d.mode with
      | none => .bad 0x24
      | some h => .go (s.sendTok a act { act.sendTok o o.a with fh := h, node := d.node.toNat, port := d.port.toNat }) act

/-- SENDC (R146): the receiver's class table names the node. -/
def execSendc (o : OpK) (s : State) : Out :=
  runWord s <| gated o.pr o.pn fun s a act =>
    let h := (act.src .n32 o.lit o.a 0).v
    if isNull h then .bad 0x24
    else .go (s.sendTok a act { act.sendTok o o.b with fh := h, port := bitsOf o.ops.toNat 0 2, handler := true }) act

/-- MCAST (R145, R146): a token per active lane, in ascending lane order; a null handle skips its lane. Two tokens go in a cycle, and the sequence slot is held while they
do. -/
def execMcast (o : OpK) (s : State) : Out :=
  runWord s <| gated o.pr o.pn fun s a act =>
    let d := nodePort (act.src .n32 o.lit o.c 0).v
    let on := (List.range act.width).filter (act.guard o.pr o.pn)
    let ts : List Token := on.filterMap fun i =>
      let h := (act.src .n32 o.lit o.a i).v
      if isNull h then none else some { act.sendTok o o.b with fh := h, node := d.1, port := d.2 }
    let s1 := (ts.take 2).foldl (fun s t => s.sendTok a act t) s
    let s2 := if ts.length ≤ 2 then s1 else s1.modElem a fun e => { e with sending := e.sending ++ [{ aid := act.aid, toks := (ts.drop 2).map fun t => (act.org a 0, t) }] }
    .go s2 { act with hold := (ts.length + 1) / 2 }

/-- Changes the MASK field of the running context's entry from the next cycle on (R147). -/
def setMask (o : OpK) (s : State) (on : Bool) : Out :=
  runWord s <| gated o.pr o.pn fun s a act =>
    .go (s.modElem a fun e => { e with late := e.late ++ [.mask act.ctx ((act.src .n32 o.lit o.a 0).v.setWidth 16) on] }) act

/-- MASK (R147). -/
def execMask (o : OpK) (s : State) : Out := setMask o s true

/-- UNMSK (R147). -/
def execUnmsk (o : OpK) (s : State) : Out := setMask o s false

/-- What a word changes in the cycle after it (R56, R147, R323): MASK := MASK OR set, or MASK AND NOT set, the CSRs, and the sequence slot of a faulting word. -/
def Elem.apply (e : Elem) (l : Late) : Elem :=
  let ctx (k : Nat) (f : CtxEntry → CtxEntry) : Elem := { e.noteTable 3 k with ctxs := e.ctxs.put k (f (e.ctxs.get {} k)) }
  match l with
  | .mask k set on => ctx k fun c => { c with mask := if on then c.mask ||| set else c.mask &&& ~~~set }
  | .bypl k v => ctx k fun c => { c with bypl := v }
  | .idleCycles v => { e with idleCycles := v }
  | .busRow v => { e with busRow := v }
  | .busCol v => { e with busCol := v }
  | .brkEn v => { e with brkEn := v }
  | .ended k aid cycle => match nth e.seqs k none with
    | some x => if x.aid == aid then e.endSeq k cycle else e
    | none => e

/-- A new cycle begins for an element: the changes of the cycle before take effect. -/
def Elem.lateTick (e : Elem) : Elem := if e.late.isEmpty then e else { e.late.foldl Elem.apply e with late := [] }

/-- The token of an activation's send, which runs (R145). -/
def State.sendHeld (s : State) (a : Nat) (x : Sending) : State :=
  let act : Option Act := (s.elem a).seqs.findSome? fun q => q.filter fun y => y.aid == x.aid
  match act with
  | none => s
  | some y =>
    let s1 := (x.toks.take 2).foldl (fun s r => s.sendTok a y r.2) s
    (x.flits.take 1).foldl (fun s m => s.post (.elem a) (.clus (clusNo a)) 0 0 (s.ownOf a y.ctx) true m) s1

/-- One cycle of the instructions of several cycles of an element (R144, R146, R179): held slots count down, and two tokens or one flit of each go. What belongs to a
frozen partition stands still (R293). -/
def State.holdTick (s : State) (a : Nat) : State :=
  let still (q : Option Act) : Bool := match q with | some y => (s.part (s.ownOf a y.ctx)).frozen | none => true
  let run (x : Sending) : Bool := (s.elem a).seqs.any fun q => !still q && (match q with | some y => y.aid == x.aid | none => false)
  let s1 := ((s.elem a).sending.filter run).foldl (fun s x => s.sendHeld a x) s
  s1.modElem a fun e =>
    { e with seqs := e.seqs.map (fun q => if still q then q else q.map fun y => { y with hold := y.hold - 1 }),
             sending := (e.sending.map fun x => if run x then { x with toks := x.toks.drop 2, flits := x.flits.drop 1 } else x).filter fun x =>
               !(x.toks.isEmpty && x.flits.isEmpty) && e.seqs.any fun q => (match q with | some y => y.aid == x.aid | none => false) }

/-- n cycles of the held slots of an element; nothing is left to do after the longest hold. -/
def holdTicks (a : Nat) : Nat → State → State
  | 0, s => s
  | n + 1, s =>
    if (s.elem a).seqs.any (fun q => match q with | some y => y.hold != 0 | none => false) || !(s.elem a).sending.isEmpty then holdTicks a n (s.holdTick a) else s

/-- What words left for the next cycles comes about (R144, R146, R147, R179, R323). -/
def State.wordTick (s : State) (n : Nat) : State :=
  let s1 : State := { s with elems := s.elems.mapVals fun _ e => e.lateTick }
  s1.elems.rows.foldl (fun s r => holdTicks r.1 n s) s1

end Sys2Proof.Machine
end

