-- ==== Sys2Proof/Machine/Launch.lean ====
section
/-! DEFINITION. Launch records and their index spaces: the layout (R156), the checks (R157), the orders of indices (R158), placement and seed
tokens (R159). -/

namespace Sys2Proof.Machine

/-- A launch record from its 64 bytes as a number (R156). -/
def LaunchRec.ofNat (x : Nat) : LaunchRec :=
  let four (lo : Nat) : List Nat := (List.range 4).map fun d => bitsOf x (lo + 16 * d) 16
  { hseed := bitsOf x 384 32, done := bitsOf x 320 57, args := bitsOf x 256 57, org := four 192, tile := four 128, ext := four 64,
    dims := bitsOf x 46 2, order := bitsOf x 44 2, entry := bitsOf x 32 12, port := bitsOf x 30 2, colq := bitsOf x 24 6,
    ctx := bitsOf x 21 3, region := bitsOf x 18 3, nslot := bitsOf x 10 8, place := bitsOf x 9 1 == 1, split := bitsOf x 8 1 == 1,
    donek := bitsOf x 7 1 == 1 }

/-- The reserved fields of a record (R156) are zero. -/
def recClean (x : Nat) : Bool := bitsOf x 416 96 == 0 && bitsOf x 377 7 == 0 && bitsOf x 313 7 == 0 && bitsOf x 48 16 == 0 && bitsOf x 0 7 == 0

def ceilDiv (a b : Nat) : Nat := (a + b - 1) / b

/-- Tiles of dimension d (R158). -/
def LaunchRec.tiles (r : LaunchRec) (d : Nat) : Nat := ceilDiv (nth r.ext d 0) (nth r.tile d 1)

/-- ⌈log2 n⌉. -/
def log2Up (n : Nat) : Nat := if n ≤ 1 then 0 else Nat.log2 (n - 1) + 1

/-- The numbers of tiles of the record's dimensions. -/
def LaunchRec.counts (r : LaunchRec) : List Nat := (List.range (r.dims + 1)).map r.tiles

def prodOf : List Nat → Nat
  | [] => 1
  | n :: ns => n * prodOf ns

/-- The size of the linear index space (R158). -/
def LaunchRec.space (r : LaunchRec) : Nat := if r.order = 2 then prodOf (r.counts.map fun n => 2 ^ log2Up n) else prodOf r.counts

/-- The emitted indices: ∏ n_d (R160). -/
def LaunchRec.emitted (r : LaunchRec) : Nat := prodOf r.counts

/-- Mixed-radix digits, the first dimension fastest. -/
def digits : List Nat → Nat → List Nat
  | [], _ => []
  | n :: ns, l => l % n :: digits ns (l / n)

/-- Adds bit b to entry d of a vector at the place k. -/
def addBit (is : List Nat) (d k b : Nat) : List Nat := setAt is d (nth is d 0 + b * 2 ^ k)

/-- Round k of the Morton mapping visits dimensions d upward: the bits used up and the vector so far (R158). -/
def mortonRound (ps : List Nat) (k l : Nat) (st : Nat × List Nat) : List Nat → Nat × List Nat
  | [] => st
  | d :: ds =>
    if k < nth ps d 0 then mortonRound ps k l (st.1 + 1, addBit st.2 d k (bitsOf l st.1 1)) ds
    else mortonRound ps k l st ds

/-- The Morton mapping, `ps` the log2 sizes (R158). -/
def morton (ps : List Nat) (l : Nat) : List Nat :=
  ((List.range 16).foldl (fun st k => mortonRound ps k l st (List.range ps.length)) (0, ps.map fun _ => 0)).2

/-- The tile index vector of index L; none for a skipped Morton index (R158). -/
def LaunchRec.index (r : LaunchRec) (l : Nat) : Option (List Nat) :=
  let ns := r.counts
  if r.order = 0 then some (digits ns l)
  else if r.order = 1 then some (digits ns.reverse l).reverse
  else if r.order = 2 then
    let is := morton (ns.map log2Up) l
    if (List.range ns.length).all fun d => nth is d 0 < nth ns d 0 then some is else none
  else
    let is := digits ns l
    let n0 := nth ns 0 1
    some (if l / n0 % 2 = 1 then setAt is 0 (n0 - 1 - nth is 0 0) else is)

/-- The coordinates of an index vector (R158). -/
def LaunchRec.coords (r : LaunchRec) (is : List Nat) : List Nat :=
  (List.range is.length).map fun d => nth r.org d 0 + nth is d 0 * nth r.tile d 0

/-- The hash of the coordinates (R159). -/
def coordHash (seed : Nat) (cs : List Nat) : Nat :=
  let h := cs.foldl (fun h c => ((h ^^^ c) * 0x9E3779B1) % 2 ^ 32) seed
  h ^^^ (h / 2 ^ 16)

/-- The element of the region that index L is placed on, counted row-major (R159). -/
def LaunchRec.placeOf (r : LaunchRec) (l : Nat) (cs : List Nat) (n : Nat) : Nat := (if r.place then coordHash r.hseed cs else l) % n

/-- The seed tag (R159): the last dimension pushed first. -/
def seedHdr (cs : List Nat) : FrameHdr := cs.reverse.foldl (fun h c => (h.push c 16).getD h) {}

/-- The seed token of an index, its frame apart (R159). -/
def LaunchRec.seed (r : LaunchRec) (cs : List Nat) (lmax : Nat) : Token :=
  let h := seedHdr cs
  { payload := BitVec.ofNat 64 r.args, tag := h.tag, fill := h.fill, node := r.entry, port := r.port, col := min (Nat.log2 (max 1 (min 32 r.colq))) lmax }

/-- The dimension checks of R157, step 2. -/
def dimsOk (r : LaunchRec) : Bool :=
  (List.range 4).all fun d =>
    let e := nth r.ext d 0
    let t := nth r.tile d 0
    let g := nth r.org d 0
    if d ≤ r.dims then 1 ≤ e && 1 ≤ t && g + (ceilDiv e t - 1) * t ≤ 65535
    else e == 0 && t == 0 && g == 0

/-- Granules of a frame of n slots. -/
def frameGran (n : Nat) : Nat := (64 + 16 * n + 31) / 32

/-- R157, in order: the number of the first check that fails. `ctxOk` and `region` judge step 4, `headOf` gives the heads of the context's window
and `entry` its context-store entry (steps 5 and 6). -/
def recordFault (x : Nat) (ctxOk : Nat → Bool) (region : Nat) (headOf : Nat → Option (Nat × OpN)) (entry : CtxEntry) : Option Nat :=
  let r := LaunchRec.ofNat x
  let p := nth entry.pools 0 {}
  let g := frameGran (r.nslot + 1)
  if !recClean x then some 1
  else if !dimsOk r then some 2
  else if r.colq < 1 || 32 < r.colq then some 3
  else if !ctxOk r.ctx || r.region != region then some 4
  else match headOf r.entry with
    | none => some 5
    | some (_, o) =>
      if o.nin.toNat + 1 ≤ r.port then some 5
      else if !entry.pv.getLsbD 0 || !(g ≤ p.size - p.esc || g ≤ p.esc) || r.nslot + 1 < o.slot.toNat + o.nin.toNat + 1 then some 6
      else if r.done % 8 ≠ 0 then some 7
      else none

end Sys2Proof.Machine
end

