-- ==== Sys2Proof/Machine/Walk.lean ====
section
/-! DEFINITION. Walker units: SPLIT and WSTAT (R164, R189), and what arms and emits (R161, R162, R188). -/

namespace Sys2Proof.Machine

/-- The walker units of a cluster that a context's tenant may use (R291). -/
def State.unitRange (s : State) (c k : Nat) : List Nat := if s.shared c then (if k < 4 then [0, 1, 2, 3] else [4, 5, 6, 7]) else List.range 8

def State.walker (s : State) (c u : Nat) : Walker := (s.clus c).walkers.get {} u

def State.modWalker (s : State) (c u : Nat) (f : Walker → Walker) : State :=
  s.modClus c fun x => { x with walkers := x.walkers.put u (f (x.walkers.get {} u)) }

/-- The lowest unit with V = 0 and RES = 0 (R164, R188). -/
def State.freeUnit (s : State) (c k : Nat) : Option Nat :=
  (s.unitRange c k).find? fun u => let w := s.walker c u; !w.v && !w.res

/-- Arms a unit over the whole space of a record (R161, R188). -/
def State.armUnit (s : State) (c u : Nat) (r : LaunchRec) (lo hi home : Nat) : State :=
  s.modWalker c u fun w => { w with lr := r, hi := hi, cursor := lo, home := home, out := 0, res := false, v := lo < hi, next := s.cycle }

/-- The absolute element at column x and row y of the partition that a hedge names. -/
def elemAt (h : Hedge) (x y : Nat) : Nat := idAt (h.orgx + x / 12) (h.orgy + y / 8) (y % 8 * 12 + x % 12)

/-- Adds a record that completes when the running context of a region closes (R160, R188). -/
def State.addRecord (s : State) (p j : Nat) (r : LaunchRec) : State :=
  s.modRegion p j fun g => { g with run := g.run.map fun x => { x with recs := x.recs ++ [(none, r)] } }

/-- An operation that takes a walker request slot and names a continuation: slot, origin, count (R121, R279). -/
def walkerIssue (s : State) (a : Nat) (act : Act) (d : Dst) (k : ReqKind) (f : State → Org → State) : WRes :=
  match s.takeSlot a act { kind := k, target := a, ctx := act.ctx } with
  | none => .bad 0x38
  | some (s1, act1, j) =>
    match act.cont d with
    | none => .bad 0x24
    | some c =>
      let n := s1.nextSeq a
      let org : Org := { act.org a n.2 with slot := some j, cont := c }
      .go (f (n.1.countCont a act.ctx c) org) act1

/-- The nearest splittable unit of the thief's cluster (R164). -/
def State.nearest (s : State) (c k j : Nat) : Option Nat :=
  (s.unitRange c k).foldl (fun b u =>
    let w := s.walker c u
    if w.v && w.lr.ctx == k && w.lr.region == j && w.lr.split then
      (match b with
       | some v => if (s.walker c v).hi - (s.walker c v).cursor < w.hi - w.cursor then some u else b
       | none => some u)
    else b) none

/-- SPLIT (R164, R189, R196): a split request goes to the thief's own cluster, which reserves a unit. Each thief's request has its own channel. -/
def execSplit (o : OpK) (s : State) : Out :=
  runBarred o.pr o.pn s fun s a act =>
    let near : Bool := o.ops.getLsbD 3
    let owner : Option Nat := if near then some a else s.absOf a act.ctx ((act.src .n32 o.lit o.a 0).v.toNat % 2 ^ 18)
    match owner with
    | none => .bad 0x3A
    | some d =>
      walkerIssue s a act o.dst .walker fun s org =>
        let j := match s.regionOf a act.ctx with | some (_, j) => j | none => 8
        s.post (.elem a) (.clus (clusNo a)) 0 0 (s.ownOf a act.ctx) true (.splitReq org d (o.ops.toNat % 8) near act.ctx j s.cycle)

/-- WSTAT (R189). -/
def execWstat (o : OpK) (s : State) : Out :=
  runWord s <| gated o.pr o.pn fun s a act =>
    match s.absOf a act.ctx ((act.src .n32 o.lit o.a 0).v.toNat % 2 ^ 18) with
    | none => .bad 0x3A
    | some d =>
      walkerIssue s a act o.dst .walker fun s org =>
        s.post (.clus (clusNo a)) (.clus (clusNo d)) 3 0 (s.ownOf a act.ctx) false (.wstat org (o.ops.toNat % 8))

/-- WSTAT's snapshot of a unit (R189). -/
def Walker.status (w : Walker) : Nat :=
  min (w.hi - w.cursor) 0xFFFFFFFF + w.out * 2 ^ 32 + w.v.toNat * 2 ^ 36 + w.res.toNat * 2 ^ 37 + w.lr.split.toNat * 2 ^ 38 + w.home * 2 ^ 39

/-- A split request of this cluster goes before another (R189): it is of an earlier cycle, or of the same and a lower element. -/
def State.requestAhead (s : State) (c at_ a : Nat) : Bool :=
  s.net.any fun f => f.dst == .clus c && !(s.part f.own).frozen && (match f.msg with
    | .splitReq o _ _ _ _ _ t => t < at_ || (t == at_ && o.elem < a)
    | _ => false)

/-- The reservation (R164 step 1), once every request of its cycle is in. -/
def State.reserve (s : State) (x : Flight) : Option State :=
  match x.msg, x.dst with
  | .splitReq o d u near k j at_, .clus c =>
    if s.cycle ≤ at_ || s.requestAhead c at_ o.elem then none
    else match s.freeUnit c k with
      | none => some (s.replyFrom (.clus c) o 2)
      | some res =>
        match (if near then s.nearest c k j else some u) with
        | none => some (s.replyFrom (.clus c) o 1)
        | some u => some ((s.modWalker c res fun w => { w with res := true }).post (.clus c) (.clus (clusNo d)) 3 0 x.own false (.split o u (some (elemIdx o.elem)) res k j))
  | _, _ => none

/-- A walker may emit: its region runs its context, is not parking, and the partition is not frozen (R162, R281, R293); it has not emitted or been split in this
cycle (R162, R164). -/
def State.emits (s : State) (a : Nat) (w : Walker) : Bool :=
  match s.regionOf a w.lr.ctx with
  | some (p, j) =>
    let g := s.region p j
    w.v && w.out < 8 && w.cursor < w.hi && w.next ≤ s.cycle && g.cur == some w.lr.ctx && !g.parking && !(s.part p).frozen
  | none => false

/-- Another split message reached this owner unit before, or in the same cycle at a port before (R189). -/
def State.splitAhead (s : State) (c u since port : Nat) : Bool :=
  s.net.any fun f => f.dst == .clus c && f.at_ == .here && (match f.msg with
    | .split _ v _ _ _ _ => v == u && (f.since < since || (f.since == since && inPort f.port < inPort port))
    | _ => false)

/-- SPLIT_APPLY (R164, R189): the thief's cluster reserves a unit; the owner unit, after its emission of the cycle, gives up the upper half of its range; or a unit
answers WSTAT with its state before the cycle's emission. -/
def execSplitApply (n : Nat) (s : State) : Out :=
  onMsg s n fun s x =>
    match x.msg, x.dst with
    | .splitReq _ _ _ _ _ _ _, .clus _ => s.reserve x
    | .split o u _ res k j, .clus c =>
      let w := s.walker c u
      let back (s : State) (code : Nat) (lo hi : Nat) : State := s.post (.clus c) x.src 3 0 x.own false (.splitRes o code res w.lr lo hi 0)
      let rem := w.hi - w.cursor
      if s.splitAhead c u x.since x.port || s.emits (idOfClus c w.home) w then none
      else if !(s.unitRange c k).contains u || !w.v || w.lr.ctx != k || w.lr.region != j then some (back s 1 0 0)
      else if !w.lr.split then some (back s 3 0 0)
      else if rem < 2 then some (back s 1 0 0)
      else
        let h := rem / 2
        some (back (s.modWalker c u fun w => { w with hi := w.hi - h, next := s.cycle + 1 }) 0 (w.hi - h) w.hi)
    | .wstat o u, .clus c => if s.cycle < (s.walker c u).next then none else some (s.replyFrom (.clus c) o (BitVec.ofNat 64 (s.walker c u).status))
    | _, _ => none

/-- Arms records that wait for a free unit of the region's origin cluster (R161). -/
def armMore (p j : Nat) : Nat → State → State
  | 0, s => s
  | n + 1, s =>
    match (s.region p j).run with
    | none => s
    | some x =>
      match x.arm with
      | [] => s
      | r :: rs =>
        let a := elemAt (s.hedgeOf p) x.x0 x.y0
        let c := clusNo a
        match s.freeUnit c r.ctx with
        | none => s
        | some u => armMore p j n ((s.armUnit c u r 0 r.space (elemIdx a)).modRegion p j fun g => { g with run := some { x with arm := rs } })

/-- The units of a cluster have changed: every launch that waits for one there is tried again (R161). -/
def State.armAll (s : State) (c : Nat) : State :=
  s.regions.rows.foldl (fun s r => match r.2.run with
    | some x => if clusNo (elemAt (s.hedgeOf (r.1 / 8)) x.x0 x.y0) == c then armMore (r.1 / 8) (r.1 % 8) 8 s else s
    | none => s) s

end Sys2Proof.Machine
end

