-- ==== Sys2Proof/Machine/Arrive.lean ====
section
/-! DEFINITION. What arrives at elements and walkers: tokens (R46), grants and replies (R51, R137, R140), refusals (R126), the emission of walkers
(R162), idle frames (R163), results of splits (R164), the horizon and promotions (R129). -/

namespace Sys2Proof.Machine

/-- TOKEN_ARRIVAL (R46). R230 speaks of the cluster of the registrant that receives the token: an FREG's continuation is its receiver. DESIGN CHOICE (log 111): where the
continuation lies in another cluster than the FREG was executed in, the read cache of the cluster that stores the token is invalidated. -/
def execTokenArrival (n : Nat) (s : State) : Out :=
  onMsg s n fun s x =>
    match x.msg, x.dst with
    | .tok t, .elem a =>
      let s1 := match (if t.acq then (s.elem a).live t.fh else none) with
        | some y => s.rcDrop (clusNo a) (s.tslotOf (clusNo a) ((s.elem a).readHdr y).ctx) fun _ => true
        | none => s
      some (s1.applyToken a t)
    | _, _ => none

/-- A reply reaches its issuer: the request slot is freed and the token delivered (R121, R137). -/
def State.takeReply (s : State) (o : Org) (t : Option Token) : State :=
  let s1 := s.freeReq o.elem o.slot
  match t with
  | some t => s1.deliver o t
  | none => s1

/-- The kind of the request that an origin's slot holds. -/
def State.reqKind (s : State) (o : Org) : Option ReqKind :=
  match o.slot with
  | some j => (nth (s.elem o.elem).reqs j none).map fun r => r.kind
  | none => none

/-- GRANT_DELIVERY (R137, R140, R51, R163): the grant frees the request slot; ALLOC's continuation gets the grant token, a frame request's token
is in its frame already, and an idle frame is noted. -/
def execGrantDelivery (n : Nat) (s : State) : Out :=
  onMsg s n fun s x =>
    match x.msg, x.dst with
    | .grant r h g, .elem a =>
      if r.idle then some ((s.freeReq a r.org.slot).modElem a fun e => { e with idle := e.idle ++ [h], lastBusy := s.cycle })
      else if r.put.isSome then some (s.freeReq a r.org.slot)
      else some (s.replyTo r.org (BitVec.ofNat 64 (32 * g * 2 ^ 32 + h.toNat)) r.org.e)
    | .reply o t, .elem _ => if s.reqKind o == some .query then some (s.takeReply o t) else none
    | _, _ => none

-- Walkers --------------------------------------------------------------------------------------------------------------------

/-- A unit whose range is emitted and whose requests are answered is exhausted (R162); records that wait for a unit are armed (R161). -/
def State.restUnit (s : State) (c u : Nat) : State :=
  let w := s.walker c u
  let s1 := if w.v && w.cursor == w.hi && w.out == 0 then s.modWalker c u fun w => { w with v := false } else s
  if (s1.walker c u).v then s1 else s1.armAll c

/-- WALKER_EMIT (R162, R158, R159). -/
def execWalkerEmit (c u : Nat) (s : State) : Out :=
  let w := s.walker c u
  let home := idOfClus c w.home
  if !s.emits home w then .next s
  else
    let s1 := s.modWalker c u fun w => { w with cursor := w.cursor + 1, next := s.cycle + 1 }
    match w.lr.index w.cursor, s.regionOf home w.lr.ctx, w.reqs.findIdx? fun q => q.isNone with
    | some is, some (p, j), some slot =>
      let g := s.region p j
      let cs := w.lr.coords is
      let k := w.lr.placeOf w.cursor cs (g.w * g.h)
      let hd := s.hedge c w.lr.ctx
      let d := elemAt hd (g.x0 + k % g.w) (g.y0 + k / g.w)
      let t := w.lr.seed cs (s.ctx d w.lr.ctx).lmax
      let hdr := { seedHdr cs with nslot := w.lr.nslot, ctx := w.lr.ctx }
      let key : Word := hdr.tag.setWidth 32
      let org : Org := { elem := home, ctx := w.lr.ctx, node := w.lr.entry, tag := hdr.tag, fill := hdr.fill, slot := some slot,
                         cont := some ⟨mkHandle (s.rel d w.lr.ctx) 0 0, w.lr.entry, w.lr.port⟩ }
      let r : AllocReq := { org := org, target := d, unit := some (c, u), ctx := w.lr.ctx, pool := 0, gran := frameGran (w.lr.nslot + 1), alog := 0,
                            cons := 1, key := key, hdr := some hdr, put := some t }
      let s2 := s1.modWalker c u fun w =>
        { w with out := w.out + 1, reqs := setAt w.reqs slot (some { kind := .walker, target := d, ctx := w.lr.ctx, pool := 0, key := key }) }
      .next ((s2.countSent home w.lr.ctx d).post (.clus c) (.elem d) 0 0 hd.own false (.alloc r))
    | none, _, _ => .next (s1.restUnit c u)
    | _, _, _ => .next s

/-- A walker's request is answered: its slot is free and OUT falls (R162). -/
def State.unitAnswered (s : State) (c u : Nat) (slot : Option Nat) : State :=
  (s.modWalker c u fun w => { w with out := w.out - 1, reqs := match slot with | some j => setAt w.reqs j none | none => w.reqs }).restUnit c u

/-- WALKER_GRANT_DELIVERY (R159, R161, R162). -/
def execWalkerGrantDelivery (n : Nat) (s : State) : Out :=
  onMsg s n fun s x =>
    match x.msg, x.dst with
    | .grant r _ _, .clus _ => match r.unit with
      | some (c, u) => some (s.unitAnswered c u r.org.slot)
      | none => none
    | _, _ => none

/-- ALLOC_REFUSAL_ARRIVAL (R126, R279): the requester frees the slot and raises the fault; the continuation receives nothing. A
phaser's notice of a refused wait counts only. -/
def execAllocRefusalArrival (n : Nat) (s : State) : Out :=
  onMsg s n fun s x =>
    match x.msg with
    | .refuse r c =>
      match r.unit with
      | some (cl, u) => some (((s.unitAnswered cl u r.org.slot).countRefused r.org).errorOnly r.org c)
      | none => some (((s.freeReq r.org.elem r.org.slot).countRefused r.org).fault r.org c)
    | .refused o c => some (((s.freeReq o.elem o.slot).countRefused o).fault o c)
    | .notice o => some (s.countRefused o)
    | _ => none

/-- SPLIT_RESULT (R164, R189): the returned range arms the reserved unit, or the reservation is dropped; the thief's continuation gets the code. -/
def execSplitResult (n : Nat) (s : State) : Out :=
  onMsg s n fun s x =>
    match x.msg, x.dst with
    | .splitRes o code res r lo hi _, .clus c =>
      if code = 0 then some ((s.armUnit c res r lo hi (elemIdx o.elem)).replyTo o (BitVec.ofNat 64 (res * 256 + (hi - lo) * 2 ^ 32)) o.e)
      else
        let s1 := (s.modWalker c res fun w => { w with res := false }).restUnit c res
        some (s1.replyTo o (BitVec.ofNat 64 code) o.e)
    | _, _ => none

-- Idle frames (R163) ----------------------------------------------------------------------------------------------------------

/-- A unit of the region's running context is armed (R163). -/
def State.walkersLive (s : State) (p j : Nat) : Bool :=
  let g := s.region p j
  s.clusters.rows.any fun r => r.2.walkers.rows.any fun w =>
    w.2.v && w.2.lr.region == j && g.cur == some w.2.lr.ctx && s.regionOf (idOfClus r.1 w.2.home) w.2.lr.ctx == some (p, j)

/-- IDLE_FIRE (R163): the element requests a frame for its running context's idle node. -/
def execIdleFire (a t : Nat) (s : State) : Out :=
  let c := clusNo a
  let h := if s.shared c then nth (s.clus c).hedges t {} else s.hedge c 0
  match s.regionAt h.own h a with
  | none => .next s
  | some j =>
    let g := s.region h.own j
    match g.cur with
    | none => .next s
    | some k =>
      let e := s.elem a
      let x := s.ctx a k
      let d := x.idle
      let mine (fh : Word) : Bool := match e.live fh with | some y => s.ownOf a (e.readHdr y).ctx == h.own | none => false
      let quiet : Bool := e.ready.isEmpty && e.seqs.all (fun q => q.isNone) && e.lastBusy + e.idleCycles.toNat ≤ s.cycle
      let asked : Bool := e.idle.any mine || (e.reqs.any fun q => match q with | some r => r.kind == .idle && s.ownOf a r.ctx == h.own | none => false)
      match s.head a k d.node.toNat, (s.slotRange a k).find? fun i => (nth e.reqs i none).isNone with
      | some (_, o), some slot =>
        if quiet && d.mode != 0 && !asked && s.walkersLive h.own j && !(s.part h.own).frozen then
          let n := o.slot.toNat + o.nin.toNat + 1
          let t : Token := { payload := BitVec.ofNat 64 e.idleCycles.toNat, node := d.node.toNat, port := d.port.toNat }
          let org : Org := { elem := a, ctx := k, node := d.node.toNat, slot := some slot, cont := some ⟨mkHandle (s.rel a k) 0 0, t.node, t.port⟩ }
          let r : AllocReq := { org := org, target := a, idle := true, ctx := k, pool := 0, gran := frameGran n, alog := 0, cons := 1, key := 0xFFFFFFFF,
                                hdr := some { nslot := n - 1, ctx := k }, put := some t }
          let s1 := s.modElem a fun e => { e with reqs := setAt e.reqs slot (some { kind := .idle, target := a, ctx := k, pool := 0, key := 0xFFFFFFFF }) }
          .next ((s1.countSent a k a).post (.elem a) (.elem a) 0 0 h.own false (.alloc r))
        else .next s
      | _, _ => .next s

-- The horizon (R129) -------------------------------------------------------------------------------------------------------------

/-- Elements of the table that work in a region. -/
def State.regionElems (s : State) (p j : Nat) : List Nat :=
  (s.elems.rows.filter fun r => s.regionAt p (s.hedgeOf p) r.1 == some j
    && ((s.clus (clusNo r.1)).hedges.any fun h => h.v && h.own == p)).map fun r => r.1

/-- Requests of a region's own elements that wait at allocators of the region (R129). -/
def State.waitingKeys (s : State) (p j : Nat) : List Word :=
  let es := s.regionElems p j
  es.flatMap fun a => (s.elem a).lists.rows.flatMap fun l => (l.2.filter fun r => es.contains r.org.elem && s.ownOf a r.ctx == p).map fun r => r.key

def minKey : List Word → Option Word
  | [] => none
  | k :: ks => match minKey ks with
    | some m => some (if k < m then k else m)
    | none => some k

/-- HORIZON_SNAPSHOT (R129): every 512 cycles. -/
def execHorizonSnapshot (p j : Nat) (s : State) : Out :=
  let g := s.region p j
  if g.used && g.snap.isNone && g.snapAt + 512 ≤ s.cycle && !(s.part p).frozen then
    .next (s.modRegion p j fun g => { g with snap := some (minKey (s.waitingKeys p j), s.cycle), snapAt := s.cycle })
  else .next s

/-- The promotions that a broadcast to a partition's region sends for an element's own waiting requests of that partition (R129, R291). -/
def State.promoteElem (s : State) (p a : Nat) (h : Word) : State :=
  (List.range 8).foldl (fun s i => match nth (s.elem a).reqs i none with
    | some r =>
      if s.ownOf a r.ctx == p && (r.kind == .alloc || r.kind == .frame || r.kind == .idle) && r.key ≤ h then
        s.post (.elem a) (.elem r.target) 1 0 (s.ownOf a r.ctx) false (.promote a i none r.ctx r.pool r.key)
      else s
    | none => s) s

/-- The promotions for the walker units whose HOME is a given element (R129). -/
def State.promoteUnits (s : State) (p j : Nat) (h : Word) : State :=
  s.clusters.rows.foldl (fun s c => c.2.walkers.rows.foldl (fun s w =>
    let home := idOfClus c.1 w.2.home
    if s.regionOf home w.2.lr.ctx == some (p, j) then
      (List.range 8).foldl (fun s i => match nth w.2.reqs i none with
        | some r => if r.key ≤ h then s.post (.clus c.1) (.elem r.target) 1 0 p false (.promote home i (some (c.1, w.1)) r.ctx r.pool r.key) else s
        | none => s) s
    else s) s) s

/-- HORIZON_BROADCAST (R129, R131): the region's elements compare with the new horizon from the next cycle. -/
def execHorizonBroadcast (p j : Nat) (s : State) : Out :=
  let g := s.region p j
  match g.snap with
  | none => .next s
  | some (h, _) =>
    if (s.part p).frozen then .next s
    else
      let es := s.regionElems p j
      let same : Nat := if h.isSome && h == g.horizon && !g.granted then g.hzSame + 1 else 1
      let s1 := s.modRegion p j fun g => { g with horizon := h, snap := none, hzSame := same, granted := false }
      let s2 := es.foldl (fun s a => s.allocTouched a) s1
      match h with
      | none => .next s2
      | some k => .next ((es.foldl (fun s a => s.promoteElem p a k) s2).promoteUnits p j k)

/-- PROMOTION (R129): the entry moves to the head of its list; it and the former head keep their bypass counts. A promotion whose request has been granted meanwhile moves
nothing: a later request that has taken its slot is another entry, with a key of its own. -/
def execPromotion (n : Nat) (s : State) : Out :=
  onMsg s n fun s x =>
    match x.msg, x.dst with
    | .promote a i unit k p key, .elem d =>
      let l := 4 * k + p
      let e := s.elem d
      let q := e.lists.get [] l
      match q.findIdx? fun r => r.org.elem == a && r.org.slot == some i && r.unit == unit && r.key == key with
      | none => some s
      | some 0 => some s
      | some (m + 1) => match q[m + 1]? with
        | none => some s
        | some r =>
          let win : Nat := e.win.get 0 l
          some ((s.modElem d fun e => { e with lists := e.lists.put l (r :: dropAt q (m + 1)),
                                               win := e.win.put l (if m + 1 < win then win else min 5 (win + 1)) }).allocTouched d)
    | _, _ => none

end Sys2Proof.Machine
end

