-- ==== Sys2Proof/Machine/Phaser.lean ====
section
/-! DEFINITION. Phasers: the five instructions (R168, R190), a cycle of a phaser (R169), waiter links and releases (R167, R168, R191). -/

namespace Sys2Proof.Machine

-- Membership words (R167) ------------------------------------------------------------------------------------------------------

def mwMode (m : DWord) : Nat := bitsOf m.toNat 62 2
def mwId (m : DWord) : Nat := bitsOf m.toNat 32 26
def mwSp (m : DWord) : Word := m.setWidth 32

/-- A membership word with another SP. -/
def mwWith (m : DWord) (sp : Word) : DWord := (m >>> 32 <<< 32) ||| sp.setWidth 64

/-- A membership word of a mode, a phaser id and SP. -/
def mwMake (mode id : Nat) (sp : Word) : DWord := BitVec.ofNat 64 (mode * 2 ^ 62 + id * 2 ^ 32 + sp.toNat)

/-- The issuer's checks of a membership word (R190): its element, then its mode. -/
def State.memberFault (s : State) (a k : Nat) (m : DWord) (ok : Nat → Bool) : Option Nat :=
  if (s.phaserAt a k (mwId m)).isNone then some 0x3A
  else if bitsOf m.toNat 58 4 ≠ 0 ∨ mwMode m = 0 ∨ !ok (mwMode m) then some 0x43
  else none

/-- Writes a membership word to D (R190). -/
def Act.setPair (act : Act) (d : Sel) (v : DWord) : Act := act.setTemp d (lanePair v false false)

/-- PHREG (R168, R190). -/
def execPhreg (o : OpS) (s : State) : Out :=
  runBarred o.pr o.pn s fun s a act =>
    let id := (act.src .n32 o.lit o.a 0).v.toNat % 2 ^ 26
    if (s.phaserAt a act.ctx id).isNone then .bad 0x3A
    else match s.takeSlot a act { kind := .phaser, target := a, ctx := act.ctx } with
      | none => .bad 0x38
      | some (s1, act1, j) =>
        match act.cont o.dst with
        | none => .bad 0x24
        | some k =>
          let n := s1.nextSeq a
          let org : Org := { act.org a n.2 with slot := some j, cont := k }
          .go ((n.1.countCont a act.ctx k).queueMsg org (.ph org id (.reg o.fn.toNat) false 0) none false) act1

/-- A phaser message that takes no request slot (R190): `ok` says which modes permit it, `op` builds it from the word, and `out` gives D. -/
def phaserSend (s : State) (o : OpS) (ok : Nat → Bool) (op : DWord → Cont → PhOp) (out : DWord → Option DWord) (waits : Bool) : Out :=
  runBarred o.pr o.pn s fun s a act =>
    let m := act.pair o.ty o.lit o.a
    match s.memberFault a act.ctx m ok with
    | some c => .bad c
    | none =>
      match act.cont o.dst with
      | none => .bad 0x24
      | some k =>
        let n := s.nextSeq a
        let org : Org := { act.org a n.2 with cont := if waits then k else none }
        let act1 := match out m with
          | some v => act.setPair o.d v
          | none => act
        let op := op m (k.getD ⟨0, 0, 0⟩)
        .go ((n.1.countCont a act.ctx org.cont).queueMsg org (.ph org (mwId m) op o.rl o.scope.toNat) none false) act1

/-- PHDRP (R168, R190). -/
def execPhdrp (o : OpS) (s : State) : Out := phaserSend s o (fun _ => true) (fun m _ => .drop (mwMode m) (mwSp m)) (fun _ => none) false

/-- PHSIG (R168, R190). -/
def execPhsig (o : OpS) (s : State) : Out :=
  phaserSend s o (fun k => k == 1 || k == 3) (fun m _ => .sig (mwSp m)) (fun m => some (mwWith m (mwSp m + 1))) false

/-- PHWT (R168, R190). -/
def execPhwt (o : OpS) (s : State) : Out :=
  phaserSend s o (fun k => k == 2 || k == 3) (fun m k => .wait (if mwMode m = 2 then mwSp m else mwSp m - 1) k o.aq)
    (fun m => some (if mwMode m = 2 then mwWith m (mwSp m + 1) else m)) true

/-- PHSW (R168, R190). -/
def execPhsw (o : OpS) (s : State) : Out :=
  phaserSend s o (fun k => k == 3) (fun m k => .sigWait (mwSp m) (mwSp m) k o.aq) (fun m => some (mwWith m (mwSp m + 1))) true

-- A cycle of a phaser (R169) ----------------------------------------------------------------------------------------------------------

def State.phaser (s : State) (c n : Nat) : Phaser := (s.clus c).phasers.get {} n

def State.modPhaser (s : State) (c n : Nat) (f : Phaser → Phaser) : State :=
  s.modClus c fun x => { x with phasers := x.phasers.put n (f (x.phasers.get {} n)) }

/-- A waiter link (R167). -/
def linkOf (k : Cont) (last : Bool) : DWord :=
  BitVec.ofNat 64 (hElem k.fh * 2 ^ 29 + k.fh.toNat % 2 ^ 14 * 2 ^ 15 + k.node % 4096 * 8 + k.port % 4 * 2 + last.toNat)

/-- The continuation that a waiter link names. -/
def contOf (l : DWord) : Cont :=
  ⟨BitVec.ofNat 32 (bitsOf l.toNat 29 18 * 2 ^ 14 + bitsOf l.toNat 15 14), bitsOf l.toNat 3 12, bitsOf l.toNat 1 2⟩

/-- Sends a message from a phaser's cluster to the element of a continuation's frame. -/
def State.toWaiter (s : State) (src : Place) (p : Nat) (k : Cont) (m : Msg) : State :=
  match s.absId (s.hedgeOf p) (hElem k.fh) with
  | some d => s.post src (.elem d) 3 0 p false m
  | none => s

/-- The regions that an acquiring wait is told of (R224). -/
def State.phRegions (s : State) (c p n : Nat) : List (Nat × Nat) :=
  let ts : Nat := if (nth (s.clus c).hedges 1 {}).v && (nth (s.clus c).hedges 1 {}).own == p then 1 else 0
  s.boundOf c ts n

/-- A refusal at a phaser: the record, and for a wait the notice to its issuer (R168, R279). -/
def State.phRefuse (s : State) (c p : Nat) (o : Org) (code : Nat) (wait : Bool) : State :=
  let s1 := s.errorOnly o code
  if wait then s1.post (.clus c) (.elem o.elem) 3 0 p false (.notice o) else s1

/-- Step 1, a drop: whether it was applied (R168, R169). -/
def phDrop (c p n : Nat) (st : State × Bool) (m : Org × PhOp) : State × Bool :=
  match m.2 with
  | .drop mode sp =>
    let x := st.1.phaser c n
    if mode = 2 then st
    else if sp = x.phase then (st.1.modPhaser c n fun x => { x with exp := x.exp - 1 }, true)
    else if sp = x.phase + 1 then (st.1.modPhaser c n fun x => { x with adj := x.adj - 1 }, true)
    else (st.1.phRefuse c p m.1 0x42 false, st.2)
  | _ => st

/-- Step 2, a signal (R168, R169). -/
def phSignal (c p n : Nat) (s : State) (m : Org × PhOp) : State :=
  let go (sp : Word) : State :=
    let x := s.phaser c n
    if sp = x.phase then s.modPhaser c n fun x => { x with arr := x.arr + 1 }
    else if sp = x.phase + 1 then s.modPhaser c n fun x => { x with arrn := x.arrn + 1 }
    else s.phRefuse c p m.1 0x42 false
  match m.2 with
  | .sig sp => go sp
  | .sigWait sp _ _ _ => go sp
  | _ => s

/-- The completion check could pass (R169). -/
def Phaser.ripe (x : Phaser) (dropped : Bool) : Bool := x.exp ≤ x.arr && (x.arr != 0 || x.hv || dropped)

/-- Step 3, the completion check (R169): the phase advances and the waiter list is released. -/
def phCheck (c p n : Nat) (dropped : Bool) (s : State) : State :=
  let x := s.phaser c n
  if x.ripe dropped then
    let s1 := s.modPhaser c n fun x =>
      { x with phase := x.phase + 1, exp := x.exp + x.adj, adj := 0, arr := x.arrn, arrn := 0, hv := false, head := 0, acq := [] }
    if x.hv then
      let k := contOf (x.head.setWidth 64)
      s1.toWaiter (.clus c) p k (.release k x.phase (s.phRegions c p n) x.acq true)
    else s1
  else s

/-- Step 4, a wait (R168, R169). A wait for a phase that is complete is answered with the regions bound to the phaser as it arrives (R224), not with those of the phase's completion, which
the phaser does not keep: DESIGN CHOICE (log 118). -/
def phWait (c p n : Nat) (s : State) (m : Org × PhOp) : State :=
  let go (q : Word) (k : Cont) (aq : Bool) : State :=
    let x := s.phaser c n
    let l := linkOf k true
    if q = x.phase then
      let old : DWord := if x.hv then x.head.setWidth 64 else 1
      let s1 := s.modPhaser c n fun x => { x with hv := true, head := (linkOf k false).setWidth 47, acq := if aq then l :: x.acq else x.acq }
      s1.toWaiter (.clus c) p k (.link k old)
    else if (q - x.phase).msb then s.toWaiter (.clus c) p k (.release k q (s.phRegions c p n) (if aq then [l] else []) false)
    else s.phRefuse c p m.1 0x42 true
  match m.2 with
  | .wait q k aq => go q k aq
  | .sigWait _ q k aq => go q k aq
  | _ => s

/-- Step 5, a registration (R168, R169). -/
def phReg (c n : Nat) (id : Nat) (s : State) (m : Org × PhOp) : State :=
  match m.2 with
  | .reg mode =>
    let x := s.phaser c n
    if mode ≠ 2 ∧ x.exp = 65535 then (s.errorOnly m.1 0x44).replyFrom (.clus c) m.1 (mwMake 0 id x.phase)
    else
      let s1 := if mode = 2 then s else s.modPhaser c n fun x => { x with exp := x.exp + 1 }
      s1.replyFrom (.clus c) m.1 (mwMake mode id x.phase)
  | _ => s

/-- When the next check of a phaser is due. -/
def State.phDue (s : State) (c n : Nat) (at_ : Nat) : State :=
  s.modPhaser c n fun x => { x with due := if x.ripe false then some at_ else none }

/-- One cycle of a phaser with the messages that reached it (R169). -/
def phCycle (c p n : Nat) (ms : List (Org × Nat × PhOp)) (s : State) : State :=
  let ops := ms.map fun m => (m.1, m.2.2)
  let d := ops.foldl (phDrop c p n) (s, false)
  let s1 := phCheck c p n d.2 (ops.foldl (phSignal c p n) d.1)
  let s2 := ops.foldl (phWait c p n) s1
  let s3 := ms.foldl (fun s m => phReg c n m.2.1 s (m.1, m.2.2)) s2
  s3.phDue c n (s.cycle + 1)

/-- The partition slot that owns a phaser of a cluster (R291). -/
def State.phaserOwn (s : State) (c n : Nat) : Nat := (s.hedge c (if n < 128 then 0 else 4)).own

/-- The completion checks of cycles without messages (R169), made before the clock passes them; three of them exhaust a phaser's arrivals. -/
def phIdle (c n : Nat) (now : Nat) : Nat → State → State
  | 0, s => s
  | k + 1, s =>
    match (s.phaser c n).due with
    | some t =>
      if t < now && !(s.part (s.phaserOwn c n)).frozen then
        phIdle c n now k ((phCheck c (s.phaserOwn c n) n false s).phDue c n (t + 1))
      else s
    | none => s

/-- Every due check before the cycle `now`. -/
def State.phTick (s : State) (now : Nat) : State :=
  s.clusters.rows.foldl (fun s r => r.2.phasers.rows.foldl (fun s x => if x.2.due.isSome then phIdle r.1 x.1 now 4 s else s) s) s

/-- A phaser message that has arrived: its cluster, owner, number, origin and operation. -/
def phArrived (x : Flight) : Option (Nat × Nat × Org × Nat × PhOp) :=
  match x.msg, x.dst with
  | .ph o id op _ _, .clus c => some (c, id % 256, o, id, op)
  | _, _ => none

/-- A cycle of a phaser on message n, of a given kind, and perhaps a second message of the same cycle (R169). -/
def phEvent (n : Nat) (also : Option Nat) (kind : PhOp → Bool) (s : State) : Out :=
  match s.arrived n with
  | none => .next s
  | some x =>
    match phArrived x with
    | none => .next s
    | some (c, num, o, id, op) =>
      let s1 := s.dropFlight n
      if !kind op then .next s
      else match also with
        | none => .next (phCycle c x.own num [(o, id, op)] s1)
        | some m =>
          let m1 := if n < m then m - 1 else m
          match (if m = n then none else s1.arrived m1) with
          | none => .next s
          | some y => match phArrived y with
            | some (c2, num2, o2, id2, op2) =>
              if c2 = c ∧ num2 = num then .next (phCycle c x.own num [(o, id, op), (o2, id2, op2)] (s1.dropFlight m1)) else .next s
            | none => .next s

/-- PHASER_REGISTER (R168, R169). -/
def execPhaserRegister (n : Nat) (also : Option Nat) (s : State) : Out := phEvent n also (fun | .reg _ => true | _ => false) s

/-- PHASER_SIGNAL (R168, R169). -/
def execPhaserSignal (n : Nat) (also : Option Nat) (s : State) : Out := phEvent n also (fun | .sig _ => true | _ => false) s

/-- PHASER_DROP (R168, R169). -/
def execPhaserDrop (n : Nat) (also : Option Nat) (s : State) : Out := phEvent n also (fun | .drop _ _ => true | _ => false) s

/-- PHASER_WAIT (R168, R169). -/
def execPhaserWait (n : Nat) (also : Option Nat) (s : State) : Out := phEvent n also (fun | .wait _ _ _ => true | _ => false) s

/-- PHASER_SIGNAL_WAIT (R168, R169). -/
def execPhaserSignalWait (n : Nat) (also : Option Nat) (s : State) : Out := phEvent n also (fun | .sigWait _ _ _ _ => true | _ => false) s

-- Waiter links and releases (R167, R168, R191) --------------------------------------------------------------------------------------------

/-- The slot of a continuation's frame at its element, when frame and node exist. -/
def State.contSlot (s : State) (a : Nat) (k : Cont) : Option (HEntry × FrameHdr × Nat) :=
  let e := s.elem a
  match e.live k.fh with
  | none => none
  | some y =>
    let h := e.readHdr y
    match s.head a h.ctx k.node with
    | some (_, o) => if o.nin.toNat < k.port || h.nslot < o.slot.toNat + k.port then none else some (y, h, o.slot.toNat + k.port)
    | none => none

/-- WAITER_LINK_WRITE (R167, R168). -/
def execWaiterLinkWrite (n : Nat) (s : State) : Out :=
  onMsg s n fun s x =>
    match x.msg, x.dst with
    | .link k w, .elem a => match s.contSlot a k with
      | some (y, _, j) => some (s.modElem a fun e => e.setSlot y j (setBits (e.slot y j) 0 64 w.toNat))
      | none => some s
    | _, _ => none

/-- PHASER_RELEASE (R168, R224): an acquiring waiter's cluster first drops the bound regions' lines; the slot's link is read, the token stored under
R46, and the release passed on unless END = 1. -/
def execPhaserRelease (n : Nat) (s : State) : Out :=
  onMsg s n fun s x =>
    match x.msg, x.dst with
    | .release k phase regs acq chain, .elem a =>
      let t : Token := { payload := phase.setWidth 64, fh := k.fh, node := k.node, port := k.port }
      match s.contSlot a k with
      | none => some (s.applyToken a t)
      | some (y, h, j) =>
        let l : DWord := BitVec.ofNat 64 (bitsOf ((s.elem a).slot y j) 0 64)
        let s1 := if acq.contains (linkOf k true) then
            s.rcDrop (clusNo a) (s.tslotOf (clusNo a) h.ctx) fun z => regs.any fun r => r.1 ≤ z && z < r.1 + r.2
          else s
        let s2 := s1.applyToken a { t with tag := h.tag, fill := h.fill }
        if chain && !l.getLsbD 0 then some (s2.toWaiter (.elem a) x.own (contOf l) (.release (contOf l) phase regs acq true)) else some s2
    | _, _ => none

end Sys2Proof.Machine
end

