-- ==== Sys2Proof/Machine/Array.lean ====
section
/-! DEFINITION. The systolic array: group 3 (R176 to R185), the array controller's messages, firings and drains (R170 to R174, R75). -/

namespace Sys2Proof.Machine

-- Configured arrays ----------------------------------------------------------------------------------------------------------

/-- Rows and columns of an element index lie in an entry's rectangle (R170). -/
def ArrEnt.holds (x : ArrEnt) (i : Nat) : Bool :=
  x.origin / 12 ≤ i / 12 && i / 12 < x.origin / 12 + x.rows && x.origin % 12 ≤ i % 12 && i % 12 < x.origin % 12 + x.cols

/-- Element index of the member at row r and column c of an array. -/
def ArrEnt.member (x : ArrEnt) (r c : Nat) : Nat := x.origin + 12 * r + c

/-- The members' element indices. -/
def ArrEnt.members (x : ArrEnt) : List Nat := (List.range x.rows).flatMap fun r => (List.range x.cols).map fun c => x.member r c

def ArrEnt.ke (x : ArrEnt) : Nat := kePer x.af
def ArrEnt.k (x : ArrEnt) : Nat := x.rows * x.ke
def ArrEnt.ne (x : ArrEnt) : Nat := x.n / x.cols

/-- The configured array that an element index belongs to. -/
def State.arrayOf (s : State) (c i : Nat) : Option (Nat × ArrEnt) := (s.clus c).arrays.rows.find? fun r => r.2.holds i

/-- The configured array whose origin is an element index. -/
def State.arrayAt (s : State) (c i : Nat) : Option (Nat × ArrEnt) := (s.clus c).arrays.rows.find? fun r => r.2.origin == i

def State.modArray (s : State) (c g : Nat) (f : ArrEnt → ArrEnt) : State :=
  s.modClus c fun x => { x with arrays := ⟨x.arrays.rows.map fun r => if r.1 = g then (r.1, f r.2) else r⟩ }

/-- The element and live entry that a handle names for an origin's context. -/
def State.handleAt (s : State) (a k : Nat) (h : Word) : Option (Nat × HEntry) :=
  match s.absOf a k (hElem h) with
  | some d => ((s.elem d).live h).map fun y => (d, y)
  | none => none

/-- The full/empty tag of a handle's allocation; none when it is stale. -/
def State.tagOf (s : State) (o : Org) (h : Word) : Option Bool := (s.handleAt o.elem o.ctx h).map fun r => r.2.fe

def State.setTag (s : State) (o : Org) (h : Word) (b : Bool) : State :=
  match s.handleAt o.elem o.ctx h with
  | some (d, y) => ((s.modElem d fun e => { e with handles := e.handles.put (hIdx h) { y with fe := b } }).allocTouched d).tagTouched d
  | none => s

-- Local instructions ------------------------------------------------------------------------------------------------------------

/-- A group-3 source: lane 0 of a selector. -/
def ysrc (act : Act) (o : OpY) (x : Sel) : Word := (act.src .n32 o.lit x 0).v

/-- MODE (R177). -/
def execMode (o : OpY) (s : State) : Out :=
  runWord s fun s a act =>
    if o.ka = 1 then .go (s.modElem a fun e => { e with sysMode := true }) act
    else if (s.arrayOf (clusNo a) (elemIdx a)).isSome then .bad 0x48
    else .go (s.modElem a fun e => { e with sysMode := false }) act

/-- MBIND w (R180). -/
def execMbindW (o : OpY) (s : State) : Out :=
  runWord s fun s a act =>
    let h := ysrc act o o.a
    if (s.arrayOf (clusNo a) (elemIdx a)).isNone then .bad 0x4A
    else match s.handleAt a act.ctx h with
      | none => .bad 0x23
      | some (d, y) =>
        if d ≠ a ∨ 4096 < y.size then .bad 0x49
        else if (s.elem a).wbuf.isSome then .bad 0x48
        else .go ((s.modElem a fun e => { e with wbuf := some h, wdirty := false }).tagTouched a) act

/-- MFREE w (R182): at once, or after the firing in progress. -/
def execMfreeW (_ : OpY) (s : State) : Out :=
  runWord s fun s a act =>
    let firing : Bool := match s.arrayOf (clusNo a) (elemIdx a) with | some (_, x) => x.fir | none => false
    .go (s.modElem a fun e => if firing && e.wbuf.isSome then { e with wdrop := true } else { e with wbuf := none }) act

-- Array instructions: messages to the controller (R176) ------------------------------------------------------------------------------

/-- Sends an array instruction to the controller of the issuer's cluster, with a request slot when it names a completion destination (R176). -/
def arrSend (s : State) (o : OpY) (f : Act → ArrOp) : Out :=
  runWord s fun s a act =>
    let go (s : State) (act : Act) (slot : Option Nat) (k : Option Cont) : WRes :=
      let n := s.nextSeq a
      let org : Org := { act.org a n.2 with slot := slot, cont := k }
      .go ((n.1.countCont a act.ctx k).post (.elem a) (.clus (clusNo a)) 3 0 (s.ownOf a act.ctx) true (.arr org (f act))) act
    if o.cdst.mode == 0 then go s act none none
    else match s.takeSlot a act { kind := .array, target := a, ctx := act.ctx } with
      | none => .bad 0x38
      | some (s1, act1, j) => match act.cont o.cdst with
        | none => .bad 0x24
        | some k => go s1 act1 (some j) k

/-- MCFG (R178). -/
def execMcfg (o : OpY) (s : State) : Out :=
  arrSend s o fun _ => .mcfg (bitsOf o.lit.toNat 16 4) o.ka.toNat o.kb.toNat (16 * o.nq.toNat) o.mRows o.af o.wf o.f

/-- MBIND op (R180). -/
def execMbindOp (o : OpY) (s : State) : Out := arrSend s o fun act => .mbind (ysrc act o o.a) (ysrc act o o.b)

/-- MFREE op (R182). -/
def execMfreeOp (o : OpY) (s : State) : Out := arrSend s o fun _ => .mfreeOp

/-- MFREE cfg (R182). -/
def execMfreeCfg (o : OpY) (s : State) : Out := arrSend s o fun _ => .mfreeCfg

/-- MDRN (R183). -/
def execMdrn (o : OpY) (s : State) : Out := arrSend s o fun _ => .mdrn (o.ka.toNat % 8) (o.kb.getLsbD 0)

/-- MSTAT (R184). -/
def execMstat (o : OpY) (s : State) : Out := arrSend s o fun _ => .mstat

/-- SCSND (R185). -/
def execScsnd (o : OpY) (s : State) : Out := arrSend s o fun act => .scsnd (ysrc act o o.a)

/-- SCPR (R185). -/
def execScpr (o : OpY) (s : State) : Out := arrSend s o fun _ => .scpr o.ka.toNat

/-- ZSKP (R185). -/
def execZskp (o : OpY) (s : State) : Out := arrSend s o fun _ => .zskp o.ka.toNat

-- The controller -----------------------------------------------------------------------------------------------------------------------

/-- The answer of the controller (R176): the result token, if one is asked for. -/
def State.arrReply (s : State) (c : Nat) (o : Org) (payload : Nat) : State :=
  if o.slot.isSome then s.replyFrom (.clus c) o (BitVec.ofNat 64 payload) else s

/-- A refusal: its record and its result token (R176, R184). -/
def State.arrRefuse (s : State) (c : Nat) (o : Org) (op : ArrOp) (code : Nat) : State :=
  (s.errorOnly o code).arrReply c o (if op == .mstat then 0xFF * 2 ^ 56 + code else code)

/-- MCFG at the controller (R178): the code of a refusal, or 0 with the new state. -/
def State.arrConfig (s : State) (c i g rows cols n m : Nat) (af wf f : Ty) : Nat × State :=
  let x : ArrEnt := { origin := i, rows := rows, cols := cols, n := n, m := m, af := af, wf := wf, f := f }
  let fits : Bool := i / 12 + rows ≤ 8 && i % 12 + cols ≤ 12
  if !fits || ((s.clus c).arrays.find? g).isSome || x.members.any (fun j => (s.arrayOf c j).isSome) then (0x46, s)
  else if x.members.any fun j => !(s.elem (idOfClus c j)).sysMode then (0x47, s)
  else
    let s1 := x.members.foldl (fun s j => s.modElem (idOfClus c j) fun e =>
      { e with busRow := BitVec.ofNat 8 (16 * g + (j / 12 - i / 12)), busCol := BitVec.ofNat 8 (16 * g + (j % 12 - i % 12)) }) s
    (0, s1.modClus c fun y => { y with arrays := y.arrays.put g x })

/-- Some member has a weight buffer bound. -/
def State.anyBuffer (s : State) (c : Nat) (x : ArrEnt) : Bool := x.members.any fun j => (s.elem (idOfClus c j)).wbuf.isSome

/-- A handle suits a binding: live, in the controller's cluster (R180, R185). -/
def State.inCluster (s : State) (c : Nat) (o : Org) (h : Word) : Bool :=
  match s.handleAt o.elem o.ctx h with
  | some (d, _) => clusNo d == c
  | none => false

/-- MSTAT's payload (R184). -/
def ArrEnt.status (x : ArrEnt) : Nat :=
  x.xb.toNat * 2 ^ 51 + x.scn.isSome.toNat * 2 ^ 50 + x.fir.toNat * 2 ^ 49 + x.bind.isSome.toNat * 2 ^ 48 + x.fires % 2 ^ 16 * 2 ^ 32 + x.skips % 2 ^ 32

/-- The controller applies one message (R176 to R185); none while it waits. -/
def arrApply (c : Nat) (o : Org) (op : ArrOp) (s : State) : Option State :=
  let i := elemIdx o.elem
  let no (code : Nat) : Option State := some (s.arrRefuse c o op code)
  match op with
  | .mcfg g rows cols n m af wf f =>
    let r := s.arrConfig c i g rows cols n m af wf f
    if r.1 = 0 then some (((r.2.modArray c g fun x => { x with own := s.ownOf o.elem o.ctx }).modClus c fun x => { x with noCfg := x.noCfg.filter fun j => j != i }).arrReply c o 0)
    else some ((s.modClus c fun x => { x with noCfg := i :: x.noCfg }).arrRefuse c o op r.1)
  | _ =>
    match (if (s.clus c).noCfg.contains i then none else s.arrayAt c i) with
    | none => no 0x4A
    | some (g, x) =>
      let ok (s : State) : Option State := some (s.arrReply c o 0)
      match op with
      | .mbind a d =>
        if !s.inCluster c o a || !s.inCluster c o d then no 0x49
        else if x.bind.isSome then no 0x48
        else ok (s.modArray c g fun x => { x with bind := some (a, d, o) })
      | .mfreeOp =>
        if x.fir then none
        else if x.bind.isNone then no 0x49
        else ok (s.modArray c g fun x => { x with bind := none, scn := none, acc := .empty })
      | .mfreeCfg =>
        if x.bind.isSome || s.anyBuffer c x then no 0x48
        else
          let s1 := x.members.foldl (fun s j => s.modElem (idOfClus c j) fun e =>
            { e with busRow := BitVec.ofNat 8 (j / 12), busCol := BitVec.ofNat 8 (j % 12) }) s
          ok (s1.modClus c fun y => { y with arrays := y.arrays.erase g })
      | .mdrn _ _ => if x.bind.isNone then no 0x49 else none
      | .mstat => some (s.arrReply c o x.status)
      | .scsnd h => if x.af == .bf16 || !s.inCluster c o h then no 0x49 else ok (s.modArray c g fun x => { x with scn := some h, fresh := true })
      | .scpr k => if x.af == .bf16 then ok s else if x.cols ≤ k then no 0x46 else ok (s.modArray c g fun x => { x with rate := k })
      | .zskp m => ok (s.modArray c g fun x => { x with mask := m })
      | .mcfg _ _ _ _ _ _ _ _ => none

/-- The first wait of an MDRN with `after` passes while the A tile is empty and nothing fires, by the tags of the cycle's start (R183). -/
def drainMark (s : State) (c : Nat) (m : ArrMsg) : ArrMsg :=
  match m.op, s.arrayAt c (elemIdx m.org.elem) with
  | .mdrn _ true, some (_, x) =>
    match x.bind with
    | some (a, _, o) => if !x.fir && s.tagOf o a == some false then { m with drain := true } else m
    | none => m
  | _, _ => m

/-- Applies the waiting messages in order; a message that waits holds back the later messages of its issuer (R176). -/
def arrPump (c : Nat) : List ArrMsg → List Nat → State → List ArrMsg → State × List ArrMsg
  | [], _, s, kept => (s, kept)
  | m :: ms, held, s, kept =>
    if held.contains m.org.elem then arrPump c ms held s (kept ++ [m])
    else match arrApply c m.org m.op s with
      | some s1 => arrPump c ms held s1 kept
      | none => arrPump c ms (m.org.elem :: held) s (kept ++ [m])

/-- Marks the messages that the controller has before it: the first of every issuer. -/
def markHeads (s : State) (c : Nat) (l : List ArrMsg) : List ArrMsg :=
  l.map fun m => if (l.find? fun q => q.org.elem == m.org.elem) == some m then drainMark s c m else m

def State.pumpArrays (s : State) (c : Nat) : State :=
  let r := arrPump c (s.clus c).arrMsgs [] s []
  r.1.modClus c fun x => { x with arrMsgs := r.2 }

/-- The controller looks at the messages that wait, on the tags as they stand. -/
def State.markArrays (s : State) (c : Nat) : State := s.modClus c fun y => { y with arrMsgs := markHeads s c y.arrMsgs }

/-- The MDRN that waits at the head of an array's messages. -/
def State.waitingDrain (s : State) (c : Nat) (x : ArrEnt) : Option (Org × Nat × Bool × Bool) :=
  match (s.clus c).arrMsgs.find? fun m => elemIdx m.org.elem == x.origin with
  | some m => match m.op with
    | .mdrn rm after => some (m.org, rm, after, m.drain)
    | _ => none
  | none => none

/-- ARRAY_MESSAGE (R176, R183). -/
def execArrayMessage (n : Nat) (s : State) : Out :=
  onMsg s n fun s x =>
    match x.msg, x.dst with
    | .arr o op, .clus c =>
      if s.cycle < (s.clus c).arrNext || s.cycle < (s.clus c).msgNext then none
      else some (((s.modClus c fun y => { y with arrMsgs := y.arrMsgs ++ [{ org := o, op := op }] }).pumpArrays c).markArrays c)
    | _, _ => none

/-- What the controllers see at a cycle's start (R183). -/
def State.arrTick (s : State) : State :=
  s.clusters.rows.foldl (fun s r => if r.2.arrMsgs.isEmpty then s else s.markArrays r.1) s

-- Weight flits (R152, R179) ------------------------------------------------------------------------------------------------------------

/-- What one element of the cluster does with a flit. -/
def flitAt (o : Org) (row col off : Nat) (data : List Byte) (last fin : Bool) (s : State) (a : Nat) : State :=
  let e := s.elem a
  if !(row == e.busRow.toNat || row == 0xFF) || !(col == e.busCol.toNat || col == 0xFF) then s
  else
    let id : Nat × Nat := (o.elem, o.seq)
    let buf : Option (Word × HEntry) := match e.wbuf with | some h => (e.live h).map fun y => (h, y) | none => none
    let s1 : State :=
      match buf with
      | some (_, y) =>
        if y.fe || 32 * y.size < off + 32 then (if e.wdisc.contains id then s else (s.setElem a { e with wdisc := id :: e.wdisc }).errorOnly { o with elem := a } 0x4C)
        else s.setElem a { e.noteWrite (y.addr + off) 32 with mem := Memory.write e.mem (y.addr + off) data, wdirty := e.wdirty }
      | none => if e.wdisc.contains id then s else (s.setElem a { e with wdisc := id :: e.wdisc }).errorOnly { o with elem := a } 0x4C
    if last then
      let e1 := s1.elem a
      let clean : Bool := !e1.wdisc.contains id
      let s2 := s1.setElem a { e1 with wdisc := e1.wdisc.filter fun d => d != id }
      match buf with
      | some (h, y) => if clean && fin then (s2.modElem a fun e => { e with handles := e.handles.put (hIdx h) { y with fe := true } }).tagTouched a else s2
      | none => s2
    else s1

/-- MWLD_FLIT (R152, R179). -/
def execMwldFlit (n : Nat) (s : State) : Out :=
  onMsg s n fun s x =>
    match x.msg, x.dst with
    | .mwld o row col off data last fin, .clus c =>
      some ((List.range 96).foldl (fun s i => flitAt o row col off data last fin s (idOfClus c i)) s)
    | _, _ => none

-- Firings (R75, R172 to R174, R180, R181) ----------------------------------------------------------------------------------------------------

/-- Bytes of n consecutive elements of a type in stored form. -/
def packedBytes (t : Ty) (n : Nat) : Nat := if t == .w3 then 4 * ((n + 9) / 10) else (t.bits * n + 7) / 8

/-- Where the weight scales begin (R171). -/
def scaleOff (x : ArrEnt) : Nat := (packedBytes x.wf (x.ne * x.ke) + 31) / 32 * 32

/-- The bytes that a weight buffer must hold (R180). -/
def bufferNeed (x : ArrEnt) : Nat := if x.wf == .w4 || x.wf == .w3 then scaleOff x + 4 * x.ne else packedBytes x.wf (x.ne * x.ke)

/-- The live weight buffer of a member. -/
def State.buffer (s : State) (c j : Nat) : Option HEntry :=
  let e := s.elem (idOfClus c j)
  match e.wbuf with
  | some h => e.live h
  | none => none

/-- Rounding to odd at 32 significand bits (R75). -/
def ro32 (v : Val) : Val :=
  match v with
  | .fin n num den e =>
    if num = 0 then v
    else
      let q : Int := logQ num den + e - 31
      let r := quotAt num den e q
      .fin n (if r.2 then r.1 ||| 1 else r.1) 1 q
  | x => x

/-- One level of the pairwise tree of R75. -/
def pairSums : List (Val × Exc) → List (Val × Exc)
  | a :: b :: r => (let s := vadd a.1 b.1; (ro32 s.1, (a.2.or b.2).or s.2)) :: pairSums r
  | l => l

/-- The root of the tree over 32 products. -/
def tree32 (l : List (Val × Exc)) : Val × Exc :=
  match pairSums (pairSums (pairSums (pairSums (pairSums l)))) with
  | r :: _ => r
  | [] => (Val.zero false, Exc.none)

/-- The exact sum of exact products. -/
def exactSum (l : List (Val × Exc)) : Val × Exc := l.foldl (fun s p => let r := vadd s.1 p.1; (r.1, (s.2.or p.2).or r.2)) (Val.zero false, Exc.none)

/-- The operands of a firing: the A tile's store and address, the scale tile's, and the members' stores. -/
structure Feed where
  am : List Host.Cell
  aa : Nat
  sm : List Host.Cell
  sa : Nat

/-- Activation (m, k) (R172). -/
def actVal (x : ArrEnt) (f : Feed) (m k : Nat) : Val := ext x.af (loadLane x.af (elemRead f.am x.af f.aa (m * x.k + k)))

/-- Weight (k, n) from the member that holds it (R170, R171). -/
def weightVal (s : State) (c : Nat) (x : ArrEnt) (k n : Nat) : Val :=
  let j := x.member (k / x.ke) (n / x.ne)
  match s.buffer c j with
  | some y => ext x.wf (loadLane x.wf (elemRead (s.elem (idOfClus c j)).farMem x.wf y.addr (n % x.ne * x.ke + k % x.ke)))
  | none => Val.zero false

/-- The weight scale of block b and column n, from the block's closing row (R170, R171, R73). -/
def weightScale (s : State) (c : Nat) (x : ArrEnt) (b n : Nat) : Val :=
  if x.wf == .w4 || x.wf == .w3 then
    let j := x.member ((b + 1) * 32 / x.ke - 1) (n / x.ne)
    match s.buffer c j with
    | some y => scaleVal (BitVec.ofNat 32 (elemRead (s.elem (idOfClus c j)).farMem .sc20 (y.addr + scaleOff x) (n % x.ne) % 2 ^ 20))
    | none => Val.zero false
  else Val.ofInt 1

/-- The activation scale of (m, b) (R73, R174). -/
def actScale (x : ArrEnt) (f : Feed) (m b : Nat) : Val :=
  if x.af == .bf16 then Val.ofInt 1
  else scaleVal (BitVec.ofNat 32 (elemRead f.sm .sc20 f.sa (m * (x.k / 32) + b) % 2 ^ 20))

/-- The block term of (m, b, n) (R73, R75). -/
def blockTerm (s : State) (c : Nat) (x : ArrEnt) (f : Feed) (m b n : Nat) : Lane × Exc :=
  let sa := actScale x f m b
  let sw := weightScale s c x b n
  if sa.isNan || sw.isNan then (Lane.ofWord qnan, { inv := true })
  else if sa.isZero || sw.isZero then (Lane.zero, Exc.none)
  else
    let ps := (List.range 32).map fun j =>
      let a := actVal x f m (32 * b + j)
      if a.isZero then (Val.zero false, Exc.none) else vmul a (weightVal s c x (32 * b + j) n)
    let t := if x.af == .bf16 then tree32 ps else exactSum ps
    let sc := vmul sa sw
    let p := vmul t.1 sc.1
    let r := roNarrow p.1 .f32
    (r.1, ((t.2.or sc.2).or p.2).or r.2)

/-- The accumulator (m, n) after a firing (R75). -/
def accAfter (s : State) (c : Nat) (x : ArrEnt) (f : Feed) (m n : Nat) : Lane × Exc :=
  (List.range (x.k / 32)).foldl (fun r b =>
    let t := blockTerm s c x f m b n
    let a := addF32 r.1 t.1
    (a.1, (r.2.or t.2).or a.2)) (x.acc.get Lane.zero (m * x.n + n), Exc.none)

/-- All accumulators after a firing, and whether a conversion or sum of it was invalid or overflowed (R181). -/
def fireAll (s : State) (c : Nat) (x : ArrEnt) (f : Feed) : Table Lane × Bool :=
  (List.range (x.m * x.n)).foldl (fun r i =>
    let y := accAfter s c x f (i / x.n) (i % x.n)
    (r.1.put i y.1, r.2 || y.2.inv || y.2.ovf)) (x.acc, false)

/-- A program wrote a bound weight buffer of the array: what its firings give is unpredictable (R171). -/
def State.rewritten (s : State) (c : Nat) (x : ArrEnt) : Bool := x.members.any fun j => (s.elem (idOfClus c j)).wdirty

/-- What a firing leaves as it ends: its results, or free values where a bound weight buffer was rewritten before its end (R171). -/
def State.fired (s : State) (c : Nat) (x : ArrEnt) : ArrEnt :=
  let word (i : Nat) : Lane := ⟨Config.freeWord (freeIdx s.free 1 i), Config.freeBit (freeIdx s.free 1 (2 * i)), Config.freeBit (freeIdx s.free 1 (2 * i + 1))⟩
  if s.rewritten c x then
    { x with acc := (List.range (x.m * x.n)).foldl (fun t i => t.put i (word i)) x.acc, xb := x.xb || Config.freeBit (freeIdx s.free 1 (2 * x.m * x.n)),
             skips := (x.skips + x.res.skips) % 2 ^ 32, res := {} }
  else { x with acc := x.res.acc, xb := x.xb || x.res.xb, skips := (x.skips + x.res.skips) % 2 ^ 32, res := {} }

/-- Zero groups of enabled rows (R173). -/
def zeroGroups (x : ArrEnt) (f : Feed) : Nat :=
  ((List.range (x.m * x.rows)).filter fun i =>
    x.mask.testBit (i % x.rows) && (List.range x.ke).all fun k => (actVal x f (i / x.rows) (i % x.rows * x.ke + k)).isZero).length

/-- ARRAY_FIRING_END (R181, R182, R185): the results, the tags, the name of the scale tile unless SCSND has named the next firing's since, the counter, deferred
unbindings, and messages that waited for the end. -/
def execArrayFiringEnd (c g : Nat) (s : State) : Out :=
  match (s.clus c).arrays.find? g with
  | none => .next s
  | some x =>
    if !x.fir then .next s
    else
      let s1 := match x.bind with
        | some (ha, _, o) =>
          let s1 := s.setTag o ha false
          match (if x.af == Ty.bf16 then none else x.used) with
          | some h => s1.setTag o h false
          | none => s1
        | none => s
      let s1 := { s1 with free := s1.free + 1 }
      let s2 := s1.modArray c g fun y => { s.fired c y with fir := false, fires := (y.fires + 1) % 2 ^ 16, used := none, scn := if y.af == Ty.bf16 || y.fresh then y.scn else none }
      let s3 := x.members.foldl (fun s j => s.modElem (idOfClus c j) fun e => if e.wdrop then { e with wdrop := false, wbuf := none } else e) s2
      .next ((s3.tagTouched (idOfClus c x.origin)).pumpArrays c)

/-- One drained row: the stored patterns of row m with their exceptions; column n draws from its bottom-row element (R183). -/
def drainRow (s : State) (c : Nat) (x : ArrEnt) (rm m : Nat) : List Nat × Exc :=
  (List.range x.n).foldl (fun r n =>
    let rng := (s.elem (idOfClus c (x.member (x.rows - 1) (n / x.ne)))).rng
    let y := storeLane .f32 x.f rm (x.acc.get Lane.zero (m * x.n + n)) (srDraw rng (n % 32))
    (r.1 ++ [y.1], r.2.or y.2)) ([], Exc.none)

/-- All rows in order; with SR the bottom row's generators advance after each (R183). -/
def drainAll (c : Nat) (x : ArrEnt) (rm d addr : Nat) (s : State) : State × Exc :=
  (List.range x.m).foldl (fun r m =>
    let y := drainRow r.1 c x rm m
    let bytes := y.1.flatMap fun v => leBytes (x.f.bits / 8) v
    let at_ := addr + m * x.n * (x.f.bits / 8)
    let s1 := r.1.modElem d fun e => { e.noteWrite at_ bytes.length with mem := Memory.write e.mem at_ bytes }
    let s2 := if rm = 6 then (List.range x.cols).foldl (fun s k => s.srAdvance (idOfClus c (x.member (x.rows - 1) k)) 6) s1 else s1
    (s2, r.2.or y.2)) (s, Exc.none)

/-- MDRN_DRAIN (R183); an issuer whose E OR XS is 1 makes the final stores log as their own exceptions do (R79). -/
def execMdrnDrain (c g : Nat) (s : State) : Out :=
  match (s.clus c).arrays.find? g with
  | none => .next s
  | some x =>
    match s.waitingDrain c x, x.bind with
    | some (o, rm, after, passed), some (ha, hd, ob) =>
      let first : Bool := !after || passed || s.tagOf ob ha == some false
      match s.handleAt ob.elem ob.ctx hd with
      | none => .next s
      | some (d, y) =>
        if s.cycle < (s.clus c).arrNext || x.fir || !first || y.fe || (s.part (s.ownOf o.elem o.ctx)).frozen then .next s
        else
          let r := drainAll c x rm d y.addr s
          let s1 := if x.xb || r.2.inv || r.2.ovf || o.e then r.1.fpx o else r.1
          let s2 := (s1.setTag ob hd true).modArray c g fun x => { x with acc := .empty, xb := false }
          let s3 := s2.modClus c fun z => { z with arrMsgs := z.arrMsgs.filter fun m => !(m.org.elem == o.elem && m.org.seq == o.seq) }
          .next ((s3.arrReply c o 0).pumpArrays c)
    | _, _ => .next s

end Sys2Proof.Machine
end

