-- ==== Sys2Proof/Machine/Global.lean ====
section
/-! DEFINITION. The global-memory instructions of group 4 (R236 to R242). -/

namespace Sys2Proof.Machine

/-- The memory operand of R236, with lane i of B as the index. A literal base or index is read in the instruction's type (R28), n32 where it has none (log 26). -/
def Act.addr64 (act : Act) (t : Ty) (l : Word) (a b : Sel) (i shift : Nat) : Nat :=
  let base := act.pair t l a
  let idx : Int := (act.src t l b i).v.toInt
  ((base.toNat : Int) + idx * 2 ^ shift + l.toInt).emod (2 ^ 64) |>.toNat

/-- An access with a request slot (R235): the slot, the continuation, the count, and what is done with the origin. -/
def globIssue (s : State) (a : Nat) (act : Act) (d : Dst) (k : ReqKind) (f : State → Org → Option Cont → State) : WRes :=
  match s.takeSlot a act { kind := k, target := a, ctx := act.ctx } with
  | none => .bad 0x38
  | some (s1, act1, j) =>
    match act.cont d with
    | none => .bad 0x24
    | some c =>
      let n := s1.nextSeq a
      .go (f (n.1.countCont a act.ctx c) { act.org a n.2 with slot := some j, cont := c } c) act1

/-- The local destination of a load: its address, or its fault (R142, R237). -/
def localDest (s : State) (a : Nat) (act : Act) (t : Ty) (l : Word) (c : Sel) (las : Nat → List Nat) : Except Nat (Option Nat) :=
  if c = .z then .ok none
  else
    let x := (act.src .n32 l c 0).v.toNat
    if x % alignOf t ≠ 0 then .error 0x3C
    else match s.localCheck a act.ctx (las x) with
      | some f => .error f
      | none => .ok (some x)

/-- LDG (R237). -/
def execLdg (o : OpM) (s : State) : Out :=
  runWord s fun s a act =>
    let on := act.active o.ty o.pr o.pn
    let adr := act.addr64 o.ty o.lit o.a o.b 0 0
    let pcs (c : Nat) : List Piece := on.flatMap fun i => elemPieces o.ty adr c i 0
    if on.isEmpty then .go s act
    else if (s.elem a).inSection act.fh then .bad 0x5E
    else if adr % alignOf o.ty ≠ 0 then .bad 0x61
    else match localDest s a act o.ty o.lit o.c fun c => (pcs c).map fun p => p.la with
      | .error f => .bad f
      | .ok c =>
        globIssue s a act o.dst .global fun s org _ =>
          s.issue a { org := org, kind := .load c, aq := o.aq, rl := o.rl, scope := o.scope.toNat, pcs := pcs (c.getD 0) }

/-- STG (R238). -/
def execStg (o : OpM) (s : State) : Out :=
  runWord s fun s a act =>
    let rm := o.rm.toNat
    let on := act.active o.ty o.pr o.pn
    let adr := act.addr64 o.ty o.lit o.a o.b 0 0
    if on.isEmpty then .go (s.srAdvance a rm) act
    else if (s.elem a).inSection act.fh then .bad 0x5E
    else if adr % alignOf o.ty ≠ 0 then .bad 0x61
    else
      let st := storeLanes act o.ty rm (s.elem a).rng o.lit o.c on
      let act1 := act.raise st.2
      globIssue ((s.srAdvance a rm).fpxIf a act1 true) a act1 o.dst .global fun s org _ =>
        s.issue a { org := org, kind := .store, rl := o.rl, scope := o.scope.toNat, pcs := st.1.flatMap fun x => elemPieces o.ty adr 0 x.1 x.2 }

/-- An engine command leaves through the send queue at its SCOPE (R226, R239). -/
def engineIssue (s : State) (a : Nat) (act : Act) (o : OpM) (k : EngKind) : WRes :=
  globIssue s a act o.dst .engine fun s org _ =>
    s.queueMsg org (.engine { org := org, kind := k, aq := o.aq, rl := o.rl, scope := o.scope.toNat }) (some o.scope.toNat) false

/-- COPY (R240): the count, the alignments, then the local ranges. -/
def execCopy (o : OpM) (s : State) : Out :=
  runBarred o.pr o.pn s fun s a act =>
    let cv : Bool := o.n9.getLsbD 8
    let sl : Bool := o.n9.getLsbD 6
    let dl : Bool := o.n9.getLsbD 5
    let ts : Ty := if cv then Ty.ofCode (o.n9.setWidth 4) else .n8
    let rm := o.rm.toNat
    let n := (act.src .n32 o.lit o.c 0).v.toNat
    let pair (loc : Bool) (x : Sel) : DWord :=
      let p := act.pair o.ty o.lit x
      if loc then BitVec.ofNat 64 (p.toNat % 2 ^ 19) else p
    let dst := pair dl o.a
    let src := pair sl o.b
    let sb := ts.bits / 8
    let db := o.ty.bits / 8
    let range (loc : Bool) (x : DWord) (m : Nat) : Option Nat := if loc then s.rangeCheck a act.ctx x.toNat m else none
    if 2 ^ 28 < n * sb ∨ 2 ^ 28 < n * db then .bad 0x62
    else if (!dl && dst.toNat % db != 0) || (!sl && src.toNat % sb != 0) then .bad 0x61
    else if (dl && dst.toNat % db != 0) || (sl && src.toNat % sb != 0) then .bad 0x3C
    else match range dl dst (n * db), range sl src (n * sb) with
      | some c, _ => .bad c
      | _, some c => .bad c
      | none, none => engineIssue (s.srAdvance a rm) a act o (.copy dl sl cv ts o.ty rm dst src n (s.elem a).rng)

/-- GATH (R241). -/
def execGath (o : OpM) (s : State) : Out :=
  runWord s fun s a act =>
    let on := act.active o.ty o.pr o.pn
    let size := o.ty.bits / 8
    let adr (i : Nat) : Nat := act.addr64 o.ty o.lit o.a o.b i (o.n9.toNat % 8)
    let pcs (c : Nat) : List Piece := on.flatMap fun i => elemPieces o.ty (adr i) (c + i * size) 0 0
    if on.isEmpty then .go s act
    else if (s.elem a).inSection act.fh then .bad 0x5E
    else if on.any fun i => adr i % size != 0 then .bad 0x61
    else match localDest s a act o.ty o.lit o.c fun c => (pcs c).map fun p => p.la with
      | .error f => .bad f
      | .ok c => engineIssue s a act o (.gath c (pcs (c.getD 0)))

/-- SCAT (R241): all lanes are converted at issue. -/
def execScat (o : OpM) (s : State) : Out :=
  runWord s fun s a act =>
    let on := act.active o.ty o.pr o.pn
    let size := o.ty.bits / 8
    let rm := o.rm.toNat
    let adr (i : Nat) : Nat := act.addr64 o.ty o.lit o.a o.b i (o.n9.toNat % 8)
    if on.isEmpty then .go s act
    else if (s.elem a).inSection act.fh then .bad 0x5E
    else if on.any fun i => adr i % size != 0 then .bad 0x61
    else
      let st := storeLanes act o.ty rm (s.elem a).rng o.lit o.c on
      let act1 := act.raise st.2
      engineIssue ((s.srAdvance a rm).fpxIf a act1 true) a act1 o (.scat (st.1.map fun x => elemPieces o.ty (adr x.1) 0 0 x.2))

/-- PREF (R242): no request slot, no check at the issuer. -/
def execPref (o : OpM) (s : State) : Out :=
  runBarred o.pr o.pn s fun s a act =>
    let adr := act.addr64 o.ty o.lit o.a o.b 0 0
    let lines := o.n9.toNat % 32 + 1
    let n := s.nextSeq a
    .go (n.1.issue a { org := act.org a n.2, kind := .pref (o.n9.getLsbD 8), pcs := (List.range lines).map fun i => { va := (adr / 128 + i) * 128 } }) act

/-- CLEAN (R242). -/
def execClean (o : OpM) (s : State) : Out :=
  runBarred o.pr o.pn s fun s a act =>
    let adr := act.addr64 o.ty o.lit o.a o.b 0 0
    let len := (act.src .n32 o.lit o.c 0).v.toNat
    globIssue s a act o.dst .global fun s org _ => s.issue a { org := org, kind := .clean adr len }

/-- INVAL (R242): a request slot only when it names a completion. -/
def execInval (o : OpM) (s : State) : Out :=
  runBarred o.pr o.pn s fun s a act =>
    let adr := act.addr64 o.ty o.lit o.a o.b 0 0
    let len := (act.src .n32 o.lit o.c 0).v.toNat
    if o.dst.mode == 0 then
      let n := s.nextSeq a
      .go (n.1.issue a { org := act.org a n.2, kind := .inval adr len }) act
    else globIssue s a act o.dst .global fun s org _ => s.issue a { org := org, kind := .inval adr len }

end Sys2Proof.Machine
end

