-- ==== Sys2Proof/Machine/Sync.lean ====
section
/-! DEFINITION. Group 6 without the phasers: atomics (R243, R244), fences and bindings (R245, R246), ordered sections and ordering tokens (R231 to
R233, R247), futures (R248). -/

namespace Sys2Proof.Machine

-- Atomics ----------------------------------------------------------------------------------------------------------------

/-- The operand of an atomic: lane 0, or lane pair 1:0 for the 64-bit types (R243). -/
def Act.operand (act : Act) (t : Ty) (l : Word) (x : Sel) : DWord := if t.is64 then act.pair t l x else (act.src t l x 0).v.setWidth 64

/-- The bytes that a naturally aligned word takes. -/
def wordPieces (adr n : Nat) : List Piece := (List.range n).map fun k => { va := adr + k }

/-- AMO, FAMO and CAS (R243, R244). -/
def atomic (s : State) (o : OpS) (fetch : Bool) (cas : Act → Option DWord) (idx : Sel) : Out :=
  runBarred o.pr o.pn s fun s a act =>
    let adr := act.addr64 o.ty o.lit o.a idx 0 0
    let size := o.ty.bits / 8
    let tail : BitVec 2 := if o.ty == .f32 then (act.src o.ty o.lit o.c 0).tail else 0
    let op : AtomOp := { fn := o.fn.toNat, ty := o.ty, v := act.operand o.ty o.lit o.c, tail := tail, cas := cas act, fetch := fetch }
    if adr % size ≠ 0 then .bad 0x61
    else globIssue s a act o.dst .global fun s org _ =>
      s.issue a { org := org, kind := .atomic op, aq := o.aq, rl := o.rl, scope := o.scope.toNat, pcs := wordPieces adr size }

/-- AMO (R243, R244). -/
def execAmo (o : OpS) (s : State) : Out := atomic s o false (fun _ => none) o.b

/-- FAMO (R243, R244). -/
def execFamo (o : OpS) (s : State) : Out := atomic s o true (fun _ => none) o.b

/-- CAS (R244): A is the base, B the expected value; there is no index. -/
def execCas (o : OpS) (s : State) : Out := atomic s o true (fun act => some (act.operand o.ty o.lit o.b)) .z

-- Fences and bindings ----------------------------------------------------------------------------------------------------

/-- FENCE (R225, R245): without flags it is a full fence. -/
def execFence (o : OpS) (s : State) : Out :=
  runBarred o.pr o.pn s fun s a act =>
    let n := s.nextSeq a
    .go (n.1.issue a { org := act.org a n.2, kind := .fence, aq := o.aq || !o.rl, rl := o.rl || !o.aq, scope := o.scope.toNat }) act

/-- ACQ and REL name a phaser (R245). -/
def phaserMark (s : State) (o : OpS) (k : Word → AccKind) : Out :=
  runBarred o.pr o.pn s fun s a act =>
    let id : Word := BitVec.ofNat 32 ((act.src .n32 o.lit o.a 0).v.toNat % 2 ^ 26)
    if (s.phaserAt a act.ctx id.toNat).isNone then .bad 0x3A
    else
      let n := s.nextSeq a
      .go (n.1.issue a { org := act.org a n.2, kind := k id, scope := o.scope.toNat }) act

/-- ACQ (R225, R245). -/
def execAcq (o : OpS) (s : State) : Out := phaserMark s o .acq

/-- REL (R225, R245). -/
def execRel (o : OpS) (s : State) : Out := phaserMark s o .rel

/-- BIND and UNBND travel with the activation's phaser messages (R246). -/
def bindSend (s : State) (o : OpS) (undo : Bool) : Out :=
  runBarred o.pr o.pn s fun s a act =>
    let id := (act.src .n32 o.lit o.a 0).v.toNat % 2 ^ 26
    let base := act.pair o.ty o.lit o.b
    let len : DWord := (act.src .n32 o.lit o.c 0).v.setWidth 64
    if (s.phaserAt a act.ctx id).isNone then .bad 0x3A
    else if o.dst.mode == 0 then
      let n := s.nextSeq a
      let org := act.org a n.2
      .go (n.1.queueMsg org (.bind org id base len undo) none false) act
    else globIssue s a act o.dst .phaser fun s org _ => s.queueMsg org (.bind org id base len undo) none false

/-- BIND (R246). -/
def execBind (o : OpS) (s : State) : Out := bindSend s o false

/-- UNBND (R246). -/
def execUnbnd (o : OpS) (s : State) : Out := bindSend s o true

/-- The bind table's answer to a BIND (R222, R246): 0, BIND_ALIGN or BIND_FULL. -/
def bindCode (bs : List BindEnt) (ts num : Nat) (base len : Nat) : Nat :=
  let n := len / 128
  if base % 128 ≠ 0 ∨ len % 128 ≠ 0 ∨ n = 0 ∨ 1048575 < n ∨ 2 ^ 57 < base + len then 0x59
  else if 64 ≤ (bs.filter fun b => b.ts == ts).length || 8 ≤ (bs.filter fun b => b.ts == ts && b.phn == num).length then 0x58
  else 0

/-- The tenant slot of a partition at a cluster. -/
def State.tsOf (s : State) (c p : Nat) : Nat := if (nth (s.clus c).hedges 1 {}).v && (nth (s.clus c).hedges 1 {}).own == p then 1 else 0

/-- The answer to a binding message, when one is asked for (R246). -/
def State.bindReply (s : State) (c : Nat) (o : Org) (code : Nat) : State :=
  if o.slot.isSome then s.replyFrom (.clus c) o (BitVec.ofNat 64 code) else s

/-- BIND_APPLY (R222, R246). -/
def execBindApply (n : Nat) (s : State) : Out :=
  onMsg s n fun s x =>
    match x.msg, x.dst with
    | .bind o id base len false, .clus c =>
      let bs := (s.clus c).binds
      let ts := s.tsOf c x.own
      let code := bindCode bs ts (id % 256) base.toNat len.toNat
      if code = 0 then
        some (((s.modClus c fun y => { y with binds := bs ++ [⟨id % 256, ts, base.toNat / 128, len.toNat / 128⟩] }).bindReply c o 0).settle o.elem)
      else some (((s.errorOnly o code).bindReply c o code).settle o.elem)
    | _, _ => none

/-- The first entry that a test selects leaves the list. -/
def dropFirst {α : Type} (p : α → Bool) : List α → List α
  | [] => []
  | x :: xs => if p x then xs else x :: dropFirst p xs

/-- UNBND_APPLY (R222, R246): the entry of that phaser whose BASE and LEN match exactly. -/
def execUnbndApply (n : Nat) (s : State) : Out :=
  onMsg s n fun s x =>
    match x.msg, x.dst with
    | .bind o id base len true, .clus c =>
      let ts := s.tsOf c x.own
      let hit (b : BindEnt) : Bool := b.phn == id % 256 && b.ts == ts && 128 * b.base == base.toNat && 128 * b.len == len.toNat
      some (((s.modClus c fun y => { y with binds := dropFirst hit y.binds }).bindReply c o 0).settle o.elem)
    | _, _ => none

-- Ordered sections ----------------------------------------------------------------------------------------------------------

/-- The commit cursor of a section for an element's context (R231). -/
def State.cursorOf (s : State) (a k n : Nat) : Word :=
  match s.regionOf a k with
  | some (p, j) => (s.region p j).cursors.get 0 (16 * k + n)
  | none => 0

/-- OSEC (R231, R247): opens an instance in the frame, or opens again one that was squashed. -/
def execOsec (o : OpS) (s : State) : Out :=
  runWord s fun s a act =>
    let e := s.elem a
    let n := o.k8.toNat
    let key : Word := act.hdr.tag.setWidth 32
    let opened := match s.regionOf a act.ctx with | some (p, j) => s.openSects p j act.ctx n | none => []
    if e.inSection act.fh then .bad 0x5F
    else match e.sects.find? fun x => x.fh == act.fh && x.num == n && x.wait with
      | some x => .go (s.setElem a (e.setSect { x with wait := false, node := act.node, ins := act.ins, from_ := e.seqNext })) act
      | none =>
        if key < s.cursorOf a act.ctx n || opened.any fun x => x.key == key then .bad 0x60
        else .go (s.setElem a { e with sects := e.sects ++ [{ num := n, ctx := act.ctx, fh := act.fh, key := key, node := act.node, ins := act.ins, from_ := e.seqNext }] }) act

/-- OEND (R231, R247): the instance closes; it commits when its key equals the cursor. -/
def execOend (_ : OpS) (s : State) : Out :=
  runWord s fun s a act =>
    let e := s.elem a
    match e.sects.find? fun x => x.fh == act.fh && !x.closed && !x.wait with
    | none => .bad 0x5F
    | some x => .go (s.setElem a (e.setSect { x with closed := true })) act

/-- What the target of a buffered STC answers (R154). -/
def stcCode (s : State) (x : Sect) (r : Org × Nat × Nat × Nat) : Option Nat :=
  s.localCheck r.2.1 r.1.ctx (((x.buf.drop r.2.2.1).take r.2.2.2).map fun b => b.1 % 2 ^ 19)

/-- The buffered bytes of an instance that are performed: all but those of an STC that its target refuses (R154, R232). -/
def goodBytes (s : State) (x : Sect) : List (Nat × Byte × Byte) :=
  let bad := x.stcs.filter fun r => (stcCode s x r).isSome
  if bad.isEmpty then x.buf
  else (List.range x.buf.length).flatMap fun i => if bad.any fun r => r.2.2.1 ≤ i && i < r.2.2.1 + r.2.2.2 then [] else (x.buf.drop i).take 1

/-- Performs the buffered stores of an instance (R232). -/
def commitStores (s : State) (x : Sect) : State :=
  (goodBytes s x).foldl (fun s r => s.modElem (r.1 / 2 ^ 19) fun e => e.putData [{ va := 0, la := r.1 % 2 ^ 19, mask := r.2.1, val := r.2.2 }]) s

/-- The answers to the STCs of an instance, whose bytes have been performed or refused (R154, R187). -/
def commitReplies (s : State) (a : Nat) (x : Sect) (t : State) : State :=
  x.stcs.foldl (fun t r => match stcCode s x r with
    | some c => ((t.freeReq a r.1.slot).countRefused r.1).fault r.1 c
    | none => t.replyTo r.1 0 r.1.e) t

/-- A store of the instance reaches a bank that a signature marks (R232). -/
def sectHits (x : Sect) (g : BitVec 256) : Bool := x.reach &&& g != 0 || x.buf.any fun r => g.getLsbD ((r.1 / 2 ^ 19 * 12 + bankOf (r.1 % 2 ^ 19)) % 256)

/-- SECTION_COMMIT (R232): stores, held tokens, the cursor, the squash of younger instances that read a written bank, and the completions of its STCs. -/
def execSectionCommit (a k : Nat) (s : State) : Out :=
  let e := s.elem a
  match e.sects[k]? with
  | none => .next s
  | some x =>
    match s.regionOf a x.ctx with
    | none => .next s
    | some (p, j) =>
      let g := s.region p j
      if !x.closed || x.key ≠ g.cursors.get 0 (16 * x.ctx + x.num) || (e.memq.any fun y => y.org.fh == x.fh) || (s.part p).frozen then .next s
      else
        let s1 := commitStores s x
        let s2 := s1.modElem a fun e => { e with sects := dropAt e.sects k, sendq := e.sendq ++ x.hold }
        let s3 := s2.modRegion p j fun g => { g with cursors := g.cursors.put (16 * x.ctx + x.num) (x.key + 1) }
        let victims := (s3.regionElems p j).flatMap fun b => ((s3.elem b).sects.filter fun y =>
          y.num == x.num && y.ctx == x.ctx && decide (x.key < y.key) && !y.wait && sectHits x y.sig).map fun y => (b, y)
        .next (commitReplies s a x (victims.foldl (fun s v => s.squash v.1 v.2 false) s3))

/-- OTOK (R233, R247). -/
def execOtok (o : OpS) (s : State) : Out :=
  runWord s <| gated o.pr o.pn fun s a act =>
    match act.dstHandle o.dst.mode with
    | none => .bad 0x24
    | some h =>
      let n := s.nextSeq a
      let org := act.org a n.2
      let t : Token := { tag := act.hdr.tag, fill := act.hdr.fill, fh := h, node := o.dst.node.toNat, port := o.dst.port.toNat,
                         col := Nat.log2 act.width, e := act.e || act.xs }
      match (n.1.elem a).sects.find? fun x => x.fh == act.fh && !x.closed && !x.wait with
      | some x =>
        if t.fh == act.fh then .go ((n.1.modElem a fun e => e.count (s.ownOf a act.ctx) 3 1).injectToken org { t with sect := some n.2 } true) act
        else .go (n.1.modElem a fun e => e.setSect { x with hold := holdAt x.hold { org := org, msg := .tok t, scope := some o.scope.toNat, otok := true } }) act
      | none => .go (n.1.queueMsg org (.tok t) (some o.scope.toNat) true) act

-- Futures ---------------------------------------------------------------------------------------------------------------------

/-- FUTN, FRES and FREG: an 8-byte-aligned word, FUT_ALIGN otherwise (R228, R248). -/
def futureOp (s : State) (o : OpS) (f : Act → Option Cont → AccKind) (ack : Bool) : Out :=
  runBarred o.pr o.pn s fun s a act =>
    let adr := act.addr64 o.ty o.lit o.a o.b 0 0
    if adr % 8 ≠ 0 then .bad 0x5D
    else globIssue s a act o.dst .global fun s org k =>
      s.issue a { org := if ack then { org with cont := none } else org, kind := f act k, aq := o.aq, rl := o.rl, scope := o.scope.toNat,
                  pcs := wordPieces adr 8 }

/-- FUTN (R229, R248). -/
def execFutn (o : OpS) (s : State) : Out := futureOp s o (fun _ _ => .futn) false

/-- FRES (R229, R248). -/
def execFres (o : OpS) (s : State) : Out := futureOp s o (fun act _ => .fres (act.src .n32 o.lit o.c 0).v) false

/-- FREG (R229, R248): the acknowledgement frees the slot and delivers nothing. -/
def execFreg (o : OpS) (s : State) : Out := futureOp s o (fun _ k => .freg (k.getD ⟨0, 0, 0⟩)) true

end Sys2Proof.Machine
end

