-- ==== Sys2Proof/Machine/Wire.lean ====
section
/-! DEFINITION. Sending on the fabric (R335, R336, R339, R340): serial numbers, routes, messages, and what a partition's collective engine tells its partners
when the partition is reset (R349); bytes of a partition's memory over page boundaries. -/

namespace Sys2Proof.Machine

/-- How far a is behind b, modulo 4,096 (R336). -/
def serial (a b : BitVec 12) : Nat := (b - a).toNat

/-- Bytes of a message beside its header (R339). -/
def bodySize : RBody → Nat
  | .dispatch es => (es.map fun e => 32 + e.payload.length).sum
  | .outcome rs => 8 * rs.length
  | .coll _ _ _ _ _ _ _ _ xs => 16 + (34 * xs.length + 7) / 8
  | _ => 0

/-- Flits of a message: 120 bytes each (R335, R339). -/
def nflOf (b : RBody) : Nat := (16 + bodySize b + 119) / 120

/-- KIND of a message's header (R339). -/
def kindCode : RBody → Nat
  | .dispatch _ => 0
  | .outcome _ => 1
  | .coll _ _ _ _ _ _ _ _ _ => 2
  | .ack _ _ => 3
  | .fail _ _ => 4

/-- The 128 bits of a message's header (R339); its kind-specific bits hold what an acknowledgement or a FAIL names, else they are not laid out. -/
def msgHeader (m : RMsg) : Nat :=
  let own : Nat := match m.body with | .ack e id | .fail e id => e % 16 * 2 ^ 16 + id.toNat | _ => 0
  m.nfl % 2 ^ 16 * 2 ^ 112 + m.mid.toNat * 2 ^ 96 + kindCode m.body * 2 ^ 92 + m.seng % 16 * 2 ^ 88 + m.sslot % 128 * 2 ^ 81 + m.dslot % 128 * 2 ^ 74
    + m.smod % 4096 * 2 ^ 62 + m.dmod % 4096 * 2 ^ 50 + own

/-- What a message says, as numbers. -/
def msgNumbers : RBody → List Nat
  | .dispatch es => es.flatMap fun e => [e.hdr.toNat, e.ref.toNat, e.entry] ++ e.payload.map BitVec.toNat
  | .outcome rs => rs.flatMap fun r => [r.1, match r.2 with | some c => c.toNat | none => 256]
  | .coll g k kind ty n ph ch c xs => [g.toNat, k, kind, ty, n, ph, ch, c.toNat] ++ xs.flatMap fun x => [x.1.toNat, x.2.toNat]
  | .ack e id | .fail e id => [e, id.toNat]

/-- The 120 bytes of a DATA flit of a message (R335, R339): the first begins with the header; the layout of entries is open (log 107). -/
def msgPart (m : RMsg) (i : Nat) : Nat :=
  let rest (k : Nat) : List Byte := (List.range k).map fun j => Config.messageByte (msgHeader m :: msgNumbers m.body) i j
  leNat (if i = 0 then leBytes 16 (msgHeader m) ++ rest 104 else rest 120)

/-- TYPE of a flit (R335). -/
def flitType : RKind → Nat
  | .data _ _ => 0
  | .nak _ => 1
  | .void _ _ _ _ _ => 2
  | .idle => 3
  | .reserved t => 4 + t % 12

/-- PAYLOAD of a flit (R335). -/
def flitPayload : RKind → Nat
  | .data m i => msgPart m i
  | .nak q => q.toNat
  | .void q id _ _ _ => q.toNat + id.toNat * 2 ^ 12
  | _ => 0

/-- Bits [991:0] of a flit (R335). -/
def flitBody (f : RFlit) : Nat := f.seq.toNat * 2 ^ 980 + f.ack.toNat * 2 ^ 968 + flitType f.kind * 2 ^ 964 + flitPayload f.kind % 2 ^ 960

/-- The 1,024 bits of a flit as its sender forms them (R335): above the body stands its CRC-32C. -/
def rosBits (f : RFlit) : Nat := State.crc32c (flitBody f) 992 * 2 ^ 992 + flitBody f

/-- A receiver's judgement of 1,024 bits (R335): the CRC is that of the others, and TYPE is not reserved. -/
def bitsSound (x : Nat) : Bool := State.crc32c (x % 2 ^ 992) 992 == x / 2 ^ 992 && bitsOf x 964 4 < 4

/-- The flit that reaches a port is taken (R335): its bits, with what changed on the link, are judged. Bits that did not change have their CRC (`bitsSound_rosBits`), so that their TYPE
alone decides. Damage that the CRC does not show leaves the flit that was sent: DESIGN CHOICE (log 107). -/
def flitSound (f : RFlit) : Bool := if f.noise = 0 then flitType f.kind < 4 else bitsSound (rosBits f ^^^ f.noise % 2 ^ 1024)

/-- Acknowledgements and FAILs have no place in the MID order and are not acknowledged themselves. DEDUCED (log 24). -/
def isPlain : RBody → Bool
  | .ack _ _ | .fail _ _ => true
  | _ => false

namespace State

def port (s : State) (k : Nat) : Port := s.ports.get {} k

def modPort (s : State) (k : Nat) (f : Port → Port) : State := { s with ports := s.ports.put k (f (s.port k)) }

/-- The port by which traffic to a module leaves (R340). -/
def routeTo (s : State) (d : Nat) : Option Nat :=
  let e := (s.dev.routes.get 0 d).toNat
  let up (k : Nat) : Bool := (s.port k).state == 2
  if bitsOf e 15 1 = 0 then none
  else if up (bitsOf e 0 6) then some (bitsOf e 0 6)
  else if up (bitsOf e 6 6) then some (bitsOf e 6 6)
  else none

/-- Hands every flit of a message to its port, or applies it here when it is addressed to this module; false when there is no route (R340). -/
def handOver (s : State) (m : RMsg) : State × Bool :=
  if m.dmod = s.dev.modId then ({ s with rx := s.rx ++ [{ msg := m, failed := false }] }, true)
  else match s.routeTo m.dmod with
    | none => (s, false)
    | some k => (s.modPort k fun x => { x with todo := x.todo ++ (List.range m.nfl).map fun i => (m, i) }, true)

/-- A source engine sends a message (R339): false, and nothing sent, when no route exists. -/
def sendMsg (s : State) (die dmod sslot dslot : Nat) (b : RBody) : State × Bool :=
  let k := die + 16 * dmod
  let mid := s.mids.get 0 k
  let m : RMsg := { nfl := nflOf b, mid := if isPlain b then 0 else BitVec.ofNat 16 mid, seng := die, sslot := sslot, dslot := dslot, smod := s.dev.modId,
                    dmod := dmod, body := b }
  let r := s.handOver m
  if !r.2 || isPlain b then r
  else ({ r.1 with mids := r.1.mids.put k ((mid + 1) % 2 ^ 16), sent := r.1.sent ++ [{ die := die, msg := m }] }, true)

/-- The fields of a remote reference (R342): module, slot, window, offset. -/
def refMod (r : Nat) : Nat := bitsOf r 52 12
def refSlot (r : Nat) : Nat := bitsOf r 45 7
def refWin (r : Nat) : Nat := bitsOf r 41 4
def refOff (r : Nat) : Nat := bitsOf r 0 41

/-- The message that tells a partner the failure of a COLL (R349). -/
def collFail (gid : Word) (k code : Nat) : RBody := .coll gid k 0 0 0 0 0 (BitVec.ofNat 8 code) []

/-- Tells every other member of a COLL of its failure. -/
def collTell (s : State) (die : Nat) (r : CollRun) (code : Nat) : State :=
  (List.range r.members.length).foldl (fun s k =>
    if k = r.rank then s
    else
      let ref := nth r.members k 0
      (s.sendMsg die (refMod ref) r.slot (refSlot ref) (collFail r.gid r.seqNo code)).1) s

/-- A member is reset (R306, R349): its COLLs end, its partners' COLLs fail, and the collective messages to it that have not taken effect are answered with FAIL. -/
def collReset (s : State) (p : Nat) : State :=
  let runs := s.coll.rows.flatMap fun r => ((r.2.runs ++ r.2.starting.filterMap fun x => x.run).filter fun x => x.slot == p).map fun x => (r.1, x)
  let s1 := runs.foldl (fun s r => s.collTell r.1 r.2 0x69) s
  let early := s1.collEarly.filter fun m => m.dslot == p
  let s2 := early.foldl (fun s m => match m.body with
    | .coll gid k _ _ _ _ _ _ _ => (s.sendMsg m.seng m.smod p m.sslot (collFail gid k 0x69)).1
    | _ => s) s1
  { s2 with
    rx := s2.rx.map fun x => if x.msg.dslot == p && !x.eff && kindCode x.msg.body == 2 then { x with failed := true } else x
    coll := s2.coll.mapVals fun _ x => { x with runs := x.runs.filter fun r => r.slot != p
                                                starting := x.starting.filter fun r => r.slot != p }
    collEarly := s2.collEarly.filter fun m => m.dslot != p }

/-- The address at which an access of n bytes from va on, within one page, fails with a code (R356): a host range fails at its first failing byte. -/
def failAt (s : State) (p va n c : Nat) : Nat :=
  if c ≠ 0x54 then va else match s.xlate p va with | .ok l => s.badAt l va n | .error _ => va

/-- Writing bytes over page boundaries, all of them or none; a fault comes with its address. `fuel` bounds the pages. -/
def gwriteN (s : State) (p va : Nat) : Nat → List Byte → Except (Nat × Nat) State
  | 0, _ => .ok s
  | fuel + 1, bs =>
    if bs.isEmpty then .ok s
    else
      let k : Nat := 2 ^ 16 - va % 2 ^ 16
      match s.gwrite p va (bs.take k) with
      | .error c => .error (c, s.failAt p va (min bs.length k) c)
      | .ok s1 => gwriteN s1 p (va + k) fuel (bs.drop k)

/-- Pages that a range of n bytes can touch. -/
def pagesFor (n : Nat) : Nat := n / 2 ^ 16 + 2

/-- Reading n bytes of a partition's memory. -/
def gget (s : State) (p va n : Nat) : Except (Nat × Nat) (State × List Byte) := s.greadN p va (pagesFor n) n

/-- Writing bytes to a partition's memory. -/
def gput (s : State) (p va : Nat) (bs : List Byte) : Except (Nat × Nat) State := s.gwriteN p va (pagesFor bs.length) bs

end State

end Sys2Proof.Machine
end

