-- ==== Sys2Proof/Machine/Reset.lean ====
section
/-! DEFINITION. What the control complex keeps of a queue (R258, R259, R305, R356), the clearing of a slot's resources (R290 step 5, R291) and the
reset of a partition (R306). -/

namespace Sys2Proof.Machine

namespace State

-- Queues and their records ---------------------------------------------------------------------------------------------------

def queue (s : State) (f q : Nat) : Queue := (s.fn f).queues.get {} q

def modQueue (s : State) (f q : Nat) (g : Queue → Queue) : State :=
  s.modFn f fun x => { x with queues := x.queues.put q (g (x.queues.get {} q)) }

/-- The partition slot that a queue serves (R253, R260). -/
def queueSlot (s : State) (f q : Nat) : Nat := if f = 128 then (s.queue f q).tslot else f

/-- A queue record (R305). -/
def queueRec (code q : Nat) (index : Word) (detail : Nat) : Nat :=
  code % 256 * 2 ^ 120 + q % 16 * 2 ^ 116 + index.toNat * 2 ^ 32 + detail % 2 ^ 32

/-- The record of a faulting access of the command processor (R356, R214). -/
def cpRec (code va : Nat) : Nat := code % 256 * 2 ^ 120 + 3 * 2 ^ 115 + va % 2 ^ 57

/-- An access of the command processor to slot p's memory faults (R304, R356): MEM_UE sets its status bit, and the record goes to function f's ring. -/
def cpFault (s : State) (p f code va : Nat) : State := (s.memFault p code va).ringPush f (cpRec code va)

/-- The queue control block's 16 bytes (R259). -/
def qcbBytes (x : Queue) : List Byte := leBytes 16 (x.state % 8 * 2 ^ 72 + x.code % 256 * 2 ^ 64 + x.fence.toNat * 2 ^ 32 + x.read.toNat)

/-- Writes the queue control block (R259). -/
def qcbWrite (s : State) (f q : Nat) : Except Nat State := s.gwrite (s.queueSlot f q) (s.queue f q).qcb (qcbBytes (s.queue f q))

/-- Puts a queue into a state with a code and writes its control block; a write that faults halts the queue (R356). `event` raises the queue's
vector. -/
def queueTo (s : State) (f q st code : Nat) (event : Bool) : State :=
  let s1 := s.modQueue f q fun x => { x with state := st, code := code }
  match s1.qcbWrite f q with
  | .ok s2 => if event then s2.vecEvent f (s2.queue f q).vec else s2
  | .error c =>
    ((s1.cpFault (s1.queueSlot f q) f c (s1.queue f q).qcb).modQueue f q fun x => { x with state := 2, code := c }).vecEvent f (s1.queue f q).vec

/-- Writes a queue's control block as it stands (R259, R356). -/
def qcbPut (s : State) (f q : Nat) : State := s.queueTo f q (s.queue f q).state (s.queue f q).code false

/-- The queues that serve a slot: those of its VF and the PF's queues with that target (R253, R260). -/
def queuesOf (s : State) (p : Nat) : List (Nat × Nat) :=
  ((s.fn p).queues.rows.map fun r => (p, r.1)) ++ ((s.fn 128).queues.rows.filter fun r => r.2.tslot == p).map fun r => (128, r.1)

-- Clearing a slot (R290 step 5, R291) -------------------------------------------------------------------------------------------

/-- The clusters of a slot's rectangle. -/
def clustersOf (s : State) (p : Nat) : List Nat :=
  let x := s.part p
  (List.range x.h).flatMap fun j => (List.range x.w).map fun i => (x.y0 + j) * 48 + x.x0 + i

/-- A cluster lies in a slot's rectangle. -/
def inRect (s : State) (p c : Nat) : Bool :=
  let x := s.part p
  x.x0 ≤ c % 48 && c % 48 < x.x0 + x.w && x.y0 ≤ c / 48 && c / 48 < x.y0 + x.h

end State

/-- The context whose entry a late change concerns. -/
def Late.ctxOf (l : Late) : Option Nat := match l with | .mask k _ _ | .bypl k _ => some k | _ => none

/-- The last cycle in which an element was not idle (R163), where what it has ready or runs may go in this one. -/
def Elem.busyTill (e : Elem) (now : Nat) : Nat := if e.ready.isEmpty && e.seqs.all (fun q => q.isNone) then e.lastBusy else now

/-- An element without a sole tenant's resources. Its gate states, error log, counters and CSRs are no resources of R290 step 5. -/
def Elem.cleared (e : Elem) (now : Nat) : Elem :=
  { thirds := e.thirds, rng := e.rng, errlog := e.errlog, idleCycles := e.idleCycles, startCount := e.startCount, busRow := e.busRow,
    busCol := e.busCol, sysMode := e.sysMode, brkEn := e.brkEn, perf := e.perf, lastBusy := e.busyTill now, aidNext := e.aidNext,
    seqNext := e.seqNext, allocNext := e.allocNext, lastIssued := e.lastIssued, wordNext := e.wordNext, startNext := e.startNext,
    late := e.late.filter fun l => l.ctxOf.isNone, ecc := wroteFlips e.ecc fun _ => true }

/-- An element without one of two tenants' halves (R291): tenant slot ts of partition p, local bytes from lo to below hi. -/
def Elem.clearedHalf (e : Elem) (p ts lo hi now : Nat) : Elem :=
  let mine (k : Nat) : Bool := (k < 4) == (ts == 0)
  let mineFh (h : Word) : Bool := (hIdx h < 512) == (ts == 0)
  let other (k n : Nat) : Bool := (k < n) != (ts == 0)
  let gone (f : Flip) : Bool := match f.array with
    | 0 => lo ≤ 8 * f.at_ && 8 * f.at_ < hi
    | 1 => !other f.at_ 2048
    | 2 => !other f.at_ 512
    | _ => mine f.at_
  { e with
    mem := Memory.clear e.mem lo hi
    ecc := wroteFlips e.ecc gone
    lastBusy := e.busyTill now
    nodes := e.nodes.keep fun k _ => other k 2048
    ctxs := e.ctxs.keep fun k _ => !mine k
    handles := e.handles.keep fun k _ => other k 512
    lists := e.lists.keep fun k _ => !mine (k / 4)
    win := e.win.keep fun k _ => !mine (k / 4)
    reqs := e.reqs.mapIdx fun k r => if mine k then none else r
    seqs := e.seqs.mapIdx fun k q => if k = ts then none else q
    ready := e.ready.filter fun r => !mineFh r.fh
    idle := e.idle.filter fun h => !mineFh h
    sendq := e.sendq.filter fun i => !mine i.org.ctx
    memq := e.memq.filter fun y => !mine y.org.ctx
    sects := e.sects.filter fun x => !mine x.ctx
    wrote := e.wrote.filter fun x => !mine x.1
    late := e.late.filter fun l => match l.ctxOf with | some k => !mine k | none => true
    sent := e.sent.keep fun k _ => k / 8 != p
    recv := e.recv.keep fun k _ => k / 8 != p
    classes := e.classes.keep fun k _ => k / 16 != ts
    wbuf := match e.wbuf with | some h => if mineFh h then none else some h | none => none }

/-- A cluster without a sole tenant's resources; hedges and gate states stay. -/
def Cluster.cleared (x : Cluster) : Cluster := { hedges := x.hedges, ways := x.ways, arrNext := x.arrNext }

/-- A cluster without one of two tenants' resources (R291). -/
def Cluster.clearedHalf (x : Cluster) (p ts : Nat) : Cluster :=
  let mine (k : Nat) : Bool := (k < 4) == (ts == 0)
  let gone := (x.arrays.rows.filter fun r => r.2.own == p).flatMap fun r => r.2.members
  { x with
    rc := x.rc.filter fun l => l.ts != ts
    tlb := x.tlb.filter fun l => l.own != p
    binds := x.binds.filter fun b => b.ts != ts
    walkers := x.walkers.keep fun k _ => !mine k
    phasers := x.phasers.keep fun k _ => (k < 128) != (ts == 0)
    arrays := x.arrays.keep fun _ r => r.own != p
    arrMsgs := x.arrMsgs.filter fun m => !mine m.org.ctx
    noCfg := x.noCfg.filter fun i => !gone.contains i
    eng := x.eng.filter fun y => !mine y.org.ctx
    routes := x.routes.keep fun k _ => k / 16 != ts }

namespace State

/-- Clears every resource of a slot that R290 step 5 lists, with the work in flight that belongs to it. -/
def clearSlot (s : State) (p : Nat) : State :=
  let s1 : State := { s with
    elems := s.elems.mapVals fun a e =>
      if !s.inRect p (clusNo a) then e
      else if s.shared (clusNo a) then
        let ts := s.tsOf (clusNo a) p
        let r := s.share a (4 * ts)
        e.clearedHalf p ts r.1 r.2 s.cycle
      else e.cleared s.cycle
    clusters := s.clusters.mapVals fun c x =>
      if !s.inRect p c then x else if s.shared c then x.clearedHalf p (s.tsOf c p) else x.cleared
    quads := s.quads.mapVals fun _ l => l.filter fun x => x.own != p
    pools := s.pools.mapVals fun _ x => { x with reqs := x.reqs.filter (fun r => r.own != p), cache := x.cache.filter fun e => e.1 != p }
    net := s.net.filter fun f => f.own != p
    regions := s.regions.keep fun k _ => k / 8 != p
    disp := s.disp.mapVals fun _ x => { x with ents := x.ents.filter fun e => e.slot != p, held := x.held.filter fun h => x.ents.any fun e => e.id == h.1 && e.slot != p, flushes := x.flushes.filter fun f => f.slot != p,
                                               settled := x.settled.filter fun d => d.slot != p } }
  s1.modPart p fun x => { x with fqWait := [], fqr := x.fqw, frz := [] }

/-- A queue after a partition reset (R306 steps 4 and 5). -/
def queueReset (s : State) (f q : Nat) : State :=
  let x := s.queue f q
  if !x.en then s
  else if x.logOvf then
    ((s.modQueue f q fun x => { x with replay := [] }).setVue (if f = 128 then 128 else f) 4 0x85).ringPush f (queueRec 0x85 q x.read 0)
      |>.queueTo f q 3 0x85 true
  else (s.modQueue f q fun x => { x with replay := x.log, empty := false }).queueTo f q 4 x.code false

/-- The reset of a whole partition (R306). Its packets are gone; its queues replay. `o` names the cause for the 0x81 record. -/
def resetPart (s : State) (p : Nat) (o : Option Org) : State :=
  let rec0 : Nat := match o with
    | some o => s.faultRec { o with node := 0, word := 0, tag := 0, fh := 0 } 0x81
    | none => 0x81 * 2 ^ 120
  let s1 := ((s.ringPush p rec0).setVue p 0 0x81).collReset p |>.clearSlot p
  let dead := (s1.pkts.rows.filter fun r => r.2.slot == p).map fun r => r.1
  let s2 : State := { s1 with pkts := s1.pkts.keep fun _ x => x.slot != p
                              parents := s1.parents.filter fun r => !dead.contains r.2.2.2 }
  (s2.queuesOf p).foldl (fun s r => s.queueReset r.1 r.2) s2

/-- A fatal fault of a partition (R306) with its record in the slot's ring. -/
def fatal (s : State) (p : Nat) (o : Org) (code : Nat) : State := (s.errorOnly o code).resetPart p (some o)

-- Fatal device errors (R310) -------------------------------------------------------------------------------------------------------

/-- The content of a dump. -/
def dumpOf (s : State) (cause : Nat) : Dump :=
  { cause := cause, parts := s.parts, elems := s.elems, clusters := s.clusters, net := s.net, regions := s.regions, pkts := s.pkts, fns := s.fns, waiting := s.dev.waiting }

/-- Harvest (R310): every live slot is frosted, the dump is written to its place in LPDDR-6 and signed under a leaf of its own (R300), its cause is kept, and the device
serves HARVEST_READ alone. -/
def harvest (s : State) (cause : Nat) : State :=
  let s1 : State := { s with parts := s.parts.mapVals fun _ x => if x.life == .live then { x with life := .frosted, frozen := true, frozeAt := s.cycle } else x }
  let bytes := (Config.dumpBytes (s1.dumpOf cause) s.dev.leafNo).take dumpSize
  { s1 with phys := Memory.write s1.phys dumpBase bytes
            poison := s1.poison.filter fun w => !(dumpBase ≤ w && w + 8 ≤ dumpBase + bytes.length)
            dev := { s.dev with mode := .harvest cause s.dev.leafNo, leafNo := s.dev.leafNo + 1 } }

-- Uncorrectable errors in an element's storage (R37, R124, R132) --------------------------------------------------------------------

/-- The fatal faults of the storage errors that a turn met come about as it ends (R124, R132, R306). -/
def settleHurt (s : State) : State :=
  if s.hurt.isEmpty then s else s.hurt.foldl (fun s h => s.fatal (s.ownOf h.1.elem h.1.ctx) h.1 h.2) { s with hurt := [] }

/-- A read of words of an element's arrays: an uncorrectable error is fatal to the partition, under the given code. None when the reads
are clean or corrected. -/
def eccFatal (s : State) (a k : Nat) (o : Org) (reads : List (Nat × List Nat)) : State × Bool :=
  reads.foldl (fun st r =>
    if st.2 then st
    else
      let x := st.1.eccRead a k r.1 r.2
      if x.2 then (x.1.fatal (s.ownOf a k) o (eccCode r.1), true) else (x.1, false)) (s, false)

end State

end Sys2Proof.Machine
end

