-- ==== Sys2Proof/Machine/Mem.lean ====
section
/-! DEFINITION. Global accesses at home (R203 to R206, R218, R227, R236 to R244), translation caches (R211, R212), asynchronous faults
(R213 to R217), memory errors (R205, R308, R309), futures (R228 to R230), and the replies. -/

namespace Sys2Proof.Machine

namespace State

-- Translation caches (R211, R212) -------------------------------------------------------------------------------------------

/-- A leaf covers an address. -/
def covers (l : Leaf) (va : Nat) : Bool := l.va ≤ va && va < l.va + l.size

/-- The quadrant of a cluster: die × 4 + quadrant. -/
def quadNo (c : Nat) : Nat := dieOfClus c * 4 + quadOf c

/-- The I/O die whose walkers serve a cluster: north for the upper die rows, south for the lower (R211). -/
def poolNo (c : Nat) : Nat := dieOfClus c % 6 + (if dieOfClus c / 6 < 2 then 0 else 6)

/-- A hit in a TLB: the owner tag decides (R211). -/
def tlbHit (l : List TlbEnt) (p va : Nat) : Option Leaf := (l.find? fun x => x.own == p && covers x.leaf va).map fun x => x.leaf

/-- Fills a TLB of n entries; the oldest entry leaves. Replacement is not architected (R211): DESIGN CHOICE (log 13). -/
def tlbPut (l : List TlbEnt) (n : Nat) (x : TlbEnt) : List TlbEnt :=
  let k := l.filter fun y => !(y.own == x.own && y.leaf.va == x.leaf.va)
  (if n ≤ k.length then k.drop 1 else k) ++ [x]

def fillCluster (s : State) (c p : Nat) (l : Leaf) : State := s.modClus c fun x => { x with tlb := tlbPut x.tlb 256 ⟨p, s.tsOf c p, l⟩ }

def fillQuad (s : State) (c p : Nat) (l : Leaf) : State :=
  { s with quads := s.quads.put (quadNo c) (tlbPut (s.quads.get [] (quadNo c)) 4096 ⟨p, s.tsOf c p, l⟩) }

/-- The page that walks are coalesced by: va[56:16] (R212). -/
def pageOf (va : Nat) : Nat := va / 2 ^ 16

/-- A cluster's miss joins the pool's pending walk, or starts one (R212). -/
def askWalk (s : State) (c p va : Nat) : State :=
  let k := poolNo c
  let x := s.pools.get {} k
  let same (r : WalkReq) : Bool := r.own == p && r.page == pageOf va
  let reqs := if x.reqs.any same then x.reqs.map fun r => if same r && !r.clus.contains c then { r with clus := r.clus ++ [c] } else r
    else x.reqs ++ [{ own := p, page := pageOf va, clus := [c] }]
  { s with pools := s.pools.put k { x with reqs := reqs } }

/-- What an address needs: a translation that is held or hits the cluster TLB, nothing because it is out of range, or a miss. -/
inductive Look
  | leaf (l : Leaf)
  | range
  | miss

def look (s : State) (c p va : Nat) (xl : List Leaf) : Look :=
  match xl.find? fun l => covers l va with
  | some l => .leaf l
  | none =>
    if 2 ^ 57 ≤ va then .range
    else match tlbHit (s.clus c).tlb p va with
      | some l => .leaf l
      | none => .miss

/-- The translations of a list of addresses: all leaves, or the first address that lacks one. The spec gives the checks of several pages no order among the pages: they are judged in the order
of their addresses, so that a walk's fault at an earlier page comes before XLATE_RANGE at a later one. DESIGN CHOICE (log 119). -/
def lookAll (s : State) (c p : Nat) (xl : List Leaf) : List Nat → List Leaf × Option (Nat × Bool)
  | [] => (xl, none)
  | va :: vas => match s.look c p va xl with
    | .leaf l => lookAll s c p (if xl.any (fun y => covers y va) then xl else xl ++ [l]) vas
    | .range => (xl, some (va, true))
    | .miss => (xl, some (va, false))

/-- The first addresses, in an access's order, of the 64 KiB pages that it touches. -/
def pagesOf (vas : List Nat) : List Nat :=
  vas.foldl (fun l va => if l.any fun x => pageOf x == pageOf va && (x < 2 ^ 57) == (va < 2 ^ 57) then l else l ++ [va]) []

end State

/-- One address on each page of a byte range. -/
def rangePages (va len : Nat) : List Nat :=
  if len = 0 then [] else (List.range ((va + len - 1) / 2 ^ 16 - va / 2 ^ 16 + 1)).map fun k => if k = 0 then va else (va / 2 ^ 16 + k) * 2 ^ 16

/-- The addresses whose pages an access translates. -/
def Acc.needs (y : Acc) : List Nat :=
  match y.kind with
  | .clean va len => rangePages va len
  | _ => State.pagesOf (y.pcs.map fun p => p.va)

/-- An access that refuses an NW page (R210). -/
def AccKind.writes : AccKind → Bool
  | .store | .atomic _ | .futn | .fres _ | .freg _ => true
  | _ => false

/-- KIND of R214. -/
def AccKind.code : AccKind → Nat
  | .store => 1
  | .atomic _ | .futn | .fres _ | .freg _ => 2
  | _ => 0

/-- An access without the contributors that it took up (R227). -/
def Acc.own (y : Acc) : Acc := { y with joined := [], alone := none, kind := match y.alone with | some op => .atomic op | none => y.kind }

/-- A request flit of an access of element a (R202). -/
def Acc.sentBy (y : Acc) (a : Nat) (f : Flight) : Bool :=
  match f.msg with
  | .mreq o _ _ => f.src == .elem a && o.seq == y.org.seq
  | _ => false

namespace State

/-- The leaf of an address among obtained translations. -/
def leafOf (xl : List Leaf) (va : Nat) : Leaf := (xl.find? fun l => covers l va).getD ⟨0, 0, 0, 3, true, true⟩

/-- A page of an access that fails before anything is performed: NW for a write, a host range that fails (R210, R216, R236). -/
def pageFault (s : State) (y : Acc) (xl : List Leaf) : Option (Nat × Nat) :=
  y.pcs.findSome? fun p =>
    let l := leafOf xl p.va
    if y.kind.writes && l.nw then some (0x52, p.va)
    else if l.tier = 2 && s.hostFails (leafAddr l p.va) 1 then some (0x54, p.va)
    else none

/-- An access with its translations, or what is wrong with them (R208, R210, R236). `some none` is an access that must wait. -/
def translated (s : State) (a : Nat) (y : Acc) : Except (Option (Nat × Nat)) (List Leaf) :=
  let r := s.lookAll (clusNo a) (s.ownOf a y.org.ctx) y.xl y.needs
  match r.2 with
  | some (va, true) => .error (some (0x50, va))
  | some (_, false) => .error none
  | none => match s.pageFault y r.1 with
    | some f => .error (some f)
    | none => .ok r.1

/-- Stores an access back in its queue. -/
def putAcc (s : State) (a : Nat) (y : Acc) : State :=
  s.modElem a fun e => { e with memq := e.memq.map fun z => if z.org.seq == y.org.seq then y else z }

/-- The lines that an access has not performed, ascending in address (R236). -/
def nextLine (y : Acc) : Option Nat :=
  ((y.pcs.map fun p => p.va / 128).filter fun n => !y.done.contains n).foldl (fun b n => match b with
    | none => some n
    | some m => if n < m then some n else b) none

-- Requests and replies on the memory plane (R202) -----------------------------------------------------------------------------

/-- The request flit of an access that is under way: an access has at most one, for its next line. -/
def reqFlit (s : State) (a : Nat) (y : Acc) : Option Nat := s.net.findIdx? (y.sentBy a)

/-- The request flit of an access is no longer under way. -/
def dropReq (s : State) (a : Nat) (y : Acc) : State := { s with net := s.net.filter fun f => !y.sentBy a f }

/-- A request flit of an access has left its cluster: it has crossed its cluster's port (R293). -/
def hasLeft (s : State) (a : Nat) (y : Acc) : Bool := s.net.any fun f => y.sentBy a f && f.port < 2 ^ 21

/-- The slice at which an address of a leaf is at home; the host-link unit for the host's (log 113). -/
def homeOf (l : Leaf) (va : Nat) : Nat := if l.tier = 2 then 192 else homeSlice (leafAddr l va)

/-- An access gives the request for a line to the memory plane (R202). -/
def sendReq (s : State) (a : Nat) (y : Acc) (xl : List Leaf) (line : Nat) : State :=
  let va := ((y.pcs.find? fun q => q.va / 128 == line).getD { va := line * 128 }).va
  let l := leafOf xl va
  let k := homeOf l va
  (s.putAcc a { y with xl := xl }).postMem (.elem a) (.slice k) 4 (s.ownOf a y.org.ctx) (elemPort a (y.org.slot.getD 0)) (routeReq (clusNo a) k) (.mreq y.org line (leafAddr l va))

/-- A slice takes the request with number n of the list of flights next: it is there, no earlier one of its element is on the way to the slice (R199), and none of its line came before it
(R204). -/
def landed (s : State) (n : Nat) : Bool :=
  match s.net[n]? with
  | none => false
  | some f =>
    let lineOf (g : Flight) : Option Nat := match g.msg with | .mreq _ _ pa => some (pa / 128) | _ => none
    f.at_ == .here && !((s.net.take n).any fun g => g.src == f.src && g.dst == f.dst && g.vn == f.vn)
      && !(s.net.any fun g => g.at_ == .here && g.dst == f.dst && lineOf g == lineOf f && (g.since < f.since || (g.since == f.since && g.stamp < f.stamp)))

/-- The slice that a flight goes to. -/
def sliceAt (s : State) (n : Nat) : Option Nat :=
  match s.net[n]? with
  | some f => match f.dst with
    | .slice k => some k
    | _ => none
  | none => none

-- Asynchronous faults (R213 to R217) -----------------------------------------------------------------------------------------

/-- The record of R214. -/
def xlRec (s : State) (o : Org) (code kind va : Nat) : Nat :=
  code % 256 * 2 ^ 120 + o.ctx % 8 * 2 ^ 117 + kind % 4 * 2 ^ 115 + s.rel o.elem o.ctx % 2 ^ 18 * 2 ^ 97 + o.slot.getD 0 % 8 * 2 ^ 94
    + o.node % 4096 * 2 ^ 82 + o.word % 128 * 2 ^ 75 + va % 2 ^ 57

/-- The channel of a reply that arises in its own cluster: replies of different request slots keep no order there. -/
def replyVn (o : Org) : Nat := 8 + o.slot.getD 0

/-- The reply of an access: from a home slice it travels the memory plane (R202), else it is at its element. -/
def memReply (s : State) (o : Org) (m : Msg) (src : Option Nat := none) : State :=
  match src with
  | some k => s.postMem (.slice k) (.elem o.elem) 5 (s.ownOf o.elem o.ctx) (slicePort k) (routeRsp (clusNo o.elem) k) m
  | none => s.post (.elem o.elem) (.elem o.elem) (replyVn o) 0 (s.ownOf o.elem o.ctx) false m

/-- A poison token for an operation's continuation travels as its reply (R215). -/
def poisonReply (s : State) (o : Org) (k : Option Cont) (code : Nat) (src : Option Nat := none) : State :=
  s.memReply o (.reply o (k.map fun c => grantTok o c (BitVec.ofNat 64 (code % 256)) true)) src

/-- The fault record enters the slot's fault queue (R303). -/
def queueFault (s : State) (p : Nat) (rec : Nat) (w : FqWait) : State :=
  let x := s.part p
  let a := x.fqBase + 16 * (x.fqw.toNat % 2 ^ (x.fqSz + 4))
  let s1 : State := if s.hostFails a 16 then s else { s.dmaAdd p 16 with host := Memory.writeN s.host a 16 rec }
  let s2 := s1.modPart p fun x => { x with fqw := x.fqw + 1, fqWait := x.fqWait ++ [w] }
  if x.fqw = x.fqr then s2.sendMsix 128 (bitsOf s.dev.admin.vec.toNat 8 3) else s2

def fqFull (x : Part) : Bool := (x.fqw - x.fqr).toNat == 2 ^ (x.fqSz + 4)

/-- What a fault policy does with a fault code (R213): 0 waits, 1 poisons, 2 resets. -/
def policy (s : State) (o : Org) (code : Nat) : Nat :=
  let p := (s.ctx o.elem o.ctx).fpol
  if p = 0 && (code = 0x54 || code = 0x55 || fqFull (s.part (s.ownOf o.elem o.ctx))) then 1 else p

/-- The record of an asynchronous fault, in the error ring under any policy; MEM_UE sets its status bit (R213, R304). -/
def asyncRec (s : State) (o : Org) (code kind va : Nat) : State :=
  let s1 := s.ringPush (s.ringFn o.elem o.ctx) (s.xlRec o code kind va)
  if code = 0x55 then s1.setVue (s.ownOf o.elem o.ctx) 3 code else s1

/-- The continuation of an access: a FREG keeps its own in its kind (R248). -/
def contOfAcc (y : Acc) : Option Cont :=
  match y.kind with
  | .freg k => some k
  | _ => y.org.cont

/-- The contributors of a merged atomic that faults go their own ways again, and it goes on with its own operand (R206, R227). -/
def unjoin (s : State) (a : Nat) (y : Acc) : State :=
  (y.joined.foldl (fun s r => s.modElem r.1 fun e => { e with memq := e.memq.map fun z => if z.org.seq == r.2 then { z with out := false } else z }) s).modElem a
    fun e => { e with memq := e.memq.map fun z => if z.org.seq == y.org.seq then z.own else z }

/-- An asynchronous fault of an access of a memory queue (R213, R217); a prefetch is dropped silently (R242). `src` is the slice that found it, none where the cluster did. -/
def accFault (s : State) (a : Nat) (y : Acc) (code va : Nat) (src : Option Nat := none) : State :=
  let s := s.dropReq a y
  match y.kind with
  | .pref _ => (s.memqDrop a y.org.seq).settle a
  | _ =>
    let p := s.ownOf a y.org.ctx
    let s1 := (s.unjoin a y).asyncRec y.org code y.kind.code va
    match s.policy y.org code with
    | 0 =>
      (s1.queueFault p (s.xlRec y.org code y.kind.code va) ⟨a, y.org.seq, 0⟩).modElem a fun e =>
        { e with memq := e.memq.map fun z => if z.org.seq == y.org.seq then { y.own with wait := true, walk := false, done := [] } else z }
    | 2 => s1.resetPart p (some y.org)
    | _ => ((s1.memqDrop a y.org.seq).poisonReply y.org (contOfAcc y) code src).settle a

/-- An asynchronous fault of an engine's command (R239): under RETRY it pauses, under POISON it ends. -/
def engFault (s : State) (c : Nat) (y : EngCmd) (code va : Nat) : State :=
  let p := s.ownOf y.org.elem y.org.ctx
  let s1 := s.asyncRec y.org code 3 va
  let upd (f : EngCmd → EngCmd) (s : State) : State :=
    s.modClus c fun x => { x with eng := x.eng.map fun z => if z.org.elem == y.org.elem && z.org.seq == y.org.seq then f z else z }
  match s.policy y.org code with
  | 0 => upd (fun z => { z with wait := true, walk := false }) (s1.queueFault p (s.xlRec y.org code 3 va) ⟨y.org.elem, y.org.seq, 1⟩)
  | 2 => s1.resetPart p (some y.org)
  | _ => upd (fun z => { z with poison := some code, walk := false, finished := true }) s1

-- Reading at home (R205, R308, R309) -----------------------------------------------------------------------------------------------

/-- Reading n bytes of a leaf at home for slot p: the new state, and the bytes with whether all of them are sound, or the fault code when one of the
addresses in `need` cannot be read (R205, R216). Pages are retired after the read (R308). -/
def homeRead (s : State) (p : Nat) (l : Leaf) (va n : Nat) (need : List Nat) : State × Except Nat (List Byte × Bool) :=
  let a := leafAddr l va
  if l.tier = 2 then
    if need.any (fun v => s.hostFails (leafAddr l v) 1) then (s, .error 0x54)
    else (s.dmaAdd p n, .ok (Memory.read s.hostNow a n, !s.hostFails a n))
  else
    let r := s.homeTouch p a n false
    let res : Except Nat (List Byte × Bool) :=
      if need.any (fun v => r.1.poisoned (leafAddr l v) 1) then .error 0x55 else .ok (Memory.read r.1.phys a n, !r.1.poisoned a n)
    (retireAll r, res)

/-- Translations that a retirement between two states leaves valid (R308). -/
def keepXl (s s1 : State) (xl : List Leaf) : List Leaf := if s.dev.retired == s1.dev.retired then xl else []

/-- The leaf of an address after a retirement. -/
def leafAgain (s : State) (p va : Nat) (l : Leaf) : Leaf :=
  match s.xlate p va with
  | .ok l1 => l1
  | .error _ => l

-- The cluster read cache (R155) ------------------------------------------------------------------------------------------------------

def rcLine (s : State) (c ts line : Nat) : Option RcLine := (s.clus c).rc.find? fun l => l.ts == ts && l.line == line

/-- The stamp of a use in a set: above every other of the set. -/
def rcStamp (rc : List RcLine) (line : Nat) : Nat := rc.foldl (fun n l => if l.line % 256 == line % 256 then max n (l.used + 1) else n) 0

/-- A hit makes its line the one used last. -/
def rcUse (s : State) (c ts line : Nat) : State :=
  s.modClus c fun x => { x with rc := x.rc.map fun l => if l.ts == ts && l.line == line then { l with used := rcStamp x.rc line } else l }

/-- The place of a line among those of its set. The way that a line has is not architected: the model counts the set's lines in the order of their fills (log 13). -/
def rcPlace (s : State) (c ts line : Nat) : Option Nat := ((s.clus c).rc.filter fun l => l.line % 256 == line % 256).findIdx? fun l => l.ts == ts && l.line == line

/-- An injected error of a word of a read cache (R309): the word index is set × 256 + way × 16 + word (DESIGN CHOICE, log 117). -/
def rcFlip (c line way : Nat) (f : Flip) : Bool := f.array == 4 && f.at_ / 2 ^ 16 == c && f.at_ % 2 ^ 16 / 16 == line % 256 * 16 + way

/-- Words of a cached line are written: their injected errors are met (R309). -/
def rcWrote (s : State) (c ts line : Nat) (ws : List Nat) : State :=
  match s.rcPlace c ts line with
  | none => s
  | some w => { s with dev := { s.dev with inject := wroteFlips s.dev.inject fun f => rcFlip c line w f && ws.contains (f.at_ % 16) } }

/-- Puts a line into a read cache of 256 sets; of a full set the line used longest ago leaves. Replacement is pseudo-LRU (R155), of which exact LRU is the one
taken: DESIGN CHOICE (log 13). -/
def rcFill (s : State) (c ts line : Nat) (data : List Byte) (bad : List Nat) : State :=
  (s.modClus c fun x =>
    let rest := x.rc.filter fun l => !(l.ts == ts && l.line == line)
    let set := rest.filter fun l => l.line % 256 == line % 256
    let n := (waysOnList x.ways).length
    if n = 0 then { x with rc := rest }
    else
      let first : Nat := (set.map fun l => l.used).min?.getD 0
      let rest1 := if n ≤ set.length then rest.filter fun l => !(l.line % 256 == line % 256 && l.used == first) else rest
      { x with rc := rest1 ++ [⟨ts, line, data, bad, rcStamp rest line⟩] }).rcWrote c ts line (List.range 16)

/-- A store that hits a line updates it (R155); pieces lie in the line. A word that is overwritten whole is sound again. -/
def rcStore (s : State) (c ts : Nat) (line : Nat) (ps : List Piece) : State :=
  match s.rcLine c ts line with
  | none => s
  | some _ => (s.modClus c fun x => { x with rc := x.rc.map fun l =>
      if l.ts == ts && l.line == line then
        { l with data := ps.foldl (fun d p => setAt d (p.va % 128) (mixByte (nth d (p.va % 128) 0) p.val p.mask)) l.data
                 bad := l.bad.filter fun w => !((List.range 8).all fun k => ps.any fun p => p.va % 128 == 8 * w + k && p.mask == 0xFF)
                 used := rcStamp x.rc line }
      else l }).rcWrote c ts line (ps.map fun p => p.va % 128 / 8)

/-- Injected read-cache errors meet a hit (R155, R309): an uncorrectable one invalidates the line, and either is reported to the tenant's owner. The spec gives the record of
the event no layout. -/
def rcErrors (s : State) (c p ts line : Nat) : State :=
  match s.rcPlace c ts line with
  | none => s
  | some w =>
    let hits := rcFlip c line w
    let hit := s.dev.inject.filter hits
    if hit.isEmpty then s
    else
      let s1 : State := { s with dev := { s.dev with inject := readFlips s.dev.inject hits } }
      let s2 := hit.foldl (fun s _ => s.ringPush p (Config.openRecord (freeIdx c 4 line))) s1
      if hit.any fun f => f.ue then s2.rcDrop c ts fun l => l == line else s2

-- Performing accesses at home ------------------------------------------------------------------------------------------------------

/-- The poisoned words of a line that a leaf maps, which its fill brings along (R205); a host line has none. -/
def badWords (s : State) (l : Leaf) (line : Nat) : List Nat :=
  if l.tier = 2 then [] else (List.range 16).filter fun k => s.poisoned (leafAddr l (line * 128 + 8 * k)) 8

/-- Reads one line for a load from its cluster's read cache (R155, R237): nothing where it misses. -/
def cacheLine (s : State) (c p line : Nat) (need : List Nat) : State × Option (Except Nat (List Byte)) :=
  let ts := s.tsOf c p
  let s1 := s.rcErrors c p ts line
  match s1.rcLine c ts line with
  | some x => (s1.rcUse c ts line, some (if need.any fun v => x.bad.contains (v % 128 / 8) then .error 0x55 else .ok x.data))
  | none => (s1, none)

/-- Reads one line for a load at home (R237), filling the cluster's read cache unless the page is NC; a line of the host that fails in part does not fill. -/
def fetchLine (s : State) (c p : Nat) (l : Leaf) (line : Nat) (need : List Nat) (fill : Bool) : State × Except Nat (List Byte) :=
  let r := s.homeRead p l (line * 128) 128 need
  let keeps : Bool := fill && !l.nc && !(l.tier = 2 && r.1.hostFails (leafAddr l (line * 128)) 128)
  match r.2 with
  | .error e => (r.1, .error e)
  | .ok (d, _) => (if keeps then r.1.rcFill c (s.tsOf c p) line d (r.1.badWords l line) else r.1, .ok d)

/-- Reads one line for a command (R237, R239): from the read cache on a hit without AQ, else at home. -/
def loadLine (s : State) (c p : Nat) (l : Leaf) (line : Nat) (need : List Nat) (home fill : Bool) : State × Except Nat (List Byte) :=
  match (if home then (s, none) else s.cacheLine c p line need) with
  | (s1, some r) => (s1, r)
  | (s1, none) => s1.fetchLine c p l line need fill

/-- Pieces with the bytes of their line as values. -/
def fillPieces (line : Nat) (d : List Byte) (ps : List Piece) : List Piece :=
  ps.map fun p => if p.va / 128 == line then { p with val := nth d (p.va % 128) 0 } else p

/-- Writes the masked bytes of pieces of one line at home. -/
def storePieces (s : State) (p : Nat) (l : Leaf) (ps : List Piece) : State :=
  let put (s : State) (x : Piece) : State :=
    let old := Memory.get (if l.tier = 2 then s.hostNow else s.phys) (leafAddr l x.va)
    s.leafWrite l x.va [mixByte old x.val x.mask]
  if l.tier = 2 then ps.foldl put (s.dmaAdd p ps.length)
  else ((ps.map fun x => leafAddr l x.va / 8 * 8).eraseDups).foldl (fun s w => retireAll (s.homeTouch p w 8 true)) (ps.foldl put s)

/-- The host-link unit accepts a store's pieces of one line (R218): they count as moved, and are on their way. -/
def hostAccept (s : State) (o : Org) (p : Nat) (l : Leaf) (ps : List Piece) : State :=
  ps.foldl (fun s x =>
    let v := mixByte (Memory.get s.hostNow (leafAddr l x.va)) x.val x.mask
    { s with hostq := s.hostq ++ [⟨p, o.elem, o.aid, o.seq, leafAddr l x.va, [v]⟩] }) (s.dmaAdd p ps.length)

/-- Whole words overwritten by a store lose their poison (R205). -/
def healWords (s : State) (l : Leaf) (ps : List Piece) : State :=
  if l.tier = 2 then s
  else
    let full (a : Nat) : Bool := ps.any fun x => leafAddr l x.va == a && x.mask == 0xFF
    { s with poison := s.poison.filter fun w => !((List.range 8).all fun k => full (w / 8 * 8 + k)) }

/-- An atomic that may merge, with the physical address that it goes to (R206). -/
def mergeable (s : State) (a : Nat) (y : Acc) : Option (AtomOp × Nat) :=
  match y.kind with
  | .atomic op =>
    if op.fetch || op.cas.isSome || y.aq || y.rl || !(op.fn < 6) || (op.ty == .f32 && op.fn != 0) then none
    else match s.translated a y with
      | .ok xl => let va := (nth y.pcs 0 { va := 0 }).va; some (op, leafAddr (leafOf xl va) va)
      | .error _ => none
  | _ => none

/-- Two atomics merge where they meet (R206): one owner tag, address, operation, type and scope. -/
def alike (s : State) (a : Nat) (x : Acc) (b : Nat) (y : Acc) : Bool :=
  match s.mergeable a x, s.mergeable b y with
  | some (o, u), some (q, v) => u == v && o.fn == q.fn && o.ty == q.ty && x.scope == y.scope && s.ownOf a x.org.ctx == s.ownOf b y.org.ctx
  | _, _ => false

/-- An earlier atomic of the element behind which one like it may follow at once, since the two may meet and merge on their way, and keep their order where they do not (R199, R206). -/
def companion (s : State) (a : Nat) (y x : Acc) : Bool := x.org.seq < y.org.seq && (x.out || (s.reqFlit a x).isSome) && s.alike a x a y

/-- An access that is performed at home may go: it does not wait, it is ordered (R219, at system scope behind the host's completions, R218), and its partition is not
frozen, or it had left its cluster before (R293). -/
def accFree (s : State) (a : Nat) (y : Acc) : Bool :=
  !isMark y.kind && y.target.isNone && !y.wait && !y.out && accReady ((s.elem a).memq.filter fun x => !s.companion a y x) y
    && !(y.rl && y.scope = 4 && s.hostPending y.org) && (!(s.part (s.ownOf a y.org.ctx)).frozen || y.left)

/-- The home slices for which an access whose translations its cluster holds has still to give requests to the memory plane; none before it may leave. -/
def slicesOf (s : State) (a : Nat) (y : Acc) : List Nat :=
  let r := s.lookAll (clusNo a) (s.ownOf a y.org.ctx) y.xl y.needs
  let sent (line : Nat) : Bool := (s.reqFlit a y).isSome && nextLine y == some line
  if r.2.isSome then [] else ((y.pcs.filter fun q => !y.done.contains (q.va / 128) && !sent (q.va / 128)).map fun q => homeOf (leafOf r.1 q.va) q.va).eraseDups

/-- An earlier access of the element has still to give a request for a slice that this one goes to: requests of one element keep their order up to their slice (R199, R202). -/
def sliceAhead (s : State) (a : Nat) (y : Acc) : Bool :=
  let mine := s.slicesOf a y
  (s.elem a).memq.any fun x => x.org.seq < y.org.seq && s.accFree a x && (s.slicesOf a x).any fun k => mine.contains k

/-- An access may go on. -/
def accGo (s : State) (a : Nat) (y : Acc) : Bool := s.accFree a y && !s.sliceAhead a y

/-- An access is done: it leaves its queue, and what it held back moves. -/
def accDone (s : State) (a : Nat) (y : Acc) : State := (s.memqDrop a y.org.seq).settle a

end State

/-- The new value of an atomic (R243), with the exceptions of a float add; m is the value in memory. -/
def AtomOp.apply (op : AtomOp) (m : Nat) : Nat × Exc :=
  let n := op.ty.bits
  let v : Nat := op.v.toNat % 2 ^ n
  let sg (x : Nat) : Int := if op.ty.isSigned && 2 ^ (n - 1) ≤ x then (x : Int) - 2 ^ n else x
  match op.cas with
  | some e => (if m = e.toNat % 2 ^ n then v else m, Exc.none)
  | none =>
    if op.ty == .f32 && op.fn = 0 then
      let x : Lane := ⟨BitVec.ofNat 32 v, op.tail.getLsbD 1, op.tail.getLsbD 0⟩
      let r := vadd (extF (Lane.ofWord (BitVec.ofNat 32 m))) (extF x)
      let f := finalFlt r.1 r.1.neg .f32 0 false
      (f.1.stored .f32, r.2.or f.2)
    else
      match op.fn with
      | 0 => ((m + v) % 2 ^ n, Exc.none)
      | 1 => (if sg v < sg m then v else m, Exc.none)
      | 2 => (if sg m < sg v then v else m, Exc.none)
      | 3 => (m &&& v, Exc.none)
      | 4 => (m ||| v, Exc.none)
      | 5 => (m ^^^ v, Exc.none)
      | _ => (v, Exc.none)

/-- The write of a float sum is a final store (R65). -/
def AtomOp.final (op : AtomOp) : Bool := op.ty == .f32 && op.fn == 0 && op.cas.isNone

/-- op(winner, next) of a merge in a router (R206): integers wrap, a float sum is narrowed to f32 with its tail. What the sum raises in a router is dropped: R243 logs what
is raised at home (log 98). -/
def AtomOp.merge (x y : AtomOp) : AtomOp :=
  if x.ty == .f32 then
    let lane (o : AtomOp) : Lane := ⟨o.v.setWidth 32, o.tail.getLsbD 1, o.tail.getLsbD 0⟩
    let r := addF32 (lane x) (lane y)
    { x with v := r.1.v.setWidth 64, tail := r.1.tail }
  else { x with v := BitVec.ofNat 64 ({ y with cas := none }.apply (x.v.toNat % 2 ^ x.ty.bits)).1 }

namespace State

/-- Acknowledges an atomic from its slice, and drops the line from its cluster's read cache (R155, R244). With AQ it holds what follows until its acknowledgement is at its issuer. -/
def atomAck (s : State) (a : Nat) (y : Acc) (line : Nat) (payload : DWord) (src : Option Nat) : State :=
  let c := clusNo a
  let s1 := (s.rcDrop c (s.tsOf c (s.ownOf a y.org.ctx)) fun l => l == line).memReply y.org (.ack y.org payload) src
  if y.aq then s1.putAcc a { y with out := true } else s1.accDone a y

/-- An atomic at its home slice (R206, R227, R243, R244): applied once, every contributor acknowledged. R79 gives the FPX record of a float add the fields of its issuer, and R206 merges several into
one: the record is the winner's, and E OR XS of its own operand decides, the joined ones' do not count. DESIGN CHOICE (log 98). -/
def homeAtomic (s : State) (a : Nat) (y : Acc) (op : AtomOp) (xl : List Leaf) (src : Option Nat) : State :=
  let p := s.ownOf a y.org.ctx
  let va := (nth y.pcs 0 { va := 0 }).va
  let n := op.ty.bits / 8
  let l := leafOf xl va
  let r := s.homeRead p l va n [va]
  match r.2 with
  | .error c => r.1.accFault a y c va src
  | .ok (bs, _) =>
    let m := leNat bs
    let x := op.apply m
    let s1 := if x.1 = m then r.1 else r.1.homeWrite p (r.1.leafAgain p va l) va (leBytes n x.1)
    let s2 := if x.2.store || (op.final && y.org.e) then s1.fpx y.org else s1
    let s3 := s2.atomAck a y (va / 128) (BitVec.ofNat 64 (if op.fetch then m else 0)) src
    y.joined.foldl (fun s r => match (s.elem r.1).memq.find? fun z => z.org.seq == r.2 with
      | some z => s.atomAck r.1 z (va / 128) 0 src
      | none => s) s3

/-- The pieces of an access in one line. -/
def linePieces (y : Acc) (line : Nat) : List Piece := y.pcs.filter fun q => q.va / 128 == line

/-- A line of a load or prefetch is read, from slice `src` or its cluster's read cache: its bytes, or its fault (R217, R237, R242). `r` is the state after the read with what came of it; the
last line ends the access. -/
def lineRead (s : State) (a : Nat) (y : Acc) (xl : List Leaf) (line : Nat) (r : State × Except Nat (List Byte)) (src : Option Nat) : State :=
  match r.2 with
  | .error e => r.1.accFault a y e (nth (linePieces y line) 0 { va := 0 }).va src
  | .ok d =>
    let y1 : Acc := { y with done := line :: y.done, xl := s.keepXl r.1 xl, pcs := fillPieces line d y.pcs }
    if (nextLine y1).isSome then r.1.putAcc a y1
    else match y.kind with
      | .load _ => (r.1.memReply y.org (.globRep y.org y.kind y1.pcs) src).accDone a y1
      | _ => r.1.accDone a y1

/-- The next line of a load, prefetch or store at its home slice (R236 to R238, R242). -/
def homeLine (s : State) (a : Nat) (y : Acc) (xl : List Leaf) (line : Nat) (src : Option Nat) : State :=
  let c := clusNo a
  let p := s.ownOf a y.org.ctx
  let mine := linePieces y line
  let l := leafOf xl (nth mine 0 { va := line * 128 }).va
  match y.kind with
  | .store =>
    let s0 := if l.tier = 2 then s.hostAccept y.org p l mine else (s.storePieces p l mine).healWords l mine
    let s1 := s0.rcStore c (s.tsOf c p) line mine
    let y1 : Acc := { y with done := line :: y.done, xl := xl }
    if (nextLine y1).isNone && !(y.rl && y.scope = 4) then (s1.memReply y.org (.ack y.org 0) src).accDone a y1 else s1.putAcc a y1
  | _ =>
    let fill : Bool := match y.kind with | .pref h => !h | _ => true
    s.lineRead a y xl line (s.fetchLine c p l line (mine.map fun q => q.va) fill) src

/-- An access may take its next line from its cluster's read cache (R155, R237): a load without AQ, or a prefetch into that cache. -/
def usesCache (y : Acc) : Bool := match y.kind with | .load _ => !y.aq | .pref h => !h | _ => false

/-- An access's next line leaves for home, or is taken from its cluster's read cache. -/
def nextAccess (s : State) (a : Nat) (y : Acc) (xl : List Leaf) (line : Nat) : State :=
  if usesCache y then
    match s.cacheLine (clusNo a) (s.ownOf a y.org.ctx) line ((linePieces y line).map fun q => q.va) with
    | (s1, some r) => s.lineRead a y xl line (s1, r) none
    | (s1, none) => s1.sendReq a y xl line
  else s.sendReq a y xl line

/-- CLEAN (R242): the dirty home-cache lines of the range are written back. -/
def homeClean (s : State) (a : Nat) (y : Acc) (va len : Nat) (xl : List Leaf) : State :=
  let hit (line : Nat) : Bool := xl.any fun l => l.tier != 2 && l.pa / 128 ≤ line && line < (l.pa + l.size) / 128 &&
    (let v := l.va + (line * 128 - l.pa); v < va + len && va < v + 128)
  let back := if len = 0 then [] else s.slices.rows.flatMap fun r => r.2.lines.filter fun x => hit x.line
  let s0 := retireAll (back.foldl (fun st x => writeBack x st) (s, []))
  let s1 : State := if len = 0 then s else { s0 with slices := s0.slices.mapVals fun _ x => { x with lines := x.lines.map fun z => if hit z.line then { z with dirty := false } else z } }
  (s1.memReply y.org (.ack y.org 0)).accDone a y

/-- Future operations: HOME_ACCESS sends their requests, events of their own perform them. -/
def isFut : AccKind → Bool
  | .futn | .fres _ | .freg _ => true
  | _ => false

end State

/-- HOME_ACCESS (R202, R204, R205, R218, R236): access k of the element's memory queue goes on. Its request for its next line leaves on the memory plane, or the line is in its cluster's
read cache; at its home slice the request performs the line, or the whole operation of an atomic. A releasing store at system scope that is at home is complete once the host has completed it.
A CLEAN acts on all slices at once (log 113). A request whose translation was taken away under way is dropped, and goes again. -/
def execHomeAccess (elem k : Nat) (s : State) : Out :=
  match (s.elem elem).memq[k]? with
  | none => .next s
  | some y => match s.reqFlit elem y with
    | some n =>
      if !s.landed n || State.isFut y.kind then .next s
      else
        let src := s.sliceAt n
        let s1 := s.dropFlight n
        match s1.translated elem y with
        | .error none => .next s1
        | .error (some (c, va)) => .next (s1.accFault elem y c va src)
        | .ok xl => match y.kind with
          | .atomic op => .next (s1.homeAtomic elem y op xl src)
          | _ => match State.nextLine y with
            | some line => .next (s1.homeLine elem y xl line src)
            | none => .next s1
    | none =>
      if !s.accGo elem y then .next s
      else match s.translated elem y with
        | .error none => .next s
        | .error (some (c, va)) => .next (s.accFault elem y c va)
        | .ok xl => match y.kind with
          | .clean va len => .next (s.homeClean elem y va len xl)
          | _ => match State.nextLine y with
            | some line => if (s.part (s.ownOf elem y.org.ctx)).frozen then .next s else .next (s.nextAccess elem y xl line)
            | none =>
              if s.hostq.any fun w => w.elem == elem && w.seq == y.org.seq then .next s
              else if y.kind == .store then .next ((s.memReply y.org (.ack y.org 0) (some 192)).accDone elem y)
              else .next (s.accDone elem y)

/-- TLB_MISS (R208, R211, R212): the first page of access k without a translation is out of range, is found in the quadrant TLB, or goes to the pool. -/
def execTlbMiss (elem k : Nat) (s : State) : Out :=
  match (s.elem elem).memq[k]? with
  | none => .next s
  | some y =>
    if !s.accGo elem y || y.walk then .next s
    else
      let c := clusNo elem
      let p := s.ownOf elem y.org.ctx
      let r := s.lookAll c p y.xl y.needs
      match r.2 with
      | none => .next s
      | some (va, true) => .next (s.accFault elem y 0x50 va)
      | some (va, false) =>
        match State.tlbHit (s.quads.get [] (State.quadNo c)) p va with
        | some l => .next ((s.fillCluster c p l).putAcc elem { y with xl := r.1 ++ [l] })
        | none => .next ((s.askWalk c p va).putAcc elem { y with xl := r.1, walk := true })

-- Page walks (R210, R212, R213) ---------------------------------------------------------------------------------------------------------

namespace State

/-- The page that an access waits for. -/
def accPage (s : State) (a : Nat) (y : Acc) : Option Nat := (s.lookAll (clusNo a) (s.ownOf a y.org.ctx) y.xl y.needs).2.map fun r => pageOf r.1

/-- The elements of a COPY's next step: those up to the end of the source's 128-byte line and of the destination's. -/
def copySpan (left sa sb da db : Nat) : Nat := min left (min (max 1 ((128 - sa % 128) / sb)) (max 1 ((128 - da % 128) / db)))

/-- The addresses that an engine's command needs translated at its present place. -/
def engNeeds (y : EngCmd) : List Nat :=
  match y.kind with
  | .gath _ pcs => pagesOf (pcs.map fun p => p.va)
  | .scat lanes => pagesOf ((nth lanes y.at_ []).map fun p => p.va)
  | .copy dl sl cv ts ty _ dst src n _ =>
    let sb : Nat := if cv then ts.bits / 8 else 1
    let db : Nat := if cv then ty.bits / 8 else 1
    let sa := src.toNat + y.at_ * sb
    let m := copySpan (n - y.at_) sa sb (dst.toNat + y.at_ * db) db
    if n ≤ y.at_ then []
    else (if sl then [] else [sa]) ++ (if dl then [] else rangePages (dst.toNat + y.at_ * db) (m * db))

def engPage (s : State) (c : Nat) (y : EngCmd) : Option Nat :=
  (s.lookAll c (s.ownOf y.org.elem y.org.ctx) y.xl (engNeeds y)).2.map fun r => pageOf r.1

/-- Gives the result of a walk to every access and command of a cluster that joined it (R212): a leaf, or a fault. -/
def tellJoined (s : State) (p page : Nat) (res : Except Nat Leaf) (c : Nat) : State :=
  let s0 := match res with | .ok l => (s.fillQuad c p l).fillCluster c p l | .error _ => s
  let accs := s.elems.rows.flatMap fun r =>
    if clusNo r.1 == c then (r.2.memq.filter fun y => y.walk && s.ownOf r.1 y.org.ctx == p && s.accPage r.1 y == some page).map fun y => (r.1, y)
    else []
  let engs := (s.clus c).eng.filter fun y => y.walk && s.ownOf y.org.elem y.org.ctx == p && s.engPage c y == some page
  match res with
  | .ok l =>
    let s1 := accs.foldl (fun s r => s.putAcc r.1 { r.2 with walk := false, xl := r.2.xl ++ [l] }) s0
    let told (z : EngCmd) : EngCmd :=
      if engs.any fun y => y.org.elem == z.org.elem && y.org.seq == z.org.seq then { z with walk := false, xl := z.xl ++ [l] } else z
    s1.modClus c fun x => { x with eng := x.eng.map told }
  | .error code =>
    let at_ (vas : List Nat) : Nat := (vas.find? fun va => pageOf va == page).getD (page * 2 ^ 16)
    let s1 := accs.foldl (fun s r => s.accFault r.1 r.2 code (at_ r.2.needs)) s0
    engs.foldl (fun s y => s.engFault c y code (at_ (engNeeds y))) s1

/-- Accesses and commands of a cluster that wait for a walk which is no longer pending, since another walk brought their page, go on (R212). -/
def freeStale (s : State) (p c : Nat) : State :=
  let pending (pg : Option Nat) : Bool := match pg with
    | some pg => (s.pools.get {} (poolNo c)).reqs.any fun r => r.own == p && r.page == pg && r.clus.contains c
    | none => false
  let stale (a : Nat) (y : Acc) : Bool := y.walk && s.ownOf a y.org.ctx == p && !pending (s.accPage a y)
  let staleE (y : EngCmd) : Bool := y.walk && s.ownOf y.org.elem y.org.ctx == p && !pending (s.engPage c y)
  let s1 := s.modClus c fun x => { x with eng := x.eng.map fun y => if staleE y then { y with walk := false } else y }
  { s1 with elems := s1.elems.mapVals fun a e => if clusNo a == c then { e with memq := e.memq.map fun y => if stale a y then { y with walk := false } else y } else e }

/-- The partition that a free walker of a pool serves next (R212): round-robin after the one served last, among those with a waiting miss and below their quotas. -/
def nextOwner (s : State) (x : WalkPool) : Option Nat :=
  if 32 ≤ (x.reqs.filter fun r => r.on).length then none
  else ((List.range 128).map fun i => (x.last + 1 + i) % 128).find? fun p =>
    (x.reqs.any fun r => r.own == p && !r.on) && (x.reqs.filter fun r => r.own == p && r.on).length < (s.part p).quota

/-- A free walker takes the partition's earliest waiting miss. -/
def takeMiss (p : Nat) : List WalkReq → List WalkReq
  | [] => []
  | r :: rs => if r.own = p && !r.on then { r with on := true } :: rs else r :: takeMiss p rs

/-- The walkers of a pool take up misses while they can (R212); `fuel` counts the walkers. -/
def startWalks (s : State) : Nat → WalkPool → WalkPool
  | 0, x => x
  | fuel + 1, x => match s.nextOwner x with
    | none => x
    | some p => startWalks s fuel { x with reqs := takeMiss p x.reqs, last := p }

/-- A request of a pool that a walker has taken up. -/
def walkable (s : State) (x : WalkPool) (k : Nat) : Bool := match (s.startWalks 32 x).reqs[k]? with | some r => r.on | none => false

end State

/-- PAGE_WALK (R203, R209, R210, R212): a walker of a pool is done with request k; every joined requester receives the result, and its non-leaf entries enter the pool's cache. -/
def execPageWalk (pool k : Nat) (s : State) : Out :=
  let x := s.startWalks 32 (s.pools.get {} pool)
  match x.reqs[k]? with
  | none => .next s
  | some r =>
    if !r.on then .next s
    else
      let w := s.walkFor r.own (r.page * 2 ^ 16) x.cache
      let news := (w.1.nonLeaves r.own (r.page * 2 ^ 16)).filter fun e => !x.cache.contains e
      let s1 : State := { w.1 with pools := s.pools.put pool { x with reqs := dropAt x.reqs k, cache := (news ++ x.cache).take 256 } }
      .next (r.clus.foldl (fun s c => (s.tellJoined r.own r.page w.2 c).freeStale r.own c) s1)

-- Replies ----------------------------------------------------------------------------------------------------------------------------------

/-- The 8 bytes at a local address, as a reply carries them (R187, R237). -/
def State.eightAt (s : State) (a c : Nat) : DWord := BitVec.ofNat 64 (Memory.readN (s.elem a).mem c 8)

/-- A reply that brings a slot's poison or completion (R121, R215). -/
def State.replyKind (s : State) (o : Org) (ks : List ReqKind) : Bool :=
  match s.reqKind o with
  | some k => ks.contains k
  | none => false

/-- GLOBAL_REPLY (R137, R217, R237, R241): the bytes are written to the local store, then the reply token is delivered. -/
def execGlobalReply (n : Nat) (s : State) : Out :=
  onMsg s n fun s x =>
    match x.msg with
    | .globRep o (.load c) pcs =>
      match c with
      | none => some (s.replyTo o 0 o.e)
      | some c =>
        let s1 := s.modElem o.elem fun e => e.putData pcs
        some (s1.replyTo o (s1.eightAt o.elem c) o.e)
    | .reply o t => if s.replyKind o [.global, .engine] then some (s.takeReply o t) else none
    | _ => none

/-- ACCESS_ACK (R137, R235, R238, R244): the slot is freed and the completion token delivered. -/
def execAccessAck (n : Nat) (s : State) : Out :=
  onMsg s n fun s x =>
    match x.msg with
    | .ack o payload => some (((s.memqDrop o.elem o.seq).settle o.elem).replyTo o payload o.e)
    | .reply o t => if s.replyKind o [.global, .engine, .command] then some (s.takeReply o t) else none
    | _ => none

-- Cluster accesses (R154, R187) ---------------------------------------------------------------------------------------------------------------

/-- CLUSTER_ACCESS (R144, R154, R187): the access at its target, or its fault with the reply. -/
def execClusterAccess (n : Nat) (s : State) : Out :=
  onMsg s n fun s x =>
    match x.msg, x.dst with
    | .clusAcc o c, .elem d =>
      let back (s : State) (c : ClusAcc) (code : Nat) : Option State := some (s.post (.elem d) (.elem o.elem) 1 0 x.own true (.clusRep o c code))
      let las := c.pcs.map fun p => if c.write then p.la else p.va
      match s.localCheck d o.ctx las with
      | some f => back s c f
      | none =>
        let ecc := if c.write then (s, false) else s.eccFatal d o.ctx { o with elem := d } [(0, las.map fun a => a / 8)]
        if ecc.2 then some ecc.1
        else if c.write then back (s.modElem d fun e => e.putData c.pcs) c 0
        else
          let m := if o.elem = d then (s.elem d).mem else (s.elem d).farMem
          let m1 := match (s.elem o.elem).issuer o.elem o with | some y => sectView y d m las | none => m
          back ecc.1 { c with pcs := c.pcs.map fun p => { p with val := Memory.get m1 p.va } } 0
    | _, _ => none

/-- The token of an LDC that a section instance issued: to the instance's own frame at once, to another at its commit (R232). -/
def State.sectReply (s : State) (a : Nat) (o : Org) (payload : DWord) : State :=
  match (s.elem a).issuer a o, o.cont with
  | some x, some k =>
    if k.fh == x.fh then s.replyTo o payload o.e
    else (s.freeReq a o.slot).modElem a fun e => e.setSect { x with hold := holdAt x.hold { org := o, msg := .tok (grantTok o k payload o.e), paid := true } }
  | _, _ => s.replyTo o payload o.e

/-- CLUSTER_REPLY (R154, R187): the data of an LDC is written, to the buffer of the section instance that issued it where one has not committed (R232), and the token delivered; a
fault found at the target is raised here. -/
def execClusterReply (n : Nat) (s : State) : Out :=
  onMsg s n fun s x =>
    match x.msg, x.dst with
    | .clusRep o c code, .elem a =>
      let s1 := (s.memqDrop a o.seq).settle a
      if code ≠ 0 then some (((s1.freeReq a o.slot).countRefused o).fault o code)
      else if c.write then some (s1.replyTo o 0 o.e)
      else match (s1.elem a).sects.find? fun x => x.issued a o && !x.wait && !x.direct with
        | some x =>
          let y := bufStore x a c.pcs
          if 64 < bufEntries y then some (((s1.freeReq a o.slot).countRefused o).squash a x true)
          else
            let s2 := s1.setElem a ((s1.elem a).setSect y)
            let las := (List.range 8).map fun i => c.c + i
            some (s2.sectReply a o (BitVec.ofNat 64 (leNat (Memory.read (sectView y a (s2.elem a).mem las) c.c 8))))
        | none =>
          let s2 := s1.modElem a fun e => (e.putData c.pcs).markLoaded a o (c.pcs.map fun p => p.la)
          some (s2.sectReply a o (s2.eightAt a c.c))
    | .reply o t, .elem _ => if s.replyKind o [.cluster, .array, .walker, .phaser] then some (s.takeReply o t) else none
    | _, _ => none

-- Futures (R228 to R230, R248) ----------------------------------------------------------------------------------------------------------------

namespace State

/-- The record of a fault in the table of R229 (R251). -/
def futRec (s : State) (o : Org) (code va : Nat) : State := s.ringPush (s.ringFn o.elem o.ctx) (s.xlRec o code 2 va)

/-- The registered continuation as ARG (R228). -/
def futArg (k : Cont) : Nat := k.fh.toNat * 2 ^ 14 + k.node % 4096 * 4 + k.port % 4

def futCont (w : Nat) : Cont := ⟨BitVec.ofNat 32 (bitsOf w 14 32), bitsOf w 2 12, bitsOf w 0 2⟩

/-- A value sent to a registered continuation (R229): a token with the TAG and FILL of the continuation's frame. -/
def futSend (s : State) (o : Org) (k : Cont) (payload : DWord) (e acq : Bool) : State :=
  match s.absOf o.elem o.ctx (hElem k.fh) with
  | none => s
  | some d =>
    let x := s.elem d
    let t : Token := { payload := payload, fh := k.fh, node := k.node, port := k.port, e := e, acq := acq }
    let t1 : Token := match x.live k.fh with
      | some y => let h := x.readHdr y; { t with tag := h.tag, fill := h.fill }
      | none => t
    s.post .cp (.elem d) 2 0 (s.ownOf o.elem o.ctx) false (.tok t1)

/-- A future's word with its place. -/
structure FutAt where
  leaf : Leaf
  va : Nat
  word : Nat

/-- Applies a future operation whose request is at its home slice (R229): `f` gives the new word, the completion's code, and what else is done. -/
def futApply (s : State) (a k : Nat) (ok : AccKind → Bool) (f : State → Acc → FutAt → State × Nat × Nat) : Out :=
  match (s.elem a).memq[k]? with
  | none => .next s
  | some y => match s.reqFlit a y with
    | none => .next s
    | some n =>
      if !s.landed n || !ok y.kind then .next s
      else
        let src := s.sliceAt n
        let s0 := s.dropFlight n
        match s0.translated a y with
        | .error none => .next s0
        | .error (some (c, va)) => .next (s0.accFault a y c va src)
        | .ok xl =>
          let p := s.ownOf a y.org.ctx
          let va := (nth y.pcs 0 { va := 0 }).va
          let l := leafOf xl va
          let r := s0.homeRead p l va 8 [va]
          match r.2 with
          | .error c => .next (r.1.accFault a y c va src)
          | .ok (bs, _) =>
            let w := leNat bs
            let l1 := r.1.leafAgain p va l
            let x := f r.1 y ⟨l1, va, w⟩
            let s1 := if x.2.1 = w then x.1 else x.1.homeWrite p l1 va (leBytes 8 x.2.1)
            .next (s1.atomAck a y (va / 128) (BitVec.ofNat 64 x.2.2) src)

/-- Notes that an acquiring FREG registered a word, or takes the note back (R230). -/
def acqNote (s : State) (pa : Nat) (w : Option Nat) : State :=
  let k := homeSlice pa
  let x := s.slices.get {} k
  let rest := x.acq.filter fun q => q.1 != pa
  { s with slices := s.slices.put k { x with acq := match w with | some w => (pa, w) :: rest | none => rest } }

/-- The registered continuation asked for an acquire. -/
def acqNoted (s : State) (pa w : Nat) : Bool := (s.slices.get {} (homeSlice pa)).acq.any fun q => q.1 == pa && q.2 == w

end State

/-- FUTN_APPLY (R229). -/
def execFutnApply (elem k : Nat) (s : State) : Out :=
  State.futApply s elem k (fun q => q == .futn) fun s y x =>
    match bitsOf x.word 62 2 with
    | 0 => (s, x.word, 0)
    | 1 => (s.futRec y.org 0x5C x.va, x.word, 0x5C)
    | _ => (s, 0, 0)

/-- FRES_APPLY (R229). -/
def execFresApply (elem k : Nat) (s : State) : Out :=
  State.futApply s elem k (fun q => match q with | .fres _ => true | _ => false) fun s y x =>
    let v : Word := match y.kind with | .fres v => v | _ => 0
    let resolved : Nat := 2 * 2 ^ 62 + y.org.e.toNat * 2 ^ 61 + v.toNat
    match bitsOf x.word 62 2 with
    | 0 => (s, resolved, 0)
    | 1 =>
      let pa := State.leafAddr x.leaf x.va
      ((s.futSend y.org (State.futCont x.word) (v.setWidth 64) y.org.e (s.acqNoted pa x.word)).acqNote pa none, resolved, 0)
    | 2 => (s.futRec y.org 0x5A x.va, 3 * 2 ^ 62 + bitsOf x.word 61 1 * 2 ^ 61 + 0x5A * 2 ^ 32 + bitsOf x.word 0 32, 0x5A)
    | _ => (s.futRec y.org 0x5A x.va, x.word, 0x5A)

/-- FREG_APPLY (R229, R230). -/
def execFregApply (elem k : Nat) (s : State) : Out :=
  State.futApply s elem k (fun q => match q with | .freg _ => true | _ => false) fun s y x =>
    let c : Cont := match y.kind with | .freg c => c | _ => ⟨0, 0, 0⟩
    let w : Nat := 2 ^ 62 + State.futArg c
    match bitsOf x.word 62 2 with
    | 0 => (if y.aq then s.acqNote (State.leafAddr x.leaf x.va) (some w) else s, w, 0)
    | 1 => ((s.futRec y.org 0x5B x.va).futSend y.org c 0x5B true y.aq, x.word, 0)
    | 2 => (s.futSend y.org c (BitVec.ofNat 64 (bitsOf x.word 0 32)) (bitsOf x.word 61 1 == 1) y.aq, x.word, 0)
    | _ => (s.futSend y.org c (BitVec.ofNat 64 (bitsOf x.word 32 8)) true y.aq, x.word, 0)

end Sys2Proof.Machine
end

