-- ==== Sys2Proof/Machine/Engine.lean ====
section
/-! DEFINITION. The copy engine of a cluster (R226, R239 to R241). -/

namespace Sys2Proof.Machine

namespace State

/-- Changes the command of an engine that has the given origin. -/
def modEng (s : State) (c : Nat) (y : EngCmd) (f : EngCmd → EngCmd) : State :=
  s.modClus c fun x => { x with eng := x.eng.map fun z => if z.org.elem == y.org.elem && z.org.seq == y.org.seq then f z else z }

/-- A command may run (R239): it has started, or fewer than four run and every earlier command of its issuer has started. One that a fault pauses under RETRY has started and keeps its
place among the four. DESIGN CHOICE (log 120). -/
def engGo (s : State) (c k : Nat) (y : EngCmd) : Bool :=
  let q := (s.clus c).eng
  !y.finished && !y.wait && !y.walk && !(s.part (s.ownOf y.org.elem y.org.ctx)).frozen
    && (y.started || ((q.filter fun z => z.started && !z.finished).length < 4 && (q.take k).all fun z => z.org.elem != y.org.elem || z.started))

/-- An element of a COPY: source and destination element sizes in bytes. -/
def copySizes (cv : Bool) (ts ty : Ty) : Nat × Nat := if cv then (ts.bits / 8, ty.bits / 8) else (1, 1)

/-- A destination byte of a COPY lies in its source range as well (R240). -/
def overlaps (dl sl : Bool) (src len b : Nat) : Bool := dl == sl && src ≤ b && b < src + len

/-- Converts elements from `j` on (R240): their stored bytes, the exceptions, and the generator after the last (R67). -/
def copyConv (ts ty : Ty) (rm : Nat) (bytes : List Byte) (sb db : Nat) (j m : Nat) (rng : Word) : List Byte × Exc × Word :=
  (List.range m).foldl (fun st i =>
    let x := loadLane ts (leNat ((bytes.drop (i * sb)).take sb))
    let r := storeLane ts ty rm x (srDraw st.2.2 ((j + i) % 32))
    (st.1 ++ leBytes db r.1, st.2.1.or r.2, if (j + i) % 32 = 31 then rngNext st.2.2 else st.2.2)) ([], Exc.none, rng)

/-- Writes bytes of a COPY at its destination from address `at_`, the overlapping ones left out. -/
def copyWrite (s : State) (p a : Nat) (dl : Bool) (xl : List Leaf) (keep : Nat → Bool) (at_ : Nat) (bs : List Byte) : State :=
  (List.range bs.length).foldl (fun s i =>
    let b := at_ + i
    let v := nth bs i 0
    if !keep b then s
    else if dl then s.modElem a fun e => e.putData [{ va := 0, la := b, val := v }]
    else s.homeWrite p (leafOf xl b) b [v]) s

/-- The first address of a command's present step that a write or the host refuses. -/
def engRefused (s : State) (xl : List Leaf) (wr rd : List Nat) : Option (Nat × Nat) :=
  match wr.find? fun va => (leafOf xl va).nw with
  | some va => some (0x52, va)
  | none => ((rd ++ wr).find? fun va => let l := leafOf xl va; l.tier = 2 && s.hostFails (leafAddr l va) 1).map fun va => (0x54, va)

/-- Reads bytes of a global range at home or from the read cache (R226): the pieces of each page. -/
def engRead (s : State) (c p : Nat) (xl : List Leaf) (va n : Nat) (home : Bool) : State × Except (Nat × Nat) (List Byte) :=
  let ts := s.tsOf c p
  let line := va / 128
  let s1 := if home then s else s.rcErrors c p ts line
  match (if home then none else s1.rcLine c ts line) with
  | some x =>
    (match (List.range n).find? fun i => x.bad.contains ((va + i) % 128 / 8) with
     | some i => (s1.rcUse c ts line, .error (0x55, va + i))
     | none => (s1.rcUse c ts line, .ok ((x.data.drop (va % 128)).take n)))
  | none =>
    let r := s1.homeRead p (leafOf xl va) va n ((List.range n).map fun i => va + i)
    (r.1, match r.2 with | .ok (bs, _) => .ok bs | .error e => .error (e, va))

/-- A step of a COPY: the elements up to the end of the source's line and of the destination's (R240). -/
def copyStep (s : State) (c : Nat) (y : EngCmd) (xl : List Leaf) (dl sl cv : Bool) (ts ty : Ty) (rm : Nat) (dst src n : Nat) (rng : Word) : State :=
  let a := y.org.elem
  let p := s.ownOf a y.org.ctx
  let sz := copySizes cv ts ty
  let j := y.at_
  let sa := src + j * sz.1
  let da := dst + j * sz.2
  let m := copySpan (n - j) sa sz.1 da sz.2
  let wr := if dl then [] else (List.range (m * sz.2)).map fun i => da + i
  match s.engRefused xl wr (if sl then [] else (List.range (m * sz.1)).map fun i => sa + i) with
  | some (code, va) => s.engFault c y code va
  | none =>
    let ecc := if sl then s.eccFatal a y.org.ctx y.org [(0, (List.range (m * sz.1)).map fun i => (sa + i) / 8)] else (s, false)
    if ecc.2 then ecc.1
    else
      let r := if sl then (ecc.1, .ok (Memory.read (ecc.1.elem a).farMem sa (m * sz.1))) else ecc.1.engRead c p xl sa (m * sz.1) y.aq
      match r.2 with
      | .error (code, va) => r.1.engFault c y code va
      | .ok bs =>
        let x := if cv then copyConv ts ty rm bs sz.1 sz.2 j m rng else (bs, Exc.none, rng)
        let ok := s.keepXl r.1 xl
        let s1 := r.1.copyWrite p a dl (if ok.isEmpty then xl.map (fun l => r.1.leafAgain p l.va l) else xl)
          (fun b => !overlaps dl sl src (n * sz.1) b) da x.1
        s1.modEng c y fun z => { z with at_ := j + m, written := z.written + m * sz.2, exc := z.exc || x.2.1.store, xl := ok,
                                        kind := .copy dl sl cv ts ty rm (BitVec.ofNat 64 dst) (BitVec.ofNat 64 src) n x.2.2 }

/-- Destination bytes that a COPY has passed and that overlap its source hold values that the spec leaves open (R240). -/
def copyOpen (s : State) (y : EngCmd) (dl sl cv : Bool) (ts ty : Ty) (dst src n : Nat) : State :=
  let sz := copySizes cv ts ty
  let p := s.ownOf y.org.elem y.org.ctx
  let open_ := (List.range (y.at_ * sz.2)).filter fun i => overlaps dl sl src (n * sz.1) (dst + i)
  let leaf (va : Nat) : Leaf := s.leafAgain p va (leafOf y.xl va)
  let s1 := open_.foldl (fun s i =>
    let v := Config.freeByte (freeIdx s.free 3 i)
    if dl then s.modElem y.org.elem fun e => e.putData [{ va := 0, la := dst + i, val := v }] else s.homeWrite p (leaf (dst + i)) (dst + i) [v]) s
  { s1 with free := s1.free + (if open_.isEmpty then 0 else 1) }

/-- A line put into an ascending list of lines, each once. -/
def addLine (n : Nat) : List Nat → List Nat
  | [] => [n]
  | m :: l => if n < m then n :: m :: l else if n = m then m :: l else m :: addLine n l

/-- The lines of a GATH, ascending (R236, R241). -/
def gathLines (pcs : List Piece) : List Nat := pcs.foldl (fun l q => addLine (q.va / 128) l) []

/-- A GATH, once all its elements are translated, reads its next line (R236, R241). -/
def gathStep (s : State) (c : Nat) (y : EngCmd) (xl : List Leaf) (k : Option Nat) (pcs : List Piece) : State :=
  let p := s.ownOf y.org.elem y.org.ctx
  let lines := gathLines pcs
  let line := nth lines y.at_ 0
  let need := (pcs.filter fun q => q.va / 128 == line).map fun q => q.va
  match (if y.at_ = 0 then s.engRefused xl [] (pcs.map fun q => q.va) else s.engRefused xl [] need) with
  | some (code, va) => s.engFault c y code va
  | none =>
    let va := nth need 0 (line * 128)
    let r := s.loadLine c p (leafOf xl va) line need y.aq true
    match r.2 with
    | .error code => r.1.engFault c y code va
    | .ok d => r.1.modEng c y fun z => { z with kind := .gath k (fillPieces line d pcs), at_ := y.at_ + 1, xl := s.keepXl r.1 xl,
                                                finished := lines.length ≤ y.at_ + 1 }

/-- A SCAT writes its next lane (R241). -/
def scatStep (s : State) (c : Nat) (y : EngCmd) (xl : List Leaf) (lanes : List (List Piece)) : State :=
  let ps := nth lanes y.at_ []
  let p := s.ownOf y.org.elem y.org.ctx
  match s.engRefused xl (ps.map fun q => q.va) [] with
  | some (code, va) => s.engFault c y code va
  | none =>
    let s1 := ps.foldl (fun s q => s.storePieces p (leafOf xl q.va) [q]) s
    let s2 := match ps with | q :: _ => s1.healWords (leafOf xl q.va) ps | [] => s1
    s2.modEng c y fun z => { z with at_ := y.at_ + 1, xl := xl, finished := lanes.length ≤ y.at_ + 1 }

/-- A command's work in one step. -/
def engStep (s : State) (c : Nat) (y : EngCmd) (xl : List Leaf) : State :=
  match y.kind with
  | .copy dl sl cv ts ty rm dst src n rng =>
    if n ≤ y.at_ then (s.copyOpen y dl sl cv ts ty dst.toNat src.toNat n).modEng c y fun z => { z with finished := true }
    else s.copyStep c y xl dl sl cv ts ty rm dst.toNat src.toNat n rng
  | .gath k pcs => s.gathStep c y xl k pcs
  | .scat lanes => s.scatStep c y xl lanes

end State

/-- ENGINE_COMMAND (R239 to R241): command k of a cluster's engine starts, and does its next line or lane; a page without a translation is looked
up, as an access's is. -/
def execEngineCommand (cluster k : Nat) (s : State) : Out :=
  match (s.clus cluster).eng[k]? with
  | none => .next s
  | some y =>
    if !s.engGo cluster k y then .next s
    else
      let y1 : EngCmd := { y with started := true }
      let s1 := s.modEng cluster y fun _ => y1
      let p := s.ownOf y.org.elem y.org.ctx
      let r := s.lookAll cluster p y.xl (State.engNeeds y)
      match r.2 with
      | none => .next (s1.engStep cluster y1 r.1)
      | some (va, true) => .next (s1.engFault cluster y1 0x50 va)
      | some (va, false) =>
        match State.tlbHit (s.quads.get [] (State.quadNo cluster)) p va with
        | some l => .next ((s1.fillCluster cluster p l).modEng cluster y fun _ => { y1 with xl := r.1 ++ [l] })
        | none => .next ((s1.askWalk cluster p va).modEng cluster y fun _ => { y1 with xl := r.1, walk := true })

/-- The lines that a command wrote (R226). -/
def EngCmd.destLines (y : EngCmd) (line : Nat) : Bool :=
  match y.kind with
  | .copy dl _ cv ts ty _ dst _ n _ =>
    let len := n * (State.copySizes cv ts ty).2
    !dl && len != 0 && dst.toNat / 128 ≤ line && line ≤ (dst.toNat + len - 1) / 128
  | .gath _ _ => false
  | .scat lanes => lanes.any fun ps => ps.any fun q => q.va / 128 == line

/-- ENGINE_COMPLETION (R79, R226, R239 to R241): RL drops the written lines from the issuing cluster's read cache, and the completion, reply or poison
token leaves. -/
def execEngineCompletion (cluster k : Nat) (s : State) : Out :=
  match (s.clus cluster).eng[k]? with
  | none => .next s
  | some y =>
    let p := s.ownOf y.org.elem y.org.ctx
    if !y.finished || (s.part p).frozen then .next s
    else
      let s1 := s.modClus cluster fun x => { x with eng := dropAt x.eng k }
      let s2 := if y.rl then s1.rcDrop cluster (s1.tsOf cluster p) y.destLines else s1
      match y.poison with
      | some code =>
        let s3 := match y.kind with
          | .copy dl sl cv ts ty _ dst src n _ =>
            let s3 := s2.copyOpen y dl sl cv ts ty dst.toNat src.toNat n
            if cv && y.written != 0 && (y.org.e || y.exc) then s3.fpx y.org else s3
          | _ => s2
        .next (s3.poisonReply y.org y.org.cont code)
      | none =>
        match y.kind with
        | .copy _ _ cv _ _ _ _ _ n _ =>
          let o : Org := { y.org with e := y.org.e || y.exc }
          let s3 := if cv && n != 0 && o.e then s2.fpx o else s2
          .next (s3.memReply o (.ack o (BitVec.ofNat 64 (y.written % 2 ^ 32))))
        | .gath c pcs => .next (s2.memReply y.org (.globRep y.org (.load c) pcs))
        | .scat _ => .next (s2.memReply y.org (.ack y.org 0))

end Sys2Proof.Machine
end

