-- ==== Sys2Proof/Machine/Net.lean ====
section
/-! DEFINITION. Links and outputs (R194 to R202): what a router or endpoint does with a flit it receives, the arbitration of an output on the partition plane (R200) and on the memory plane
(R207), and the merge of atomics at an output of the memory plane (R206). -/

namespace Sys2Proof.Machine

/-- The router cluster that an output belongs to, or none for a gateway, with the die; the I/O dies count as dies 24 to 35. -/
def outAt (out : Nat) : Option Nat × Nat :=
  if out < 65536 then (some (out / 32), dieOfClus (out / 32))
  else if out < 2 ^ 20 then (none, (out - 65536) / 256)
  else match mKind out with
    | 0 => (some (mIdx out), dieOfClus (mIdx out))
    | 2 => (none, 24 + mIdx out / 2)
    | 4 => (none, dieOfClus (mIdx out))
    | 1 => (none, mIdx out / 2)
    | _ => (none, let d := mIdx out / 2; if mIdx out % 2 = 0 then (if d < 6 then 24 + d else d - 6) else if d < 18 then d + 6 else 30 + d % 6)

namespace State

/-- Where a flit on a link arrives: the router of its next output, or its destination. -/
def landing (x : Flight) : Option Nat × Nat :=
  match x.route, x.dst with
  | out :: _, _ => outAt out
  | [], .slice k => (none, 24 + ioOf k)
  | [], d => (some (placeClus d), dieOfClus (placeClus d))

/-- The live slots whose rectangle holds a router, or a part of a gateway's die. -/
def slotsAt (s : State) (pl : Option Nat × Nat) : List Nat :=
  (s.parts.rows.filter fun r => r.2.live && (match pl.1 with
    | some c => s.inRect r.1 c
    | none => (s.clustersOf r.1).any fun c => dieOfClus c == pl.2)).map fun r => r.1

/-- A hedge entry of a router, or of a die's transit crossbar, admits an owner tag (R289). -/
def admits (s : State) (pl : Option Nat × Nat) (own : Nat) : Bool :=
  (match pl.1 with
   | some c => (s.clus c).hedges
   | none => s.crossbars.get [] pl.2).any fun h => h.v && h.own == own

/-- The owner tag names a live partition (R289). -/
def liveTag (s : State) (own : Nat) : Bool := (s.part own).live

/-- A damaged flit (R201): logged in the PF's ring, fatal to every partition that holds the router. -/
def linkChk (s : State) (pl : Option Nat × Nat) : State :=
  (s.slotsAt pl).foldl (fun s p => s.resetPart p none) (s.ringPush 128 (0x56 * 2 ^ 120))

/-- The access that a request flit of the memory plane carries, with its element. -/
def carried (s : State) (x : Flight) : Option (Nat × Acc) :=
  match x.msg with
  | .mreq o _ _ => ((s.elem o.elem).memq.find? fun y => y.org.seq == o.seq).map fun y => (o.elem, y)
  | _ => none

/-- A request flit that was discarded is not sent again, since no link replays (R201): its access waits for an answer that does not come. -/
def lostReq (s : State) (x : Flight) : State :=
  match s.carried x with
  | some (a, y) => s.putAcc a { y with out := true }
  | none => s

/-- A flit that no hedge entry admits (R289): logged in the PF's ring; its partition is reset, or the device harvested. -/
def hedgeBreach (s : State) (own : Nat) : State :=
  let s1 := s.ringPush 128 (0x83 * 2 ^ 120)
  if s1.liveTag own then s1.resetPart own none else s1.harvest 0x83

end State

/-- FLIT_RECEIVE (R196, R201, R202, R289): flit n leaves its link; damage and, on the partition plane, a foreign owner discard it, else it is at its end or a candidate at the router. -/
def execFlitReceive (n : Nat) (s : State) : Out :=
  match s.net[n]? with
  | none => .next s
  | some x =>
    let first : Bool := s.net.all fun y => !(y.at_ == .link && y.port == x.port && y.vn == x.vn && y.stamp < x.stamp)
    if x.at_ != .link || !first then .next s
    else
      let pl := State.landing x
      if State.chkFails x then .next (((s.dropFlight n).lostReq x).linkChk pl)
      else if x.vn < 4 && !s.admits pl x.own then .next ((s.dropFlight n).hedgeBreach x.own)
      else .next { s with net := setAt s.net n { x with at_ := if x.route.isEmpty then .here else .cand, since := s.cycle, age := 0, sat := none } }

namespace State

/-- Priority of a candidate at an output (R200). A gateway has no route-class entries (R198): a token takes its class's PRIO there from the router of its source. DESIGN CHOICE
(log 115). -/
def prioAt (s : State) (out : Nat) (x : Flight) : Nat :=
  if x.vn = 0 ∨ x.vn = 4 then 3
  else if x.vn = 1 ∨ x.vn = 5 then 6
  else if x.vn = 2 then
    let c := match (outAt out).1 with | some c => c | none => placeClus x.src
    ((s.clus c).routes.get {} (16 * s.tsOf c x.own + x.cls)).prio
  else 7

/-- The virtual channel that a flit takes at an output (R197, R202). -/
def hopVc (x : Flight) (out : Nat) : Nat := if 2 ^ 20 ≤ out then memVc x.vn out else vcOf (placeClus x.src) (placeClus x.dst) out x.longs

/-- A flit of a frozen slot is held aside; a memory-plane request that has left its cluster runs on to home, and its reply to its cluster's port (R293). -/
def aside (s : State) (x : Flight) : Bool := (s.part x.own).frozen && !(x.vn == 5 || (x.vn == 4 && x.port < 2 ^ 21))

/-- A virtual channel of an output is free downstream: it holds no more flits than its buffer has room for beside (R197, R200; log 105). A request that its endpoint has not accepted holds its place
(R196). -/
def vcFree (s : State) (out vn vc : Nat) : Bool :=
  (s.net.filter fun y => y.port == out && y.vn == vn && y.vc == vc && (y.at_ != .here || vn == 0 || vn == 4) && !s.aside y).length < Config.vcDepth + 1

/-- Two request flits merge where they are candidates at one output (R206). -/
def flitsAlike (s : State) (x y : Flight) : Bool :=
  match s.carried x, s.carried y with
  | some (a, u), some (b, v) => s.alike a u b v
  | _, _ => false

/-- A flit is the head of its input port and virtual network (R200). An element gives its requests by several ports (log 113): none goes before an earlier one to the same home slice,
but the two atomics merge (R199, R206). -/
def isHead (s : State) (x : Flight) : Bool :=
  let waits (y : Flight) : Bool := y.at_ == .cand && !s.aside y
  waits x && s.net.all fun y => !(waits y && y.stamp < x.stamp && y.vn == x.vn &&
    (y.port == x.port || (x.vn == 4 && 2 ^ 22 ≤ x.port && y.src == x.src && y.dst == x.dst && !s.flitsAlike y x)))

/-- A flit is a candidate at an output: a head that routes to it and has a free virtual channel downstream (R200). -/
def isCand (s : State) (x : Flight) (out : Nat) : Bool := x.route.head? == some out && s.isHead x && s.vcFree out x.vn (hopVc x out)

/-- The candidates of an output (R200). -/
def candsOf (s : State) (out : Nat) : List (Nat × Flight) := (s.net.zipIdx.map fun r => (r.2, r.1)).filter fun r => s.isCand r.2 out

/-- Candidate x goes before candidate y (R200). The rule ends at the lower input port: of two virtual networks of one port the lower goes first. DESIGN CHOICE (log 115). -/
def beats (s : State) (out : Nat) (x y : Flight) : Bool :=
  let low : Bool := inPort x.port < inPort y.port || (inPort x.port == inPort y.port && x.vn < y.vn)
  match x.sat, y.sat with
  | some a, some b => a < b || (a == b && low)
  | some _, none => true
  | none, some _ => false
  | none, none =>
    let p := s.prioAt out x
    let q := s.prioAt out y
    q < p || (p == q && (y.age < x.age || (x.age == y.age && low)))

/-- The best n of a list of candidates, in order. -/
def bestOf (s : State) (out : Nat) : Nat → List (Nat × Flight) → List (Nat × Flight)
  | 0, _ => []
  | _, [] => []
  | n + 1, c :: cs =>
    let w := cs.foldl (fun b r => if s.beats out r.2 b.2 then r else b) c
    w :: bestOf s out n ((c :: cs).filter fun r => r.1 != w.1)

/-- The winners of an output in this cycle cross it, each within the room of its virtual channel (R200). -/
def arbitrate (s : State) (out : Nat) : State :=
  let ws := if s.egress.contains out then [] else s.bestOf out (outWidth out) (s.candsOf out)
  let win (k : Nat) : Option Nat := ws.findIdx? fun r => r.1 == k
  { s with
    egress := if ws.isEmpty then s.egress else out :: s.egress
    hops := s.hops + ws.length
    net := s.net.zipIdx.map fun r =>
      match win r.2 with
      | some i => { r.1 with at_ := .link, route := r.1.route.drop 1, port := out, vc := hopVc r.1 out, stamp := s.hops + i, age := 0, sat := none
                             longs := r.1.longs + (longHop (placeClus r.1.dst) out).toNat }
      | none => r.1 }

/-- A new cycle for the outputs: whoever was a candidate and did not win ages, n cycles' worth (R200). -/
def egressTick (s : State) (n : Nat) : State :=
  let older (x : Flight) : Flight :=
    let age := min 255 (x.age + n)
    { x with age := age, sat := if age = 255 && x.sat.isNone then some (s.cycle + (254 - x.age)) else x.sat }
  { s with egress := [], net := s.net.map fun x => match x.route.head? with
      | some out => if s.isCand x out then older x else x
      | none => x }

-- The memory plane (R202, R206, R207) ------------------------------------------------------------------------------------------------------------

/-- The next winner at an output of the memory plane, and the turn after it (R202, R207): a saturated candidate first, else the partition whose turn it is while its weight lasts, else the
next partition that has a candidate. -/
def nextBest (s : State) (out : Nat) (turn : Nat × Nat) (cs : List (Nat × Flight)) : Option ((Nat × Flight) × (Nat × Nat)) :=
  let best (l : List (Nat × Flight)) : Option (Nat × Flight) := (s.bestOf out 1 l).head?
  let of_ (p : Nat) : List (Nat × Flight) := cs.filter fun r => r.2.own == p
  match best (cs.filter fun r => r.2.sat.isSome) with
  | some w => some (w, turn)
  | none =>
    match (if turn.2 = 0 then none else best (of_ turn.1)) with
    | some w => some (w, (turn.1, turn.2 - 1))
    | none => ((List.range 128).map fun i => (turn.1 + 1 + i) % 128).findSome? fun p => (best (of_ p)).map fun w => (w, (p, (s.part p).weight - 1))

/-- Candidates in the order of their input ports. -/
def byPort : List (Nat × Flight) → List (Nat × Flight)
  | [] => []
  | c :: cs =>
    let l := byPort cs
    (l.takeWhile fun r => inPort r.2.port < inPort c.2.port) ++ [c] ++ l.dropWhile fun r => inPort r.2.port < inPort c.2.port

/-- The winners of an output of the memory plane in a cycle, each with the candidates that merge into it (R206), and the turn after them; `n` bounds the winners. -/
def memWinners (s : State) (out : Nat) : Nat → Nat × Nat → List (Nat × Flight) → List ((Nat × Flight) × List (Nat × Flight)) × (Nat × Nat)
  | 0, turn, _ => ([], turn)
  | n + 1, turn, cs => match s.nextBest out turn cs with
    | none => ([], turn)
    | some (w, t1) =>
      let rest := cs.filter fun r => r.1 != w.1
      let r := memWinners s out n t1 (rest.filter fun r => !s.flitsAlike w.2 r.2)
      ((w, byPort (rest.filter fun r => s.flitsAlike w.2 r.2)) :: r.1, r.2)

/-- The winner's atomic takes up those that merge into it, in their order (R206): they wait for the one acknowledgement, and one that had taken up others itself gives them on with its
own operand (R227). -/
def mergeInto (s : State) (w : Flight) (js : List Flight) : State :=
  match s.carried w with
  | none => s
  | some (a, y) => match y.kind with
    | .atomic op =>
      let ms := js.filterMap s.carried
      let sum := ms.foldl (fun o m => match m.2.kind with | .atomic q => o.merge q | _ => o) op
      let s1 := ms.foldl (fun s m => s.putAcc m.1 { m.2.own with out := true }) s
      s1.putAcc a { y with kind := .atomic sum, joined := y.joined ++ ms.flatMap fun m => (m.1, m.2.org.seq) :: m.2.joined, alone := some (y.alone.getD op) }
    | _ => s

/-- Winners cross an output of the memory plane, the atomics that meet there merged; `turn` is the turn after them. -/
def crossMem (s : State) (out : Nat) (ws : List ((Nat × Flight) × List (Nat × Flight))) (turn : Nat × Nat) : State :=
  let s1 := ws.foldl (fun s w => if w.2.isEmpty then s else s.mergeInto w.1.2 (w.2.map fun j => j.2)) s
  let gone := ws.flatMap fun w => w.2.map fun j => j.1
  { s1 with egress := out :: s.egress, hops := s.hops + ws.length, drr := s.drr.put out turn, net := s.net.zipIdx.filterMap fun f =>
      match ws.findIdx? fun w => w.1.1 == f.2 with
      | some i => some { f.1 with at_ := .link, route := f.1.route.drop 1, port := out, vc := hopVc f.1 out, stamp := s.hops + i, age := 0, sat := none }
      | none => if gone.contains f.2 then none else some f.1 }

/-- The winners of an output of the memory plane in a cycle cross it (R202, R206, R207). -/
def arbitrateMem (s : State) (out : Nat) : State :=
  let r := s.memWinners out (outWidth out) (s.drr.get (127, 0) out) (s.candsOf out)
  if s.egress.contains out || r.1.isEmpty then s else s.crossMem out r.1 r.2

end State

/-- EGRESS_ARBITRATION (R199, R200, R202, R206, R207). -/
def execEgressArbitration (out : Nat) (s : State) : Out := .next (if out < 2 ^ 20 then s.arbitrate out else s.arbitrateMem out)

end Sys2Proof.Machine
end

