-- ==== Sys2Proof/Machine/System.lean ====
section
/-! DEFINITION. Group 7 (R317 to R328): privilege, traps and breaks, time and metering, CSRs, records, the generator, counters, HALT and FRZR. -/

namespace Sys2Proof.Machine

/-- The activation runs with service privilege (R317). -/
def State.service (s : State) (a : Nat) (act : Act) : Bool := (s.ctx a act.ctx).service

/-- A group-7 word that writes a 64-bit value to D (R318). -/
def sysRead (s : State) (o : OpX) (f : State → Nat → Act → State × Nat) : Out :=
  runWord s <| gated o.pr o.pn fun s a act =>
    let r := f s a act
    .go r.1 (act.setTemp o.d (lanePair (BitVec.ofNat 64 r.2) false false))

/-- Lane pair 1:0 of A. -/
def Act.xA (act : Act) (o : OpX) : DWord := act.pair .n32 o.lit o.a

/-- NOP (R318). -/
def execNop (_ : OpX) (s : State) : Out := runWord s fun s _ act => .go s act

/-- TRAP (R319). -/
def execTrap (o : OpX) (s : State) : Out := runWord s <| gated o.pr o.pn fun _ _ _ => .bad 0x26

/-- The policy core is asked to frost a slot (R319, R328). -/
def State.askFrost (s : State) (p : Nat) : State :=
  if s.dev.frostAsk.contains p then s else { s with dev := { s.dev with frostAsk := s.dev.frostAsk ++ [p] } }

/-- BRK (R319): with BRK_EN the activation is held, the PF's ring gets the record, and the slot is frosted. -/
def execBrk (o : OpX) (s : State) : Out :=
  runWord s <| gated o.pr o.pn fun s a act =>
    if !(s.elem a).brkEn then .go s act
    else .go ((s.ringPush 128 (s.faultRec (act.org a 0) 0x27)).askFrost (s.ownOf a act.ctx)) { act with held := true }

/-- TIME (R320): guest time in nanoseconds. -/
def execTime (o : OpX) (s : State) : Out := sysRead s o fun s a act => (s, (s.part (s.ownOf a act.ctx)).guest / 7)

/-- RTIME (R320): run time in nanoseconds. -/
def execRtime (o : OpX) (s : State) : Out := sysRead s o fun s a act => (s, (s.part (s.ownOf a act.ctx)).run / 7)

/-- A meter counter of a slot, its fractions dropped, saturating (R298). -/
def Part.counter (x : Part) (k : Nat) : Nat :=
  let v : Nat := match k with
    | 0 => x.run / 7
    | 1 => x.w * x.h * 96 * x.run * x.shr / 21
    | 2 => x.energy
    | 3 => x.gddr / 7000000000
    | 4 => x.lpddr / 7000000000
    | 5 => x.dma
    | 6 => x.rosgen
    | _ => x.seqNo
  min v (2 ^ 64 - 1)

/-- The sensors bring the energy counter up to now by an amount that the spec leaves open (R298). -/
def State.sample (s : State) (p : Nat) : State :=
  { s.modPart p fun x => { x with energy := x.energy + Config.sensor s.free } with free := s.free + 1 }

/-- METR (R321). -/
def execMetr (o : OpX) (s : State) : Out :=
  sysRead s o fun s a act =>
    let p := s.ownOf a act.ctx
    let s1 := s.sample p
    (s1, (s1.part p).counter o.fn.toNat)

-- CSRs (R134, R153, R322, R323) -------------------------------------------------------------------------------------------------

/-- The state of a third as its two bits (R125). -/
def Third.code : Third → Nat
  | .on => 0
  | .off => 1
  | .waking _ => 2

/-- The low bits of an error-log entry as R132 lays it out. -/
def ErrLog.toNat (x : ErrLog) : Nat :=
  x.array % 4 * 2 ^ 62 + x.ue.toNat * 2 ^ 61 + x.ovf.toNat * 2 ^ 60 + x.ctx % 8 * 2 ^ 57 + x.syn % 256 * 2 ^ 49 + x.count % 256 * 2 ^ 41
    + x.addr % 2 ^ 16

/-- The value of a CSR for an activation (R134, R153, R322). -/
def State.csr (s : State) (a : Nat) (act : Act) (n : Nat) : Nat :=
  let e := s.elem a
  match n with
  | 0x100 => s.rel a act.ctx
  | 0x101 => (s.ctx a act.ctx).bypl
  | 0x102 => e.idleCycles.toNat
  | 0x103 => (nth e.thirds 0 .on).code + 4 * (nth e.thirds 1 .on).code + 16 * (nth e.thirds 2 .on).code
  | 0x104 => ((s.slotRange a act.ctx).filter fun j => (nth e.reqs j none).isNone).length
  | 0x105 => match s.horizonAt a act.ctx with | some h => h.toNat | none => 2 ^ 32
  | 0x106 => e.startCount
  | 0x107 => (e.handles.rows.filter fun r => r.2.v).length
  | 0x108 => match e.errlog with | x :: _ => x.toNat | [] => 0
  | 0x110 => e.busRow.toNat
  | 0x111 => e.busCol.toNat
  | 0x112 => e.sysMode.toNat
  | 0x120 => e.brkEn.toNat
  | _ => (s.service a act).toNat

/-- CSRR (R322, R323): a read of ERRLOG, open to service privilege alone, removes the entry it returns. -/
def execCsrr (o : OpX) (s : State) : Out :=
  runWord s <| gated o.pr o.pn fun s a act =>
    let n := o.csr.toNat
    if n = 0x108 && !s.service a act then .bad 0x28
    else
      let s1 := if n = 0x108 then s.modElem a fun e => { e with errlog := e.errlog.drop 1 } else s
      .go s1 (act.setTemp o.d (lanePair (BitVec.ofNat 64 (s.csr a act n)) false false))

/-- The element belongs to a configured array (R323). -/
def State.inArray (s : State) (a : Nat) : Bool := (s.arrayOf (clusNo a) (elemIdx a)).isSome

/-- CSRW (R322, R323): the new value stands from the next cycle on. -/
def execCsrw (o : OpX) (s : State) : Out :=
  runWord s <| gated o.pr o.pn fun s a act =>
    let n := o.csr.toNat
    let v := act.xA o
    let byte : Byte := v.setWidth 8
    let late (l : Late) : State := s.modElem a fun e => { e with late := e.late ++ [l] }
    let bus (l : Late) : WRes := if s.inArray a then .bad 0x48 else .go (if byte = 0xFF then s else late l) act
    match n with
    | 0x101 => .go (late (.bypl act.ctx (v.toNat % 16))) act
    | 0x102 => .go (late (.idleCycles (v.setWidth 16))) act
    | 0x110 => bus (.busRow byte)
    | 0x111 => bus (.busCol byte)
    | 0x120 => if s.service a act then .go (late (.brkEn (v.getLsbD 0))) act else .bad 0x28
    | _ => .bad 0x28

-- Records, events, the generator, counters (R324 to R326) -------------------------------------------------------------------------

/-- A record in fault-record layout with 64 bits of data in place of tag and handle (R324). -/
def State.dataRec (s : State) (o : Org) (code : Nat) (v : DWord) : Nat := s.faultRec { o with tag := 0, fh := 0 } code + v.toNat

/-- ERRI (R324). -/
def execErri (o : OpX) (s : State) : Out :=
  runWord s <| gated o.pr o.pn fun s a act =>
    .go (s.ringPush (s.ringFn a act.ctx) (s.dataRec (act.org a 0) 0x88 (act.xA o))) act

/-- RSEED (R325). -/
def execRseed (o : OpX) (s : State) : Out :=
  runWord s <| gated o.pr o.pn fun s a act =>
    let v : Word := (act.xA o).setWidth 32
    .go (s.modElem a fun e => { e with rng := if v = 0 then 1 else v }) act

/-- The cycles that a slot has run or stood since creation, its frozen time apart (R297, R326). -/
def State.cyclesOf (s : State) (p : Nat) : Nat := s.cycle - (s.part p).cycBase + (s.part p).cycAdd

/-- PERF 7 of an element is brought up to now by an amount that the spec leaves open (R326). -/
def State.stalled (s : State) (a p : Nat) : State := { s.modElem a fun e => e.count p 7 (Config.stalls s.free) with free := s.free + 1 }

/-- PERF (R326). -/
def execPerf (o : OpX) (s : State) : Out :=
  sysRead s o fun s a act =>
    let k := o.fn.toNat
    let p := s.ownOf a act.ctx
    let s := if k = 7 then s.stalled a p else s
    (s, if k = 0 then s.cyclesOf p % 2 ^ 64 else ((s.elem a).perfOf p k).toNat)

/-- SYSC (R324): leaves once the sequence's earlier stores and atomics are performed at system scope. -/
def execSysc (o : OpX) (s : State) : Out :=
  runWord s <| gated o.pr o.pn fun s a act =>
    let n := s.nextSeq a
    let org := act.org a n.2
    .go (n.1.queueMsg org (.sysc org o.fn.toNat (act.xA o)) (some 4) false) act

-- Ending and freezing (R327, R328) ---------------------------------------------------------------------------------------------------

/-- HALT (R327): the stack's ready entries go, its walkers are disarmed, and it completes once its region is quiet. -/
def State.haltStack (s : State) (p j : Nat) (x : StackRun) : State :=
  let es := s.regionElems p j
  let mine (e : Elem) (r : ReadyEntry) : Bool := match e.live r.fh with | some y => x.ctxs.contains (e.readHdr y).ctx | none => false
  let s1 := es.foldl (fun s a => s.modElem a fun e => { e with ready := e.ready.filter fun r => !mine e r
                                                               lastBusy := if e.ready.any (mine e) then s.cycle else e.lastBusy }) s
  let off (w : Walker) : Walker := if w.lr.region == j && x.ctxs.contains w.lr.ctx then { w with v := false, cursor := w.hi } else w
  let s2 : State := { s1 with clusters := s1.clusters.mapVals fun c y => if s.inRect p c then { y with walkers := y.walkers.mapVals fun _ w => off w } else y }
  s2.modRegion p j fun g => { g with run := some { x with halted := true, arm := [] } }

/-- HALT (R327). -/
def execHalt (o : OpX) (s : State) : Out :=
  runWord s <| gated o.pr o.pn fun s a act =>
    match s.regionOf a act.ctx with
    | none => .go s act
    | some (p, j) => match (s.region p j).run with
      | some x => if x.halted || !x.ctxs.contains act.ctx then .go s act else .go (s.haltStack p j x) act
      | none => .go s act

/-- FRZR (R328): its token, if it names one, comes once the slot is thawed. -/
def execFrzr (o : OpX) (s : State) : Out :=
  runWord s <| gated o.pr o.pn fun s a act =>
    let p := s.ownOf a act.ctx
    let ask (s : State) (org : Org) : State := (s.ringPush 128 (s.faultRec org 0x8A)).askFrost p
    if o.dst.mode == 0 then .go (ask s (act.org a 0)) act
    else match s.takeSlot a act { kind := .command, target := a, ctx := act.ctx } with
      | none => .bad 0x38
      | some (s1, act1, j) =>
        match act.cont o.dst with
        | none => .bad 0x24
        | some c =>
          let n := s1.nextSeq a
          let org : Org := { act.org a n.2 with slot := some j, cont := c }
          .go ((ask (n.1.countCont a act.ctx c) org).modPart p fun x => { x with frz := x.frz ++ [org] }) act1

end Sys2Proof.Machine
end

