-- ==== Sys2Proof/Machine/LaunchFab.lean ====
section
/-! DEFINITION. The group-5 words that read a record of the local store or reach the control complex and the engines of the I/O dies: WALK (R188), KICK, LNCH (R329, R330), DISP, DFLSH (R345, R348), COLL (R350)
and RSTAT (R352). -/

namespace Sys2Proof.Machine

/-- An operation that takes a request slot and names a continuation, its message left to `f` (R121, R279). -/
def commandIssue (s : State) (a : Nat) (act : Act) (d : Dst) (k : ReqKind) (f : State → Org → State) : WRes :=
  globIssue s a act d k fun s org _ => f s org

/-- KICK (R329). -/
def execKick (o : OpK) (s : State) : Out :=
  runBarred o.pr o.pn s fun s a act =>
    let w := (act.src .n32 o.lit o.a 0).v
    let n := s.nextSeq a
    let org := act.org a n.2
    .go (n.1.queueMsg org (.kick org (s.ringFn a act.ctx) (o.ops.toNat % 16) w) (some 4) false) act

/-- WALK (R188). -/
def execWalk (o : OpK) (s : State) : Out :=
  runBarred o.pr o.pn s fun s a act =>
    let adr := (act.src .n32 o.lit o.a 0).v.toNat
    if adr % 64 ≠ 0 then .bad 0x3C
    else match s.rangeCheck a act.ctx adr 64 with
      | some c => .bad c
      | none =>
        let ecc := s.eccFatal a act.ctx (act.org a 0) [(0, wordsAt adr 64)]
        if ecc.2 then .go ecc.1 act
        else
          let s := ecc.1
          let x := Memory.readN (s.elem a).mem adr 64
          let region := match s.regionOf a act.ctx with | some (_, j) => j | none => 8
          match recordFault x (fun k => k == act.ctx) region (s.head a act.ctx) (s.ctx a act.ctx) with
          | some _ => .bad 0x45
          | none =>
            walkerIssue s a act o.dst .walker fun s org =>
              let c := clusNo a
              let r := LaunchRec.ofNat x
              match s.freeUnit c act.ctx with
              | none => s.replyFrom (.clus c) org 2
              | some u =>
                let s1 := s.armUnit c u r 0 r.space (elemIdx a)
                let s2 := match s1.regionOf a act.ctx with
                  | some (p, j) => s1.addRecord p j r
                  | none => s1
                s2.replyFrom (.clus c) org (BitVec.ofNat 64 (u * 256))

/-- LNCH (R330): length, alignment and range, then the packet's bytes leave. -/
def execLnch (o : OpK) (s : State) : Out :=
  runBarred o.pr o.pn s fun s a act =>
    let adr := (act.src .n32 o.lit o.a 0).v.toNat
    let index := (act.src .n32 o.lit o.b 0).v
    let x := (Memory.get (s.elem a).mem adr).toNat
    let n := 64 * (1 + x)
    let byte := s.eccFatal a act.ctx (act.org a 0) [(0, [adr / 8])]
    if byte.2 then .go byte.1 act
    else if 3 < x then .bad 0x2B
    else if adr % 64 ≠ 0 then .bad 0x3C
    else match s.rangeCheck a act.ctx adr n with
      | some c => .bad c
      | none =>
        let ecc := s.eccFatal a act.ctx (act.org a 0) [(0, wordsAt adr n)]
        if ecc.2 then .go ecc.1 act
        else
          let m := (s.elem a).mem
          let pkts := (List.range (1 + x)).map fun i => Memory.read m (adr + 64 * i) 64
          commandIssue ecc.1 a act o.dst .command fun s org =>
            s.queueMsg org (.lnch org (o.ops.toNat % 16) index.toNat pkts) none false

/-- DISP (R344, R345). -/
def execDisp (o : OpK) (s : State) : Out :=
  runBarred o.pr o.pn s fun s a act =>
    let h (i : Nat) : Nat := (act.src .n32 o.lit o.a i).v.toNat
    let ptr := (act.pair .n32 o.lit o.b).toNat
    let table := (act.pair .n32 o.lit o.c).toNat
    if ptr % 16 ≠ 0 ∨ table % 64 ≠ 0 then .bad 0x61
    else
      let n := s.nextSeq a
      let org := act.org a n.2
      let c : DispCmd := { hdr := h 0 + h 1 * 2 ^ 32 + h 2 * 2 ^ 64, ptr := ptr, table := table, aq := o.ops.getLsbD 13 }
      let sc := bitsOf o.ops.toNat 9 3
      .go (n.1.queueMsg org (.disp org c sc) (some sc) false) act

/-- DFLSH (R348). -/
def execDflsh (o : OpK) (s : State) : Out :=
  runWord s <| gated o.pr o.pn fun s a act =>
    commandIssue s a act o.dst .command fun s org =>
      s.queueMsg org (.dflsh org (bitsOf o.ops.toNat 0 6) (o.ops.getLsbD 6)) (some 3) false

/-- Alignment of an element type in global memory. -/
def collAlign (t : Ty) : Nat := t.bits / 8

/-- COLL (R350). -/
def execColl (o : OpK) (s : State) : Out :=
  runBarred o.pr o.pn s fun s a act =>
    let ops := o.ops.toNat
    let ty := Ty.ofCode (BitVec.ofNat 4 (bitsOf ops 0 4))
    let c : CollCmd :=
      { kind := bitsOf ops 4 2, ty := ty, rm := bitsOf ops 6 3, aq := o.ops.getLsbD 13, rl := o.ops.getLsbD 12,
        desc := (act.pair .n32 o.lit o.a).toNat, src := (act.pair .n32 o.lit o.b).toNat, dst := (act.pair .n32 o.lit o.c).toNat, n := o.lit.toNat }
    let sc := bitsOf ops 9 3
    if c.desc % 64 ≠ 0 ∨ c.src % collAlign ty ≠ 0 ∨ c.dst % collAlign ty ≠ 0 then .bad 0x61
    else commandIssue s a act o.dst .command fun s org => s.queueMsg org (.coll org c sc) (some sc) false

/-- The I/O die whose engines serve an element: of its column, north or south (R211, "Dispatch"). -/
def dieFor (a : Nat) : Nat := State.poolNo (clusNo a)

/-- The answer of RSTAT (R352). -/
def State.fabricStatus (s : State) (die p kind k : Nat) : Nat :=
  if kind = 0 then
    let x := s.coll.get {} die
    ((x.runs.filter fun r => r.slot == p).length + (x.starting.filter fun r => r.slot == p).length) % 2 ^ 16 + x.completed.get 0 p % 2 ^ 16 * 2 ^ 16
  else if kind = 1 then
    let es := (s.disp.get {} die).ents.filter fun e => e.slot == p
    (es.filter fun e => e.list == k && !e.sent).length % 2 ^ 32 + (es.filter fun e => e.first == k && e.sc).length % 2 ^ 16 * 2 ^ 32
  else
    let x := s.ports.get {} k
    x.state % 4 + x.peer % 2 ^ 12 * 2 ^ 4 + x.window.length % 2 ^ 11 * 2 ^ 16 + x.replays % 2 ^ 16 * 2 ^ 32 + x.voids % 2 ^ 16 * 2 ^ 48

/-- RSTAT (R352). -/
def execRstat (o : OpK) (s : State) : Out :=
  runWord s <| gated o.pr o.pn fun s a act =>
    let kind := bitsOf o.ops.toNat 0 2
    let k := bitsOf o.ops.toNat 2 6
    if kind = 2 && !s.service a act then .bad 0x28
    else commandIssue s a act o.dst .command fun s org =>
      s.replyFrom (.disp (dieFor a)) org (BitVec.ofNat 64 (s.fabricStatus (dieFor a) (s.ownOf a act.ctx) kind k))

end Sys2Proof.Machine
end

