-- ==== Sys2Proof/Machine/Fabric.lean ====
section
/-! DEFINITION. Rosgen ports and messages (R335 to R340), export windows (R342), and the dispatch engines (R343 to R348, R354). -/

namespace Sys2Proof.Machine

namespace State

-- Dispatch entries reach their ends (R346, R348) ---------------------------------------------------------------------------------------------

def dispEng (s : State) (die : Nat) : DispEng := s.disp.get {} die

def modDisp (s : State) (die : Nat) (f : DispEng → DispEng) : State := { s with disp := s.disp.put die (f (s.dispEng die)) }

/-- The payload and E of a DFLSH's completion token (R348). -/
def flushPay (c : List Nat) : Nat := (List.range 4).foldl (fun n k => n + nth c k 0 % 2 ^ 16 * 2 ^ (16 * k)) 0

/-- Completes the DFLSHs of an engine that have no entry left (R348). -/
def flushDone (s : State) (die : Nat) : State :=
  let x := s.dispEng die
  let fin (f : Flush) : Bool := !(x.ents.any fun e => e.flush == some f.id)
  let s1 := s.modDisp die fun x => { x with flushes := x.flushes.filter fun f => !fin f }
  (x.flushes.filter fin).foldl (fun s f =>
    s.replyFrom (.disp die) { f.org with e := f.org.e || nth f.counts 3 0 != 0 } (BitVec.ofNat 64 (flushPay f.counts))) s1

def bump (l : List Nat) (k : Nat) : List Nat := setAt l k (nth l k 0 + 1)

/-- An entry has its final outcome: 0 or 1 for delivered at its first or second choice, 2 overflowed, 3 lost (R348). -/
def settleEnt (s : State) (die : Nat) (e : DispEnt) (kind : Nat) : State :=
  s.modDisp die fun x =>
    let x1 := { x with ents := x.ents.filter fun y => y.id != e.id }
    match e.flush with
    | some f => { x1 with flushes := x1.flushes.map fun y => if y.id == f then { y with counts := bump y.counts kind } else y }
    | none => { x1 with settled := x1.settled ++ [⟨e.slot, if e.sc then [e.first, e.list] else [e.first], kind⟩] }

/-- A lost entry writes a fault record that names its issuer (R346). -/
def loseEnt (s : State) (die : Nat) (e : DispEnt) (code : Nat) : State := (s.errorOnly e.org code).settleEnt die e 3

/-- An asynchronous fault of a dispatch or collective engine under the issuer's policy (R213, R345): its record, a place in the fault queue under RETRY
(`kind` 2 for a DISP, 3 for a COLL), a reset under FATAL. -/
def fabFault (s : State) (o : Org) (code va kind : Nat) : State :=
  let s1 := s.asyncRec o code 3 va
  let p := s.ownOf o.elem o.ctx
  match s.policy o code with
  | 0 => s1.queueFault p (s.xlRec o code 3 va) ⟨o.elem, o.seq, kind⟩
  | 2 => s1.resetPart p (some o)
  | _ => s1

/-- A translation fault of an entry (R213, R345): it waits at `stage` under RETRY, and is lost otherwise. -/
def entFault (s : State) (die : Nat) (e : DispEnt) (code va stage : Nat) : State :=
  let s1 := if s.policy e.org code = 0 then s.modDisp die fun x => { x with ents := x.ents.map fun y => if y.id == e.id then { e with wait := stage } else y }
    else s.settleEnt die e 3
  s1.fabFault e.org code va 2

-- Sending a list (R346, R347, R354) ----------------------------------------------------------------------------------------------------------------

/-- The header as it travels and is stored: SMOD and SSLOT of the source, SC of the attempt (R344). -/
def wireHdr (s : State) (e : DispEnt) : Nat := e.hdr % 2 ^ 96 + e.sc.toNat * 2 ^ 96 + e.slot * 2 ^ 109 + s.dev.modId % 2 ^ 12 * 2 ^ 116

/-- Forms and sends one message of entries to one slot of one module; without a route they are lost with FAB_ROUTE. -/
def sendEnts (s : State) (die : Nat) (es : List (DispEnt × DispWire)) : State :=
  match es with
  | [] => s
  | x :: _ =>
    let r := s.sendMsg die (refMod x.1.ref) x.1.slot (refSlot x.1.ref) (.dispatch (es.map fun y => y.2))
    if r.2 then r.1 else es.foldl (fun s y => s.loseEnt die y.1 0x66) s

/-- Runs of entries that one message can carry: the same source slot and destination, up to 4,096 flits. -/
def groupEnts : List (DispEnt × DispWire) → List (List (DispEnt × DispWire))
  | [] => []
  | x :: xs =>
    match groupEnts xs with
    | [] => [[x]]
    | g :: gs => match g with
      | [] => [x] :: gs
      | y :: _ =>
        let fits : Bool := x.1.slot == y.1.slot && refMod x.1.ref == refMod y.1.ref && refSlot x.1.ref == refSlot y.1.ref
          && nflOf (.dispatch (x.2 :: g.map fun z => z.2)) ≤ 4096
        if fits then (x :: g) :: gs else [x] :: g :: gs

/-- Reads an entry's payload when its message is formed (R345). -/
def formEnt (s : State) (die : Nat) (e : DispEnt) : State × List (DispEnt × DispWire) :=
  match s.gget e.slot e.ptr e.bytes with
  | .error (c, va) => (s.entFault die e c va 2, [])
  | .ok (s1, bs) => (s1.modDisp die fun x => { x with ents := x.ents.map fun y => if y.id == e.id then { e with sent := true } else y },
      [(e, { hdr := BitVec.ofNat 128 (s1.wireHdr e), ref := BitVec.ofNat 64 e.ref, payload := bs, entry := e.id })])

/-- An entry of the slot and list of `e` waits for its payload: `e` stays behind it (R347). -/
def heldBack (s : State) (die : Nat) (e : DispEnt) : Bool := (s.dispEng die).ents.any fun y => y.wait == 2 && y.slot == e.slot && y.list == e.list

/-- The entries that leave with those that a test selects: each with every earlier one of its slot and list (R347). -/
def leaving (p : DispEnt → Bool) : List DispEnt → List DispEnt
  | [] => []
  | e :: es =>
    let rest := leaving p es
    if p e || rest.any fun y => y.slot == e.slot && y.list == e.list then e :: rest else rest

/-- Sends the unsent entries of an engine that a test selects, in append order. -/
def sendList (s : State) (die : Nat) (p : DispEnt → Bool) : State :=
  let es := leaving p ((s.dispEng die).ents.filter fun e => !e.sent && e.wait == 0)
  let r := es.foldl (fun st e => if st.1.heldBack die e then st else let q := st.1.formEnt die e; (q.1, st.2 ++ q.2)) (s, [])
  ((groupEnts r.2).foldl (fun s g => s.sendEnts die g) r.1).flushDone die

/-- A list's entries may go out at once or wait (R354): the choice is open, but a full list is sent. -/
def maybeSend (s : State) (die l : Nat) : State :=
  let n := ((s.dispEng die).ents.filter fun e => e.list == l && !e.sent).length
  let s1 : State := { s with free := s.free + 1 }
  if n < 512 && !Config.freeBit (freeIdx s.free 5 0) then s1 else s1.sendList die fun e => e.list == l

-- The table of a DISP (R343) ---------------------------------------------------------------------------------------------------------------------------

/-- What a dispatch table says of an expert: NEXP, P, OCAP, O, the reference and the list; or the code that makes the entry lost, with the address of a
fault. -/
def tableRead (s : State) (p t e : Nat) : State × Except (Nat × Nat) (List Nat) :=
  match s.gget p t 16 with
  | .error x => (s, .error x)
  | .ok (s1, bs) =>
    let w := leNat bs
    let nexp := bitsOf w 0 16
    let pay := bitsOf w 16 16
    if nexp = 0 ∨ nexp ≤ e ∨ pay % 16 ≠ 0 ∨ 4096 < pay ∨ bitsOf w 64 6 ≠ 0 then (s1, .error (0x67, 0))
    else match s1.gget p (t + 16 + 16 * e) 16 with
      | .error x => (s1, .error x)
      | .ok (s2, cs) =>
        let x := leNat cs
        if bitsOf x 0 6 ≠ 0 ∨ bitsOf x 70 58 ≠ 0 then (s2, .error (0x67, 0))
        else (s2, .ok [nexp, pay, bitsOf w 32 32, bitsOf w 64 64, bitsOf x 0 64, bitsOf x 64 6])

/-- The send list that a DISP would join; none when its entry is lost at once. -/
def dispList (s : State) (o : Org) (c : DispCmd) : Option Nat :=
  match (s.tableRead (s.ownOf o.elem o.ctx) c.table (c.hdr % 2 ^ 16)).2 with
  | .ok v => some (nth v 5 0)
  | .error _ => none

/-- A new entry, from what its table says: list 64 while the table has not been read. -/
def entOf (id p : Nat) (o : Org) (c : DispCmd) (v : List Nat) : DispEnt :=
  { id := id, org := o, slot := p, hdr := c.hdr, ptr := c.ptr, table := c.table, nexp := nth v 0 0, bytes := nth v 1 0, ocap := nth v 2 0,
    ovfAt := nth v 3 0, list := nth v 5 64, first := nth v 5 64, ref := nth v 4 0 }

/-- A DISP reaches its engine (R345, R346). -/
def dispAppend (s : State) (die : Nat) (o : Org) (c : DispCmd) : State :=
  let p := s.ownOf o.elem o.ctx
  let r := s.tableRead p c.table (c.hdr % 2 ^ 16)
  let id := 12 * (s.dispEng die).next + die
  let mk (v : List Nat) : DispEnt := entOf id p o c v
  let s1 := r.1.modDisp die fun x => { x with next := x.next + 1 }
  let gone (s : State) : State := s.modDisp die fun x => { x with settled := x.settled ++ [⟨p, [], 3⟩] }
  match r.2 with
  | .error (0x67, _) => gone (s1.errorOnly o 0x67)
  | .error (code, va) =>
    if s.policy o code = 0 then (s1.modDisp die fun x => { x with ents := x.ents ++ [{ mk [] with wait := 1 }] }).fabFault o code va 2
    else (gone s1).fabFault o code va 2
  | .ok v => (s1.modDisp die fun x => { x with ents := x.ents ++ [mk v] }).maybeSend die (nth v 5 0)

/-- A DFLSH reaches its engine (R348): it covers what its slot has appended to the list, settled or not, and sends what waits. -/
def dispFlush (s : State) (die : Nat) (o : Org) (l : Nat) (all : Bool) : State :=
  let p := s.ownOf o.elem o.ctx
  let x := s.dispEng die
  let hitE (e : DispEnt) : Bool := e.slot == p && e.flush.isNone && (all || e.first == l || e.list == l)
  let hitD (d : DispDone) : Bool := d.slot == p && (all || d.lists.contains l)
  let f : Flush := { id := x.next, org := o, slot := p, counts := (x.settled.filter hitD).foldl (fun c d => bump c d.kind) [0, 0, 0, 0] }
  let s1 := s.modDisp die fun x =>
    { x with next := x.next + 1, settled := x.settled.filter fun d => !hitD d, flushes := x.flushes ++ [f],
             ents := x.ents.map fun e => if hitE e then { e with flush := some f.id } else e }
  s1.sendList die fun e => e.flush == some f.id

-- Outcomes (R346) -------------------------------------------------------------------------------------------------------------------------------------------

/-- An entry is written at place k of the overflow list, or is lost when the list is full (R346). -/
def overflowAt (s : State) (die : Nat) (e : DispEnt) (k : Nat) : State :=
  if k < e.ocap then
    let hdr := s.wireHdr { e with sc := false } + 2 ^ 97
    match s.gput e.slot (e.ovfAt + 64 + 32 * k) (leBytes 16 hdr ++ leBytes 16 e.ptr) with
    | .error (c, va) => s.entFault die { e with ovfK := some k } c va 4
    | .ok s1 => s1.settleEnt die e 2
  else s.loseEnt die e 0x68

/-- The overflow list of the source (R343, R346). -/
def overflow (s : State) (die : Nat) (e : DispEnt) : State :=
  match e.ovfK with
  | some k => s.overflowAt die e k
  | none =>
    match s.gget e.slot e.ovfAt 8 with
    | .error (c, va) => s.entFault die e c va 4
    | .ok (s1, bs) =>
      match s1.gput e.slot e.ovfAt (leBytes 8 (leNat bs + 1)) with
      | .error (c, va) => s1.entFault die e c va 4
      | .ok s2 => s2.overflowAt die e (leNat bs)

/-- FULL comes back (R346): the second choice, else the overflow list. -/
def onFull (s : State) (die : Nat) (e : DispEnt) : State :=
  let second := bitsOf e.hdr 16 16
  if !e.sc && second != 0xFFFF && second != e.hdr % 2 ^ 16 && second < e.nexp then
    let r := s.tableRead e.slot e.table second
    match r.2 with
    | .error (0x67, _) => r.1.loseEnt die e 0x67
    | .error (code, va) => r.1.entFault die e code va 3
    | .ok v =>
      let e1 := { e with sc := true, sent := false, list := nth v 5 0, ref := nth v 4 0 }
      let s1 := r.1.modDisp die fun x => { x with ents := (x.ents.filter fun y => y.id != e.id) ++ [e1] }
      if e.flush.isSome then s1.sendList die fun y => y.list == e1.list else s1.maybeSend die e1.list
  else s.overflow die e

/-- An earlier outcome of the entry's list and destination module waits in the fault queue, or behind one that does (R354). -/
def outcomeHeld (s : State) (die : Nat) (e : DispEnt) : Bool :=
  let x := s.dispEng die
  x.ents.any fun y => y.id != e.id && (y.wait == 3 || y.wait == 4 || x.held.any fun h => h.1 == y.id) && y.list == e.list && refMod y.ref == refMod e.ref

/-- The source engine acts on one result of a placement (R346). -/
def actOn (s : State) (die : Nat) (e : DispEnt) (r : Option (BitVec 8)) : State :=
  (match r with
   | none => s.settleEnt die e (if e.sc then 1 else 0)
   | some c => if c = 0 then s.onFull die e else s.loseEnt die e c.toNat).flushDone die

/-- One result of a placement reaches the source engine: it is acted on in the order in which the results come (R354). -/
def onResult (s : State) (r : Nat × Option (BitVec 8)) : State :=
  let die := r.1 % 12
  match (s.dispEng die).ents.find? fun e => e.id == r.1 with
  | none => s
  | some e => if s.outcomeHeld die e then s.modDisp die fun x => { x with held := x.held ++ [r] } else s.actOn die e r.2

/-- The results that waited are acted on, in their order, as far as none waits anew. -/
def resumeHeld (s : State) (die : Nat) : State :=
  let hs := (s.dispEng die).held
  hs.foldl (fun s r => s.onResult r) (s.modDisp die fun x => { x with held := [] })

/-- An entry goes on after SERVICE (R213, R303, R345). -/
def retryEnt (s : State) (die : Nat) (e : DispEnt) : State :=
  let go : DispEnt := { e with wait := 0 }
  let s0 := s.modDisp die fun x => { x with ents := x.ents.map fun y => if y.id == e.id then go else y }
  match e.wait with
  | 1 =>
    let r := s0.tableRead e.slot e.table (e.hdr % 2 ^ 16)
    match r.2 with
    | .error (0x67, _) => (r.1.loseEnt die e 0x67).flushDone die
    | .error (code, va) => (r.1.entFault die e code va 1).flushDone die
    | .ok v =>
      let e1 := { entOf e.id e.slot e.org ⟨e.hdr, e.ptr, e.table, true⟩ v with flush := e.flush }
      let s1 := r.1.modDisp die fun x => { x with ents := (x.ents.filter fun y => y.id != e.id) ++ [e1] }
      if e.flush.isSome then s1.sendList die fun y => y.list == e1.list else s1.maybeSend die e1.list
  | 2 => s0.sendList die fun y => y.slot == e.slot && y.list == e.list
  | 3 => ((s0.onFull die go).flushDone die).resumeHeld die
  | 4 => ((s0.overflow die go).flushDone die).resumeHeld die
  | _ => s

/-- The entry of a DISP that waits in the fault queue. -/
def retryDisp (s : State) (w : FqWait) : State :=
  match s.disp.rows.findSome? fun r => (r.2.ents.find? fun e => e.wait != 0 && e.org.elem == w.elem && e.org.seq == w.seq).map fun e => (r.1, e) with
  | some (die, e) => s.retryEnt die e
  | none => s

end State

/-- DISP_APPEND (R343, R345, R348, R354): a DISP or DFLSH reaches its engine. -/
def execDispAppend (n : Nat) (s : State) : Out :=
  onMsg s n fun s x =>
    match x.msg, x.dst with
    | .disp o c _, .disp die => some (s.dispAppend die o c)
    | .dflsh o l all, .disp die => some (s.dispFlush die o l all)
    | _, _ => none

-- Collectives: ending and sending ----------------------------------------------------------------------------------------------------------------------------------

namespace State

def modColl (s : State) (die : Nat) (f : CollEng → CollEng) : State := { s with coll := s.coll.put die (f (s.coll.get {} die)) }

/-- The COLL of a slot on a group, with its engine. -/
def findColl (s : State) (p : Nat) (gid : Word) (k : Nat) : Option (Nat × CollRun) :=
  s.coll.rows.findSome? fun r => (r.2.runs.find? fun x => x.slot == p && x.gid == gid && x.seqNo == k).map fun x => (r.1, x)

/-- Stores a COLL back at its engine. -/
def putColl (s : State) (die : Nat) (r : CollRun) : State :=
  s.modColl die fun x => { x with runs := x.runs.map fun y => if y.org.elem == r.org.elem && y.org.seq == r.org.seq then r else y }

/-- Elements of the destination (R350). -/
def collDst (r : CollRun) : Nat := if r.cmd.kind = 1 then r.members.length * r.cmd.n else r.cmd.n

/-- The end of a COLL (R79, R226, R350): where elements were stored under E OR XS an FPX record is logged, whatever the code, RL drops the destination's lines from the issuing cluster's read cache, then the completion token leaves. -/
def collEnd (s : State) (die : Nat) (r : CollRun) (code : Nat) : State :=
  let c := clusNo r.org.elem
  let len := collDst r * collAlign r.cmd.ty
  let s1 := s.modColl die fun x =>
    { x with runs := x.runs.filter fun y => !(y.org.elem == r.org.elem && y.org.seq == r.org.seq),
             completed := x.completed.put r.slot ((x.completed.get 0 r.slot + 1) % 2 ^ 16) }
  let s2 := if r.cmd.rl && len != 0 then s1.rcDrop c (s1.tsOf c r.slot) fun l => r.cmd.dst / 128 ≤ l && l ≤ (r.cmd.dst + len - 1) / 128 else s1
  let s3 := if r.wrote && (r.exc || r.org.e) then s2.fpx r.org else s2
  s3.replyFrom (.disp die) { r.org with e := r.org.e || r.exc || code != 0 } (BitVec.ofNat 64 code)

-- Messages that fail (R338, R339) ------------------------------------------------------------------------------------------------------------------------------------

/-- A message has failed for good: the operation that issued it completes with the code (R339, R346, R350). -/
def lostMsg (s : State) (m : RMsg) (code : Nat) : State :=
  match m.body with
  | .dispatch es => es.foldl (fun s w => s.onResult (w.entry, some (BitVec.ofNat 8 code))) s
  | .coll gid k _ _ _ _ _ fc _ =>
    if fc ≠ 0 then s
    else match s.findColl m.sslot gid k with
      | some (die, r) => s.collEnd die r code
      | none => s
  | _ => s

/-- The same message, as its ids name it. -/
def sameMsg (a b : RMsg) : Bool := a.seng == b.seng && a.smod == b.smod && a.dmod == b.dmod && a.mid == b.mid && isPlain a.body == isPlain b.body
  && (!isPlain a.body || a.body == b.body)

/-- The source engine sends a failed message again, at most three times (R339). -/
def retryMsg (s : State) (m : RMsg) : State :=
  match s.sent.find? fun d => sameMsg d.msg m with
  | none => s
  | some d =>
    let drop : State := { s with sent := s.sent.filter fun y => !(sameMsg y.msg m) }
    if 3 ≤ d.tries then drop.lostMsg m 0x64
    else
      let r := s.handOver d.msg
      if r.2 then { r.1 with sent := r.1.sent.map fun y => if sameMsg y.msg m then { y with tries := y.tries + 1 } else y }
      else drop.lostMsg m 0x66

/-- A port stops carrying traffic: messages with a flit in its window fail, the others take the other port (R338, R340). -/
def portStops (s : State) (k state : Nat) : State :=
  let x := s.port k
  let hit := (x.window.map fun w => w.msg).eraseDups
  let rest := ((x.todo.map fun t => t.1).eraseDups).filter fun m => !(hit.any (sameMsg m))
  let s1 := s.modPort k fun x => { x with state := state, window := [], todo := [], resend := [], urgent := [] }
  let s2 := hit.foldl (fun s m => if isPlain m.body then (s.handOver m).1 else s.retryMsg m) s1
  rest.foldl (fun s m => let r := s.handOver m; if r.2 then r.1 else if isPlain m.body then s else
    { s with sent := s.sent.filter fun y => !(sameMsg y.msg m) }.lostMsg m 0x66) s2

-- Ports (R335 to R338) ----------------------------------------------------------------------------------------------------------------------------------------------------

/-- NAK(s): the slot is replayed ahead of new flits; 64 NAKs of one SEQ disable the port (R336, R338). -/
def onNak (s : State) (k : Nat) (q : BitVec 12) : State :=
  let x := s.port k
  match x.window.find? fun w => w.seq == q with
  | none => s
  | some w =>
    if 63 ≤ w.naks then s.portStops k 3
    else s.modPort k fun x => { x with window := x.window.map fun y => if y.seq == q then { y with naks := y.naks + 1 } else y,
                                       resend := if x.resend.contains q then x.resend else x.resend ++ [q] }

/-- ACK frees every replay slot up to and including a SEQ (R336). -/
def onAck (s : State) (k : Nat) (q : BitVec 12) : State :=
  s.modPort k fun x => { x with window := x.window.filter fun w => 2048 ≤ serial w.seq q, resend := x.resend.filter fun r => 2048 ≤ serial r q }

/-- A slot's Rosgen bytes (R298, R342). -/
def rosCount (s : State) (p : Nat) : State := if p < 128 then s.modPart p fun x => { x with rosgen := x.rosgen + 128 } else s

/-- The next MID expected of a source engine. -/
def nextMid (s : State) (m : RMsg) : Nat := s.rxNext.get 0 (m.smod * 16 + m.seng)

/-- A message has taken effect before, or waits here whole: another copy of it has none (R339). -/
def seenMsg (s : State) (m : RMsg) : Bool :=
  (s.nextMid m + 2 ^ 16 - 1 - m.mid.toNat) % 2 ^ 16 < 2 ^ 15 || s.rx.any fun x => x.msg.smod == m.smod && x.msg.seng == m.seng && x.msg.mid == m.mid && !isPlain x.msg.body && !x.failed

/-- A message is whole (R339). A copy of one that has taken effect is acknowledged again and has no effect. -/
def wholeMsg (s : State) (m : RMsg) : State :=
  if isPlain m.body || !s.seenMsg m then { s with rx := s.rx ++ [{ msg := m, failed := false }] }
  else if s.rx.any fun x => x.msg.smod == m.smod && x.msg.seng == m.seng && x.msg.mid == m.mid && !isPlain x.msg.body then s
  else (s.sendMsg m.seng m.smod m.dslot m.sslot (.ack m.seng m.mid)).1

/-- Part i of a failed message belongs to the sending that failed: parts come in rising order, and a new sending begins anew. -/
def deadPart (x : Port) (smod seng : Nat) (mid : BitVec 16) (i : Nat) : Bool := x.dead.any fun d => d.1 == smod && d.2.1 == seng && d.2.2.1 == mid && d.2.2.2 < i

/-- Notes the part of a failed message that was released last, or takes the note back. -/
def markDead (x : Port) (smod seng : Nat) (mid : BitVec 16) (i : Option Nat) : Port :=
  let rest := x.dead.filter fun d => !(d.1 == smod && d.2.1 == seng && d.2.2.1 == mid)
  { x with dead := match i with | some i => (smod, seng, mid, i) :: rest | none => rest }

/-- What the receiver releases at the next position (R336, R337): a part of a message, or a VOID. A message that failed has one FAIL for each time that it was sent, and the parts
of that sending that come later have no effect (R339). -/
def releaseOne (s : State) (k : Nat) (f : RFlit) : State :=
  let same (smod seng : Nat) (mid : BitVec 16) (t : RMsg × Nat) : Bool := t.1.smod == smod && t.1.seng == seng && t.1.mid == mid && !isPlain t.1.body
  match f.kind with
  | .data m i =>
    let s1 := s.rosCount m.dslot
    if isPlain m.body then { s1 with rx := s1.rx ++ [{ msg := m, failed := false }] }
    else if deadPart (s.port k) m.smod m.seng m.mid i then s1.modPort k fun x => markDead x m.smod m.seng m.mid (some i)
    else
      let mine := same m.smod m.seng m.mid
      let old := if i = 0 then [] else (s.port k).asm.filter mine
      let got := if old.any fun t => t.2 == i then old else old ++ [(m, i)]
      let rest := (s.port k).asm.filter fun t => !mine t
      let s2 := s1.modPort k fun x => { markDead x m.smod m.seng m.mid none with asm := if m.nfl ≤ got.length then rest else rest ++ got }
      if m.nfl ≤ got.length then s2.wholeMsg m else s2
  | .void _ mid seng smod i =>
    if 12 ≤ seng then s
    else if deadPart (s.port k) smod seng mid i then s.modPort k fun x => markDead x smod seng mid (some i)
    else
      let m : RMsg := { nfl := 0, mid := mid, seng := seng, sslot := 0, dslot := 0, smod := smod, dmod := s.dev.modId, body := .outcome [] }
      let s1 := s.modPort k fun x => { markDead x smod seng mid (some i) with asm := x.asm.filter fun t => !same smod seng mid t }
      { s1 with rx := s1.rx ++ [{ msg := m, failed := true }] }
  | _ => s

/-- The position of a flit in the sequence. -/
def posOf (f : RFlit) : BitVec 12 := match f.kind with | .void q _ _ _ _ => q | _ => f.seq

/-- Releases flits in SEQ order (R336). -/
def releaseAll (k : Nat) : Nat → State → State
  | 0, s => s
  | n + 1, s =>
    let x := s.port k
    match x.buf.find? fun f => posOf f == x.last + 1 with
    | none => s
    | some f =>
      let s1 := s.modPort k fun x => { x with last := x.last + 1, buf := x.buf.filter fun g => posOf g != posOf f, naked := x.naked.filter fun q => q != posOf f }
      releaseAll k n (s1.releaseOne k f)

/-- The sequence numbers missing below the highest received (R336). -/
def missing (x : Port) : List (BitVec 12) :=
  let high := x.buf.foldl (fun h f => max h (serial x.last (posOf f))) 0
  ((List.range (high - 1)).map fun i => x.last + BitVec.ofNat 12 (i + 1)).filter fun q => !(x.buf.any fun f => posOf f == q) && !x.naked.contains q

/-- A DATA or VOID flit enters the reorder buffer (R336). -/
def enterFlit (s : State) (k : Nat) (f : RFlit) : State :=
  let x := s.port k
  let d := serial x.last (posOf f)
  if d = 0 ∨ 1024 < d ∨ x.buf.any fun g => posOf g == posOf f then s
  else
    let s1 := s.modPort k fun x => { x with buf := x.buf ++ [f] }
    let ms := missing (s1.port k)
    let s2 := s1.modPort k fun x => { x with urgent := x.urgent ++ ms.map RKind.nak, naked := x.naked ++ ms }
    releaseAll k 1025 s2

end State

/-- ROSGEN_FLIT_RECEIVE (R335 to R337): a flit that is damaged or of a reserved type counts as missing. -/
def execRosgenFlitReceive (port : Nat) (f : RFlit) (s : State) : Out :=
  if !s.linked ∨ (s.port port).state ≠ 2 ∨ !flitSound f then .next s
  else
    let s1 := s.onAck port f.ack
    match f.kind with
    | .data _ _ => .next (s1.enterFlit port f)
    | .void _ _ _ _ _ => .next (s1.enterFlit port f)
    | .nak q => .next (s1.onNak port q)
    | _ => .next s1

/-- NAK_RECEIVE (R336 to R338). -/
def execNakReceive (port : Nat) (q : BitVec 12) (s : State) : Out := if !s.linked ∨ (s.port port).state ≠ 2 then .next s else .next (s.onNak port q)

/-- REPLAY_TIMEOUT (R336): 4,096 link cycles of 4/7 ns without an ACK since a flit was last sent. -/
def execReplayTimeout (port : Nat) (s : State) : Out :=
  let x := s.port port
  if s.linked && x.state = 2 && x.window.any fun w => w.sentAt + 4 * 4096 ≤ s.t7 then
    .next (s.modPort port fun x => { x with resend := x.window.map fun w => w.seq, window := x.window.map fun w => { w with sentAt := s.t7 } })
  else .next s

namespace State

/-- A flit leaves the module. -/
def emitFlit (s : State) (k : Nat) (seq : BitVec 12) (kind : RKind) : State :=
  { s with rosOut := s.rosOut ++ [(k, { seq := seq, ack := (s.port k).last, kind := kind })] }

/-- The replay of a slot (R336, R337): an uncorrectable error sends VOID in its place; a corrected one is logged in the PF's ring under a code that the spec
does not give. -/
def replaySlot (s : State) (k : Nat) (w : TxSlot) : State :=
  let upd (s : State) (f : TxSlot → TxSlot) : State := s.modPort k fun x => { x with window := x.window.map fun y => if y.seq == w.seq then f y else y }
  if w.ue then
    let s1 := s.modPort k fun x => { x with voids := x.voids + 1 }
    let s2 := if isPlain w.msg.body then (s1.handOver w.msg).1 else s1
    (upd s2 fun y => { y with sentAt := s.t7 }).emitFlit k w.seq (.void w.seq w.msg.mid (if isPlain w.msg.body then 12 else w.msg.seng) w.msg.smod w.part)
  else
    let s1 := if w.ce then { s.ringPush 128 ((Config.freeByte (freeIdx s.free 5 0)).toNat * 2 ^ 120) with free := s.free + 1 } else s
    ((upd s1 fun y => { y with sentAt := s.t7, ce := false }).modPort k fun x => { x with replays := x.replays + 1 }).emitFlit k w.seq (.data w.msg w.part)

end State

/-- ROSGEN_PORT_SEND (R336, R337): NAKs first, then replays, then a new DATA flit while the window has room, else IDLE. -/
def execRosgenPortSend (port : Nat) (s : State) : Out :=
  let x := s.port port
  if !s.linked ∨ x.state ≠ 2 then .next s
  else match x.urgent with
  | k :: ks => .next ((s.modPort port fun x => { x with urgent := ks }).emitFlit port x.next k)
  | [] =>
    match x.resend with
    | q :: qs =>
      let s1 := s.modPort port fun x => { x with resend := qs }
      match x.window.find? fun w => w.seq == q with
      | some w => .next (s1.replaySlot port w)
      | none => .next s1
    | [] =>
      match x.todo with
      | (m, i) :: ts =>
        if 1024 ≤ x.window.length then .next (s.emitFlit port x.next .idle)
        else
          let w : TxSlot := { seq := x.next, msg := m, part := i, sentAt := s.t7 }
          let s1 := s.modPort port fun x => { x with todo := ts, next := x.next + 1, window := x.window ++ [w] }
          .next ((s1.rosCount m.sslot).emitFlit port x.next (.data m i))
      | [] => .next (s.emitFlit port x.next .idle)

/-- ROSGEN_PORT_UP (R312, R338, R340): in full service a port that is down or in training comes up with its peer, its sequence anew. -/
def execRosgenPortUp (port peer : Nat) (s : State) : Out :=
  if s.linked && port < 36 && (s.port port).state ≤ 1 then .next (s.modPort port fun x => { state := 2, peer := peer % 2 ^ 12, replays := x.replays, voids := x.voids })
  else .next s

/-- ROSGEN_PORT_DOWN (R340). -/
def execRosgenPortDown (port : Nat) (s : State) : Out :=
  if (s.port port).state = 2 then .next (s.portStops port 0) else .next s

-- Received messages (R339, R342) ----------------------------------------------------------------------------------------------------------------------------------------------

namespace State

/-- Message n of those received, when it is its turn in MID order and it has not failed (R339). -/
def rxTurn (s : State) (n : Nat) : Option RxMsg :=
  match (if s.up then s.rx[n]? else none) with
  | none => none
  | some x => if !x.failed && !isPlain x.msg.body && x.msg.mid.toNat == s.nextMid x.msg then some x else none

def putRx (s : State) (n : Nat) (x : RxMsg) : State := { s with rx := setAt s.rx n x }

/-- The check of an inbound access against its export window (R342): the virtual address, or FAB_EXPORT. `need` holds the PERM bits. -/
def exportAt (s : State) (m : RMsg) (ref need size : Nat) : Except Nat Nat :=
  let x := s.part (refSlot ref)
  let w := x.exports.get {} (refWin ref)
  if refMod ref ≠ s.dev.modId ∨ x.life == .free ∨ x.life == .evicted then .error 0x65
  else if !w.v ∨ !(w.pmod == 0xFFF || w.pmod == m.smod) ∨ !(w.pslot == 0x7F || w.pslot == m.sslot) then .error 0x65
  else if w.perm &&& need ≠ need ∨ w.len * 2 ^ 16 < refOff ref + size then .error 0x65
  else .ok (w.base * 2 ^ 16 + refOff ref)

/-- Bytes of a receive buffer (R343). -/
def bufBytes (pay : Nat) : Nat := 64 + 32 * (16 + pay)

/-- Bytes of a landing area (R349). -/
def landBytes (r : CollRun) : Nat := (34 * r.members.length * r.cmd.n + 7) / 8

/-- The verdict on the inbound accesses of a message: 0, or the code of the first that is refused. -/
def verdict (s : State) (x : RxMsg) : Nat :=
  let code (ref need size : Nat) : Option Nat := match s.exportAt x.msg ref need size with | .error c => some c | .ok _ => none
  match x.msg.body with
  | .dispatch es => (es.findSome? fun w => code w.ref.toNat 3 (bufBytes w.payload.length)).getD 0
  | .coll gid k _ _ _ _ _ c _ =>
    if c ≠ 0 then 0
    else match s.findColl x.msg.dslot gid k with
      | some (_, r) => (code (nth r.members r.rank 0) 2 (landBytes r)).getD 0
      | none => 0
  | _ => 0

/-- An inbound access to slot p faults (R213, R342): its record goes to the slot's error ring under any policy. No context of the slot issued it, so that the record
names none and the code answers the source: DESIGN CHOICE (log 108). -/
def inboundFault (s : State) (p code va : Nat) : State := s.cpFault p p code va

/-- The fetch-add and the slot write of one entry (R346): FULL is some 0. A refusal or a translation fault comes with its code and address. -/
def placeEnt (s : State) (m : RMsg) (w : DispWire) : Except (Nat × Option Nat) (State × Option (BitVec 8)) :=
  match s.exportAt m w.ref.toNat 3 (bufBytes w.payload.length) with
  | .error c => .error (c, none)
  | .ok va =>
    let p := refSlot w.ref.toNat
    match s.gget p va 8 with
    | .error e => .error (e.1, some e.2)
    | .ok (s1, bs) =>
      let v := leNat bs
      match s1.gput p va (leBytes 8 (v + 1)) with
      | .error e => .error (e.1, some e.2)
      | .ok s2 =>
        if v < 32 then
          match s2.gput p (va + 64 + v * (16 + w.payload.length)) (leBytes 16 w.hdr.toNat ++ w.payload) with
          | .error e => .error (e.1, some e.2)
          | .ok s3 => .ok (s3, none)
        else .ok (s2, some 0)

/-- The entries of a message, in order, or the first refusal or fault with the slot it concerns. -/
def placeAll (m : RMsg) : State → List DispWire → Except (Nat × Nat × Option Nat) (State × List (Nat × Option (BitVec 8)))
  | s, [] => .ok (s, [])
  | s, w :: ws =>
    match s.placeEnt m w with
    | .error e => .error (refSlot w.ref.toNat, e.1, e.2)
    | .ok (s1, r) => match placeAll m s1 ws with
      | .error e => .error e
      | .ok (s2, rs) => .ok (s2, (w.entry, r) :: rs)

/-- A message of dispatch entries takes effect, whole or not at all (R339, R342, R346): with one entry refused or faulting nothing is placed, the fault is recorded, and every entry is
answered with the code. -/
def placeMsg (s : State) (m : RMsg) (es : List DispWire) : State × List (Nat × Option (BitVec 8)) :=
  match placeAll m s es with
  | .ok r => r
  | .error (p, c, va) => (match va with | some a => s.inboundFault p c a | none => s, es.map fun w => (w.entry, some (BitVec.ofNat 8 c)))

end State

/-- INBOUND_ACCESS (R342): the accesses of message n are checked against their export windows. -/
def execInboundAccess (n : Nat) (s : State) : Out :=
  match s.rxTurn n with
  | none => .next s
  | some x => if x.adm.isSome || x.eff then .next s else .next (s.putRx n { x with adm := some (s.verdict x) })

/-- DISPATCH_PLACE (R344, R346, R347): the entries of message n, in order; the turn of its first entry brings them all, since a message takes effect whole or not at all (R339, R342). -/
def execDispatchPlace (n k : Nat) (s : State) : Out :=
  match s.rxTurn n with
  | none => .next s
  | some x =>
    match x.msg.body, x.adm with
    | .dispatch es, some c =>
      if x.eff ∨ k ≠ 0 then .next s
      else
        let r := if c = 0 then s.placeMsg x.msg es else (s, es.map fun w => (w.entry, some (BitVec.ofNat 8 c)))
        .next (r.1.putRx n { x with adm := none, res := r.2, eff := true })
    | _, _ => .next s

/-- DISPATCH_OUTCOME (R346 to R348, R354): the source engine acts on the outcomes in the order in which they come. -/
def execDispatchOutcome (n : Nat) (s : State) : Out :=
  match s.rxTurn n with
  | none => .next s
  | some x =>
    match x.msg.body with
    | .outcome rs => if x.eff then .next s else .next (rs.foldl (fun s r => s.onResult r) (s.putRx n { x with eff := true }))
    | _ => .next s

/-- ROSGEN_MESSAGE_APPLY (R339): a message that took effect is acknowledged, a dispatch's outcomes go back, and the next MID may follow; a failed message is
answered with FAIL. -/
def execRosgenMessageApply (n : Nat) (s : State) : Out :=
  match (if s.up then s.rx[n]? else none) with
  | none => .next s
  | some x =>
    let m := x.msg
    let gone : State := { s with rx := dropAt s.rx n }
    if x.failed then .next (gone.sendMsg m.seng m.smod m.dslot m.sslot (.fail m.seng m.mid)).1
    else if (s.rxTurn n).isNone || !x.eff then .next s
    else
      let s1 : State := { gone with rxNext := s.rxNext.put (m.smod * 16 + m.seng) ((s.nextMid m + 1) % 2 ^ 16) }
      let s2 := match m.body with
        | .dispatch _ => (s1.sendMsg m.seng m.smod m.dslot m.sslot (.outcome x.res)).1
        | _ => s1
      .next (s2.sendMsg m.seng m.smod m.dslot m.sslot (.ack m.seng m.mid)).1

/-- FAIL_RECEIVE (R339): the source engine sends the message again. -/
def execFailReceive (n : Nat) (s : State) : Out :=
  match (if s.up then s.rx[n]? else none) with
  | none => .next s
  | some x =>
    match x.msg.body with
    | .fail eng mid =>
      let s1 : State := { s with rx := dropAt s.rx n }
      match s1.sent.find? fun d => d.msg.seng == eng && d.msg.mid == mid && d.msg.dmod == x.msg.smod with
      | some d => .next (s1.retryMsg d.msg)
      | none => .next s1
    | _ => .next s

/-- END_TO_END_ACK (R339): the source drops its descriptor. -/
def execEndToEndAck (n : Nat) (s : State) : Out :=
  match (if s.up then s.rx[n]? else none) with
  | none => .next s
  | some x =>
    match x.msg.body with
    | .ack eng mid =>
      .next { s with rx := dropAt s.rx n, sent := s.sent.filter fun d => !(d.msg.seng == eng && d.msg.mid == mid && d.msg.dmod == x.msg.smod) }
    | _ => .next s

end Sys2Proof.Machine
end

