-- ==== Sys2Proof/Machine/Coll.lean ====
section
/-! DEFINITION. The collective engines (R349 to R351). -/

namespace Sys2Proof.Machine

/-- An element in the 34-bit wire form (R350): container and tail. -/
abbrev WireLane := Word × BitVec 2

def toLane (x : WireLane) : Lane := ⟨x.1, x.2.getLsbD 1, x.2.getLsbD 0⟩

def ofLane (l : Lane) : WireLane := (l.v, l.tail)

/-- An element as it is read (R350): all-gather carries bytes unchanged, other kinds the exact value with a zero tail. -/
def collLoad (kind : Nat) (t : Ty) (bs : List Byte) : WireLane := if kind = 1 then (BitVec.ofNat 32 (leNat bs), 0) else ofLane (loadLane t (leNat bs))

/-- The sum of two elements (R351): floats narrow to f32, integers wrap. -/
def collAdd (t : Ty) (a b : WireLane) : WireLane × Exc :=
  if t.isFlt then let r := addF32 (toLane a) (toLane b); (ofLane r.1, r.2) else ((a.1 + b.1, 0), Exc.none)

/-- Sums of two vectors; whether one raised invalid or overflow. -/
def collSum (t : Ty) : List WireLane → List WireLane → List WireLane × Bool
  | a :: as, b :: bs =>
    let r := collAdd t a b
    let q := collSum t as bs
    (r.1 :: q.1, r.2.store || q.2)
  | _, _ => ([], false)

/-- The final store of an element (R65, R350): its bytes, and whether it raised. -/
def collStoreOne (c : CollCmd) (x : WireLane) : List Byte × Bool :=
  if c.kind = 1 || !c.ty.isFlt then (leBytes (collAlign c.ty) x.1.toNat, false)
  else let r := storeLane .f32 c.ty c.rm (toLane x) 0; (leBytes (collAlign c.ty) r.1, r.2.store)

namespace State

/-- First element and number of elements of chunk k within a member's source vector, for the summing kinds (R351). -/
def chunkOf (r : CollRun) (k : Nat) : Nat × Nat :=
  let n := r.members.length
  if r.cmd.kind = 2 then (k * r.cmd.n, r.cmd.n)
  else
    let len := ceilDiv r.cmd.n n
    (k * len, min len (r.cmd.n - k * len))

/-- The elements of a chunk in a vector. -/
def sliceOf (v : List WireLane) (c : Nat × Nat) : List WireLane := (v.drop c.1).take c.2

/-- Elements that one message of 4,096 flits carries (R339). -/
def msgElems : Nat := (4096 * 120 - 32) * 8 / 34

/-- A vector cut for its messages, one at least; `fuel` bounds their number. -/
def cutVec : Nat → List WireLane → List (List WireLane)
  | 0, xs => [xs]
  | k + 1, xs => if xs.length ≤ msgElems then [xs] else xs.take msgElems :: cutVec k (xs.drop msgElems)

/-- Sends a vector to member k of a COLL's group, in as many messages as it takes (R339); without a route the COLL ends with FAB_ROUTE. -/
def collSend (s : State) (die : Nat) (r : CollRun) (k phase chunk : Nat) (xs : List WireLane) : State :=
  let ref := nth r.members k 0
  (cutVec (xs.length / msgElems) xs).foldl (fun s ys =>
    match s.findColl r.slot r.gid r.seqNo with
    | none => s
    | some (d, x) =>
      let q := s.sendMsg die (refMod ref) r.slot (refSlot ref) (.coll r.gid r.seqNo r.cmd.kind r.cmd.ty.code r.cmd.n phase chunk 0 ys)
      if q.2 then q.1 else s.collEnd d x 0x66) s

/-- Stores final elements at an element offset of the destination (R65, R350); a fault makes the store wait or ends the COLL with its code (R213). -/
def collStore (s : State) (die : Nat) (r : CollRun) (at_ : Nat) (xs : List WireLane) : State :=
  let ys := xs.map (collStoreOne r.cmd)
  let sz := collAlign r.cmd.ty
  let total := if r.cmd.kind = 2 then r.members.length * r.cmd.n else r.cmd.n
  -- destination bytes that overlap the source are unpredictable
  let bytes := (ys.flatMap fun y => y.1).mapIdx fun i b =>
    let a := r.cmd.dst + at_ * sz + i
    if r.cmd.src ≤ a && a < r.cmd.src + total * sz then Config.freeByte (freeIdx s.free 8 i) else b
  match ({ s with free := s.free + 1 } : State).gput r.slot (r.cmd.dst + at_ * sz) bytes with
  | .error (c, va) =>
    (if s.policy r.org c = 0 then s.putColl die { r with owed := r.owed ++ [(at_, xs)] } else s.collEnd die r c).fabFault r.org c va 3
  | .ok s1 => s1.putColl die { r with exc := r.exc || ys.any fun y => y.2, wrote := r.wrote || !xs.isEmpty }

/-- Where chunk or block k of the destination begins: for reduce-scatter it is all of it (R350). -/
def destOf (r : CollRun) (k : Nat) : Nat := if r.cmd.kind = 0 then (chunkOf r k).1 else if r.cmd.kind = 1 then k * r.cmd.n else 0

/-- The children of member k in the tree (R351). -/
def kidsOf (n k : Nat) : List Nat := [2 * k + 1, 2 * k + 2].filter fun j => j < n

/-- Members at or below member k in the tree. `fuel` bounds the depth. -/
def below (n : Nat) : Nat → Nat → List Nat
  | 0, k => [k]
  | fuel + 1, k => k :: (kidsOf n k).flatMap (below n fuel)

/-- The child of member k towards member d. -/
def towards (n k d : Nat) : Option Nat := (kidsOf n k).find? fun j => (below n 8 j).contains d

/-- A COLL has all it needs and has passed on all it must (R350, R351). -/
def collOver (r : CollRun) : Bool :=
  let n := r.members.length
  if !r.owed.isEmpty || !r.late.isEmpty then false
  else if r.topo = 0 then
    if r.cmd.kind = 0 then r.parts == n - 1 && r.got.length == n
    else if r.cmd.kind = 1 then r.got.length == n
    else r.parts == n - 1 && r.got.contains r.rank
  else if r.cmd.kind = 0 then r.got.contains 0
  else if r.cmd.kind = 1 then r.got.length == n
  else (below n 8 r.rank).all fun d => r.got.contains d

/-- Ends a COLL that is over. -/
def collRest (s : State) (p : Nat) (gid : Word) (k : Nat) : State :=
  match s.findColl p gid k with
  | some (die, r) => if collOver r then s.collEnd die r 0 else s
  | none => s

/-- Applies f to a COLL that has not ended. -/
def onColl (s : State) (r : CollRun) (f : State → Nat → CollRun → State) : State :=
  match s.findColl r.slot r.gid r.seqNo with
  | some (die, x) => f s die x
  | none => s

/-- A final chunk or block k is at this member: stored, noted and, in the ring, passed on to the next member unless that is its origin (R351). -/
def ringFinal (s : State) (r : CollRun) (k : Nat) (xs : List WireLane) : State :=
  let n := r.members.length
  let s1 := s.onColl r fun s die x => s.collStore die x (destOf x k) xs
  let s2 := s1.onColl r fun s die x => s.putColl die { x with got := x.got ++ [k] }
  if r.cmd.kind = 2 || (r.rank + 1) % n == k then s2 else s2.onColl r fun s die x => s.collSend die x ((x.rank + 1) % n) 1 k xs

/-- The ring's partial sum of chunk k (R351). -/
def ringPart (s : State) (r : CollRun) (k : Nat) (xs : List WireLane) : State :=
  let n := r.members.length
  let y := collSum r.cmd.ty xs (sliceOf r.own (chunkOf r k))
  let s1 := s.onColl r fun s die x => s.putColl die { x with parts := x.parts + 1, exc := x.exc || y.2 }
  if r.rank = k then s1.ringFinal r k y.1 else s1.onColl r fun s die x => s.collSend die x ((x.rank + 1) % n) 0 k y.1

/-- The tree's final part k reaches this member (R351): whole vector for all-reduce (k = 0), a rank's chunk for reduce-scatter, a block for all-gather. -/
def treeFinal (s : State) (r : CollRun) (k : Nat) (xs : List WireLane) : State :=
  let n := r.members.length
  let mine : Bool := r.cmd.kind != 2 || k == r.rank
  let s1 := if mine then s.onColl r fun s die x => s.collStore die x (if x.cmd.kind = 1 then k * x.cmd.n else 0) xs else s
  let s2 := s1.onColl r fun s die x => s.putColl die { x with got := x.got ++ [k] }
  let to_ := if r.cmd.kind = 2 then (match towards n r.rank k with | some j => [j] | none => []) else kidsOf n r.rank
  to_.foldl (fun s j => s.onColl r fun s die x => s.collSend die x j 1 k xs) s2

/-- The root has the total (R351): down it goes, for reduce-scatter chunk by chunk. -/
def treeRoot (s : State) (r : CollRun) : State :=
  if r.cmd.kind = 0 then s.treeFinal r 0 r.acc
  else (List.range r.members.length).foldl (fun s k => s.treeFinal r k (sliceOf r.acc (chunkOf r k))) s

/-- A member's sum is complete when its children's partials are in. -/
def treeUp (s : State) (r : CollRun) : State :=
  s.onColl r fun s die x =>
    if x.parts < (kidsOf x.members.length x.rank).length then s
    else if x.rank = 0 then s.treeRoot x
    else s.collSend die x ((x.rank - 1) / 2) 0 0 x.acc

/-- A partial sum, or for all-gather a block on its way up, from a child (R351). -/
def treePart (s : State) (r : CollRun) (k : Nat) (xs : List WireLane) : State :=
  if r.cmd.kind = 1 then
    (if r.rank = 0 then s.treeFinal r k xs else s.onColl r fun s die x => s.collSend die x ((x.rank - 1) / 2) 0 k xs)
  else
    let y := collSum r.cmd.ty r.acc xs
    (s.onColl r fun s die x => s.putColl die { x with acc := y.1, parts := x.parts + 1, exc := x.exc || y.2 }).treeUp r

/-- Landing-area bytes hold nothing that the spec states: each message leaves them free. -/
def landing_ (s : State) (r : CollRun) (va : Nat) : Except (Nat × Nat) State :=
  let bytes := (List.range (landBytes r)).map fun i => Config.freeByte (freeIdx s.free 2 i)
  match s.gput r.slot va bytes with
  | .error e => .error e
  | .ok s1 => .ok { s1 with free := s1.free + 1 }

/-- Elements that the vector of a phase and chunk has at this member (R351). -/
def collLen (r : CollRun) (phase chunk : Nat) : Nat :=
  if r.cmd.kind = 1 then r.cmd.n
  else if r.topo = 0 then (chunkOf r chunk).2
  else if phase = 0 then r.acc.length
  else r.cmd.n

/-- A member's message takes effect: its vector, once all of it has come, is a partial sum or a final part (R351). -/
def collApply (s : State) (die : Nat) (r : CollRun) (m : RMsg) (phase chunk : Nat) (xs : List WireLane) : State :=
  let key := ((m.smod * 128 + m.sslot) * 2 + phase) * 2 ^ 32 + chunk
  let ys := (r.frags.find? fun f => f.1 == key).elim [] (fun f => f.2) ++ xs
  let rest := r.frags.filter fun f => f.1 != key
  if ys.length < collLen r phase chunk then s.putColl die { r with frags := rest ++ [(key, ys)] }
  else
    let r1 := { r with frags := rest }
    let s1 := s.putColl die r1
    if r.topo = 0 then (if phase = 0 then s1.ringPart r1 chunk ys else s1.ringFinal r1 chunk ys)
    else (if phase = 0 then s1.treePart r1 chunk ys else s1.treeFinal r1 chunk ys)

/-- The member's landing area holds what R349 asks for, and its window admits write access from every member. -/
def landOk (s : State) (r : CollRun) : Bool :=
  r.members.all fun ref =>
    let m : RMsg := { nfl := 0, mid := 0, seng := 0, sslot := refSlot ref, dslot := r.slot, smod := refMod ref, dmod := s.dev.modId, body := .outcome [] }
    match s.exportAt m (nth r.members r.rank 0) 2 (landBytes r) with | .ok _ => true | .error _ => false

/-- A COLL whose group breaks the rules of R349 ends, and every other member is told so. -/
def collBreaks (s : State) (die : Nat) (r : CollRun) : State := (s.collTell die r 0x69).collEnd die r 0x69

/-- A message reaches its COLL (R349 to R351). A landing area that no longer admits it breaks the group; a fault of the landing area goes by the policy of the member's own COLL,
which that area serves (R213, R342). -/
def collRecv (s : State) (die : Nat) (r : CollRun) (m : RMsg) (adm : Nat) : State :=
  match m.body with
  | .coll gid k kind ty n phase chunk code xs =>
    let back (s : State) (c : Nat) : State := (s.sendMsg die m.smod m.dslot m.sslot (collFail gid k c)).1
    if code ≠ 0 then s.collEnd die r code.toNat
    else if kind ≠ r.cmd.kind ∨ ty ≠ r.cmd.ty.code ∨ n ≠ r.cmd.n ∨ adm ≠ 0 then s.collBreaks die r
    else match s.exportAt m (nth r.members r.rank 0) 2 (landBytes r) with
      | .error _ => s.collBreaks die r
      | .ok va => match s.landing_ r va with
        | .error (c, a) =>
          (if s.policy r.org c = 0 then s.putColl die { r with late := r.late ++ [m] } else back s c).fabFault r.org c a 3
        | .ok s1 => (s1.collApply die r m phase chunk xs).collRest r.slot r.gid r.seqNo
  | _ => s

/-- COLLs that a slot has issued on a group. -/
def collCount (s : State) (p : Nat) (gid : Word) : Nat :=
  match s.collIssued.find? fun c => c.slot == p && c.gid == gid with
  | some c => c.count
  | none => 0

def countColl (s : State) (p : Nat) (gid : Word) : State :=
  { s with collIssued := (s.collIssued.filter fun c => !(c.slot == p && c.gid == gid)) ++ [⟨p, gid, s.collCount p gid + 1⟩] }

/-- A group descriptor's own bits break a rule (R349). -/
def groupBad (x n : Nat) : Bool := n < 2 || bitsOf x 9 55 != 0 || bitsOf x 96 416 != 0

/-- What a COLL sends first (R351). -/
def collFirst (s : State) (r : CollRun) : State :=
  let n := r.members.length
  if r.topo = 0 then
    if r.cmd.kind = 1 then s.ringFinal r r.rank r.own
    else
      let k := (r.rank + n - 1) % n
      s.onColl r fun s die x => s.collSend die x ((x.rank + 1) % n) 0 k (sliceOf x.own (chunkOf x k))
  else if r.cmd.kind = 1 then s.treePart r r.rank r.own
  else s.treeUp r

/-- A COLL reads its own elements and sends its first messages; what came early is applied (R349 to R351). -/
def collRead (s : State) (die : Nat) (r0 : CollRun) : State :=
  let p := r0.slot
  let c := r0.cmd
  let add (s : State) (r : CollRun) : State := s.modColl die fun x => { x with runs := x.runs ++ [r] }
  let sz := collAlign c.ty
  let total := if c.kind = 2 then r0.members.length * c.n else c.n
  match s.gget p c.src (total * sz) with
  | .error (e, va) =>
    (if s.policy r0.org e = 0 then s.modColl die fun x => { x with starting := x.starting ++ [⟨r0.org, p, c, some r0⟩] }
      else (add s r0).collEnd die r0 e).fabFault r0.org e va 3
  | .ok (s1, src) =>
    let own := (List.range total).map fun i => collLoad c.kind c.ty ((src.drop (i * sz)).take sz)
    let r := { r0 with own := own, acc := own }
    let s2 := ((add s1 r).collFirst r).collRest p r.gid r.seqNo
    let mine (m : RMsg) : Bool := m.dslot == p && (match m.body with | .coll g q _ _ _ _ _ _ _ => g == r.gid && q == r.seqNo | _ => false)
    let early := s2.collEarly.filter mine
    early.foldl (fun s m => s.onColl r fun s die x => s.collRecv die x m 0) { s2 with collEarly := s2.collEarly.filter fun m => !mine m }

/-- A COLL reaches its engine (R349 to R351). -/
def collStart (s : State) (die : Nat) (o : Org) (c : CollCmd) : State :=
  let p := s.ownOf o.elem o.ctx
  let seed : CollRun := { org := o, slot := p, cmd := c, gid := 0, seqNo := 0, topo := 0, members := [], rank := 0, own := [], acc := [] }
  let add (s : State) (r : CollRun) : State := s.modColl die fun x => { x with runs := x.runs ++ [r] }
  let bad (s : State) (code va : Nat) : State :=
    (if s.policy o code = 0 then s.modColl die fun x => { x with starting := x.starting ++ [⟨o, p, c, none⟩] }
      else (add s seed).collEnd die seed code).fabFault o code va 3
  match s.gget p c.desc 64 with
  | .error (e, va) => bad s e va
  | .ok (s1, bs) =>
    let x := leNat bs
    let n := bitsOf x 0 8 + 1
    match s1.gget p (c.desc + 64) (8 * n) with
    | .error (e, va) => bad s1 e va
    | .ok (s2, es) =>
      let gid : Word := BitVec.ofNat 32 (bitsOf x 64 32)
      let refs := (List.range n).map fun k => leNat ((es.drop (8 * k)).take 8)
      let k := s2.collCount p gid
      let s3 := s2.countColl p gid
      let rank := refs.findIdx? fun r => refMod r == s.dev.modId && refSlot r == p
      let twice : Bool := (refs.map fun r => (refMod r, refSlot r)).eraseDups.length != n
      let r0 := { seed with gid := gid, seqNo := k, topo := bitsOf x 8 1, members := refs, rank := rank.getD n }
      -- a descriptor that breaks a rule ends every member's COLL
      if groupBad x n || twice || rank.isNone || !s3.landOk r0 then (add s3 r0).collBreaks die r0 else s3.collRead die r0

/-- The stores and messages of a COLL that wait are done again (R213, R303). -/
def collOwed (s : State) (die : Nat) (r : CollRun) : State :=
  let s1 := s.putColl die { r with owed := [], late := [] }
  let s2 := r.owed.foldl (fun s x => s.onColl r fun s die y => s.collStore die y x.1 x.2) s1
  (r.late.foldl (fun s m => s.onColl r fun s die y => s.collRecv die y m 0) s2).collRest r.slot r.gid r.seqNo

/-- A COLL that waits in the fault queue goes on. -/
def retryColl (s : State) (w : FqWait) : State :=
  let mine (o : Org) : Bool := o.elem == w.elem && o.seq == w.seq
  match s.coll.rows.findSome? fun r => (r.2.starting.find? fun x => mine x.org).map fun x => (r.1, x) with
  | some (die, x) =>
    let s1 := s.modColl die fun z => { z with starting := z.starting.filter fun y => !mine y.org }
    (match x.run with
     | some r => s1.collRead die r
     | none => s1.collStart die x.org x.cmd)
  | none =>
    match s.coll.rows.findSome? fun r => (r.2.runs.find? fun x => mine x.org && !(x.owed.isEmpty && x.late.isEmpty)).map fun x => (r.1, x) with
    | some (die, r) => s.collOwed die r
    | none => s

/-- A COLL of this slot and group waits to read its operands: its messages come early. -/
def collWaits (s : State) (p : Nat) (gid : Word) (k : Nat) : Bool :=
  s.coll.rows.any fun r => r.2.starting.any fun x => match x.run with | some y => y.slot == p && y.gid == gid && y.seqNo == k | none => false

end State

/-- COLL_MESSAGE (R349 to R351): message n reaches its COLL; one for a COLL that this slot has not issued yet waits for it. -/
def execCollMessage (n : Nat) (s : State) : Out :=
  match s.rxTurn n with
  | none => .next s
  | some x =>
    match x.msg.body, x.adm with
    | .coll gid k _ _ _ _ _ _ _, some adm =>
      if x.eff then .next s
      else
        let s1 := s.putRx n { x with eff := true }
        match s1.findColl x.msg.dslot gid k with
        | some (die, r) => .next (s1.collRecv die r x.msg adm)
        | none => if s1.collCount x.msg.dslot gid ≤ k || s1.collWaits x.msg.dslot gid k then .next { s1 with collEarly := s1.collEarly ++ [x.msg] } else .next s1
    | _, _ => .next s

end Sys2Proof.Machine
end

