-- ==== Sys2Proof/Machine/Leave.lean ====
section
/-! DEFINITION. TOKEN_LEAVE: the send queue of an element lets its head go under the causal token rule (R145, R220, R223, R225, R226, R233, R324, R329). -/

namespace Sys2Proof.Machine

/-- Earlier memory commands of an activation that its engine has not finished, or that still wait to leave (R220). -/
def State.copyPending (s : State) (o : Org) : Bool :=
  ((s.clus (clusNo o.elem)).eng.any fun c => c.org.elem == o.elem && c.org.aid == o.aid && c.org.seq < o.seq)
    || ((s.elem o.elem).sendq.any fun i => match i.msg with | .engine c => c.org.aid == o.aid && c.org.seq < o.seq | _ => false)

/-- Earlier DISPs and COLLs of an activation without a final outcome (R233). -/
def State.fabPending (s : State) (o : Org) : Bool :=
  let mine (p : Org) : Bool := p.elem == o.elem && p.aid == o.aid && p.seq < o.seq
  (s.disp.rows.any fun r => r.2.ents.any fun e => mine e.org) || (s.coll.rows.any fun r => (r.2.runs.any fun x => mine x.org) || r.2.starting.any fun x => mine x.org)
    || s.net.any fun f => match f.msg with | .disp p _ _ => mine p | _ => false

/-- The causal token rule at a scope (R145, R220, R225): at element scope a store is performed when it is issued (R218). -/
def State.causal (s : State) (o : Org) (scope : Nat) : Bool :=
  let e := s.elem o.elem
  let late (x : Acc) : Bool := x.org.aid == o.aid && x.org.seq < o.seq && x.kind.isAccess && (scope != 0 || !(x.kind == .store || x.kind == .stl))
  !(e.memq.any late) && !s.freePending o && !s.copyPending o && !e.markPending o

/-- The causal token rule for what leaves at a scope that may be the system's: stores to host memory are performed there once the host has completed them (R218). A token
never waits for that (note f of R219). -/
def State.causalSys (s : State) (o : Org) (scope : Nat) : Bool := s.causal o scope && !(scope = 4 && s.hostPending o)

/-- A LNCH of the activation that the control complex has not applied (R329). -/
def State.lnchPending (s : State) (o : Org) : Bool :=
  s.net.any fun f => match f.msg with | .lnch p _ _ _ => p.elem == o.elem && p.aid == o.aid && p.seq < o.seq | _ => false

/-- The scope of a message to an element: element scope to the sender itself, else a wider one (R145). -/
def scopeTo (a d : Nat) : Nat := if a = d then 0 else 3

/-- The head of a send queue may leave. An engine, a dispatch or a collective command leaves once every earlier write is performed where the engine reads, at the narrowest
scope at cluster scope (R226). -/
def State.mayLeave (s : State) (i : SendItem) : Bool :=
  let o := i.org
  let a := o.elem
  match i.msg with
  | .tok t =>
    if i.otok then s.causal o (i.scope.getD 3) && !((s.elem a).accPending o && i.scope != some 0) && !s.enginePending o && !s.fabPending o
    else s.causal o (match s.absOf a o.ctx (hElem t.fh) with | some d => scopeTo a d | none => 3)
  | .free _ _ _ | .tful _ _ _ => s.causal o (match s.storageMsg i.msg with | some (d, _) => scopeTo a d | none => 3)
  | .engine _ => s.causalSys o (max 1 (i.scope.getD 3)) && (s.clus (clusNo a)).eng.length < 32
  | .ph _ _ _ rl scope => !rl || (!(s.elem a).accPending o && !(scope = 4 && s.hostPending o))
  | .disp _ c _ => s.causalSys o (max 1 (i.scope.getD 3)) && (match s.dispList o c with
    | some l => ((s.dispEng (dieFor a)).ents.filter fun e => e.list == l && !e.sent).length < 512
    | none => true)
  | .coll _ _ _ => s.causalSys o (max 1 (i.scope.getD 3))
  | .dflsh _ _ _ | .sysc _ _ _ => s.causalSys o (i.scope.getD 3)
  | .kick _ _ _ _ => s.causalSys o 4 && !s.lnchPending o
  | _ => true

/-- A message that names no element of the partition is dropped (R289): its request slot is free, and its continuation receives nothing. -/
def State.leaveDrop (s : State) (o : Org) (fh : Word) : State := ((s.hedgeDrop { o with tag := 0 } 0 fh).freeReq o.elem o.slot).countRefused o

/-- What leaves. -/
def State.letGo (s : State) (i : SendItem) : State :=
  let o := i.org
  let a := o.elem
  let own := s.ownOf a o.ctx
  match i.msg with
  | .tok t => if i.paid then s.injectToken o t false else (s.modElem a fun e => e.count own 3 1).injectToken o t true
  | .alloc _ | .free _ _ _ | .hold _ _ _ | .tful _ _ _ | .aqry _ _ _ _ =>
    let fh : Word := match i.msg with | .free _ h _ | .hold _ h _ | .tful _ h _ => h | _ => 0
    (match s.storageMsg i.msg with
     | some (d, _) => s.post (.elem a) (.elem d) 0 0 own false i.msg
     | none => s.leaveDrop o fh)
  | .engine c => s.modClus (clusNo a) fun x => { x with eng := x.eng ++ [c] }
  | .ph _ id _ _ _ | .bind _ id _ _ _ =>
    (match s.phaserAt a o.ctx id with
     | some (c, _) => s.post (.elem a) (.clus c) 3 0 own false i.msg
     | none => s.leaveDrop o 0)
  | .disp _ _ _ | .dflsh _ _ _ => s.post (.elem a) (.disp (dieFor a)) 3 0 own false i.msg
  | .coll _ c _ => s.collStart (dieFor a) o c
  | .kick _ _ _ _ | .lnch _ _ _ _ => s.post (.elem a) .cp 3 0 own false i.msg
  | .sysc _ v x => (s.ringPush (s.ringFn a o.ctx) (s.dataRec o 0x89 x)).vecEvent own v
  | _ => s

/-- TOKEN_LEAVE (R145, R220): the queue's entries leave in issue order; those of a frozen tenant stand still and hold its co-tenant's back no longer (R293). -/
def execTokenLeave (elem : Nat) (s : State) : Out :=
  let q := (s.elem elem).sendq
  match q.findIdx? fun i => !(s.part (s.ownOf elem i.org.ctx)).frozen with
  | none => .next s
  | some k => match q[k]? with
    | none => .next s
    | some i => if s.mayLeave i then .next ((s.modElem elem fun e => { e with sendq := dropAt q k }).letGo i) else .next s

end Sys2Proof.Machine
end

