-- ==== Sys2Proof/Machine/Power.lean ====
section
/-! DEFINITION. Gated storage that wakes, and the patrol scrubber (R124, R125, R155, R204). -/

namespace Sys2Proof.Machine

/-- A context of the tenant that a third of a local store belongs to; none without one (R291). -/
def State.tenantOf (s : State) (a k : Nat) : Option Nat :=
  let h := (s.clus (clusNo a)).hedges
  let h0 := nth h 0 {}
  let h1 := nth h 1 {}
  if h0.v && h1.v then (if k < h0.shr then some 0 else if k < h0.shr + h1.shr then some 4 else none)
  else if h0.v || h1.v then some 0 else none

/-- THIRD_WAKE_DONE (R125): after 2 µs a waking third is ON and reads as zero. -/
def execThirdWakeDone (elem k : Nat) (s : State) : Out :=
  match nth (s.elem elem).thirds k .on with
  | .waking t =>
    if s.now < t then .next s
    else
      let lo := 0x20000 * k
      .next ((s.modElem elem fun e =>
        { e with thirds := setAt e.thirds k .on, mem := Memory.clear e.mem lo (lo + 0x20000),
                 ecc := e.ecc.filter fun f => !(f.array == 0 && lo / 8 ≤ f.at_ && f.at_ < (lo + 0x20000) / 8) }).allocTouched elem)
  | _ => .next s

/-- Words of a third that no partition owns are read: every error is logged, and heard by the PF. -/
def State.scrubFree (s : State) (a : Nat) (words : List Nat) : State :=
  let e := s.elem a
  let hit := eccHits e 0 words
  if hit.isEmpty then s
  else
    let e1 := hit.foldl (fun e f => logEvent e f 0) { e with ecc := readFlips e.ecc fun f => f.array == 0 && words.contains f.at_ }
    hit.foldl (fun s _ => s.ringPush 128 (Config.openRecord (freeIdx a 3 0))) (s.setElem a e1)

/-- PATROL_SCRUB (R124): every word of an awake third is read. Of a third that belongs to no partition the PF alone hears (R302). -/
def execPatrolScrub (elem k : Nat) (s : State) : Out :=
  let e := s.elem elem
  if 3 ≤ k ∨ nth e.thirds k .off ≠ .on then .next s
  else
    let words := (e.ecc.filter fun f => f.array == 0 && f.at_ / 0x4000 == k).map fun f => f.at_
    match s.tenantOf elem k with
    | some t =>
      let c := s.ctxNow elem t
      .next (s.eccFatal elem c { elem := elem, ctx := c } [(0, words)]).1
    | none =>
      .next (s.scrubFree elem words)

/-- Wakes a way group whose time has come. -/
def wakeGroup (w : List Ways) (g now : Nat) : List Ways :=
  match nth w g .on with
  | .waking t => if now < t then w else setAt w g .on
  | _ => w

/-- WAYS_WAKE_DONE (R155, R204): a way group of a home slice (kind 0) or of a read cache (kind 1) is on again, empty. -/
def execWaysWakeDone (kind unit group : Nat) (s : State) : Out :=
  if kind = 1 then .next (s.modClus unit fun x => { x with ways := wakeGroup x.ways group s.now })
  else
    let x := s.slices.get {} unit
    .next { s with slices := s.slices.put unit { x with ways := wakeGroup x.ways group s.now } }

end Sys2Proof.Machine
end

