-- ==== Sys2Proof/Machine/Meter.lean ====
section
/-! DEFINITION. The Ndoeno meter: usage records (R298 to R300) and the rings they go to (R301, R302). -/

namespace Sys2Proof.Machine

/-- The device's top-level public key as the digests take it (R299, R311). -/
def deviceKey : List Nat := [0x4B31]

/-- A 256-bit digest. -/
def digest256 (xs : List Nat) : Nat := Config.digest xs % 2 ^ 256

/-- The body of a usage record (R299): 192 bytes as a number. -/
def Part.recordBody (x : Part) (p kind seqNo : Nat) : Nat :=
  let cnt := (List.range 7).foldl (fun t k => t + x.counter k * 2 ^ (256 + 64 * k)) 0
  kind + p % 256 * 2 ^ 8 + p % 256 * 2 ^ 16 + 2 ^ 24 + seqNo % 2 ^ 64 * 2 ^ 64 + x.tEnd % 2 ^ 64 * 2 ^ 128 + x.guest / 7 % 2 ^ 64 * 2 ^ 192 + cnt
    + digest256 deviceKey * 2 ^ 704 + x.prev * 2 ^ 960

namespace State

/-- The ring that a waiting record is for: the PF's, or a tenant's of its error page. -/
def meterRing (s : State) (f : Nat) : Ring := (s.fn f).mring

/-- Slots of a meter ring (R301, R302): METER_RING gives the PF's. -/
def meterSlots (s : State) (f : Nat) : Nat := if f = 128 then s.dev.mslots else 2 ^ ((s.meterRing f).sz + 4)

/-- Writes one usage record into its ring: none when the ring is off or full, or its memory fails (R301). -/
def meterPut (s : State) (f : Nat) (bytes : List Byte) : Option State :=
  let r := s.meterRing f
  let n := s.meterSlots f
  let va : Nat := (if f = 128 then s.dev.mbase else r.base) + 4096 * (r.wr.toNat % n)
  let up (x : State) : State := x.modFn f fun y => { y with mring := { y.mring with wr := y.mring.wr + 1 } }
  if n = 0 || (r.wr - r.rd).toNat == n || (f != 128 && !r.en) then none
  else if f = 128 then (if s.hostFails va bytes.length then none else some (up { s with host := Memory.write s.host va bytes }))
  else match s.gput f va bytes with
    | .ok s1 => some (up s1)
    | .error _ => none

/-- Waiting records go to their rings in order, as far as these have room (R301); a harvested device keeps them (R310). -/
def meterDrain (s : State) : State :=
  if !s.up then s
  else s.dev.waiting.foldl (fun s r =>
    match (if (s.dev.waiting.any fun q => q.fn == r.fn) then none else s.meterPut r.fn r.bytes) with
    | some s1 => s1
    | none => { s with dev := { s.dev with waiting := s.dev.waiting ++ [r] } }) { s with dev := { s.dev with waiting := [] } }

/-- Sends a record to a ring; it waits where the ring cannot take it (R301). -/
def meterSend (s : State) (f : Nat) (bytes : List Byte) : State :=
  ({ s with dev := { s.dev with waiting := s.dev.waiting ++ [{ fn := f, bytes := bytes }] } } : State).meterDrain

/-- Emits a usage record of a kind for a slot (R299 to R301): to the PF's ring and to the tenant's where it is enabled. -/
def emitRecord (s : State) (p kind : Nat) : State :=
  let s1 := s.sample p
  let x := s1.part p
  let seqNo : Nat := if kind = 0 then 0 else x.seqNo + 1
  let y : Part := if kind = 0 then { x with prev := 0, tEnd := 0 } else x
  let body := leBytes 192 (y.recordBody p kind seqNo)
  let sig := leBytes 3604 (Config.signature s.dev.leafNo (body.map BitVec.toNat))
  let bytes := body ++ sig ++ List.replicate 44 0
  let s2 : State := { s1.modPart p fun x => { x with seqNo := seqNo, prev := digest256 (bytes.map BitVec.toNat), tEnd := x.guest / 7 } with
                      dev := { s1.dev with leafNo := s1.dev.leafNo + 1 } }
  let s3 := s2.meterSend 128 bytes
  if (s3.meterRing p).en then s3.meterSend p bytes else s3

end State

/-- METER_PERIODIC_RECORD (R299, R301): guest time has passed a multiple of the period, and no record waits. -/
def execMeterPeriodicRecord (slot : Nat) (s : State) : Out :=
  let x := s.part slot
  let span : Nat := x.period * 1000000000
  if !s.up || !x.live || !s.dev.waiting.isEmpty || x.guest / 7 / span ≤ x.tEnd / span then .next s else .next (s.emitRecord slot 1)

end Sys2Proof.Machine
end

