-- ==== Sys2Proof/Machine/Loader.lean ====
section
/-! DEFINITION. Loading a context stack: the validation of a window (R35, R36), images (R273), the checks of a LAUNCH (R275, R286, R291), its entry
into the elements, and the contexts of a stack (R278, R281). -/

namespace Sys2Proof

/-- The selectors of a word that may read an input (R28). -/
def Instr.selectors (i : Instr) : List Sel :=
  match i.shape with
  | .a _ o => [o.d, o.a, o.b, o.c]
  | .y _ o => [o.a, o.b, o.c]
  | .m _ o => [o.d, o.a, o.b, o.c]
  | .k _ o => [o.d, o.a, o.b, o.c]
  | .s _ o => [o.d, o.a, o.b, o.c]
  | .x _ o => [o.d, o.a, o.b]
  | _ => []

/-- Reads input n or a higher one (R35, BAD_SELECTOR). -/
def Sel.pastInput (n : Nat) : Sel → Bool
  | .inp k => n ≤ k.val
  | _ => false

namespace Machine

-- Windows (R35) -----------------------------------------------------------------------------------------------------------------------

/-- Where a word of a window stands: where a head is expected, or as body word `pos` (from 1) of a SEQ with so many inputs. -/
inductive Role
  | head
  | body (nin pos : Nat)
  deriving DecidableEq, Repr

/-- A SEQ head's inputs and body length LIT[7:0] (R20), whatever else the word holds. -/
def seqClaim (w : NWord) : Option (Nat × Nat) :=
  match decodeRaw w with
  | some (.seq o) => some (o.nin.toNat + 1, o.lit.toNat % 256)
  | _ => none

/-- The roles of a window's words from its word 0; `left` words, the next of them body word `pos`, still belong to the body of a SEQ with `nin` inputs. -/
def rolesFrom (left nin pos : Nat) : List NWord → List Role
  | [] => []
  | w :: ws =>
    match left with
    | k + 1 => .body nin pos :: rolesFrom k nin (pos + 1) ws
    | 0 => match seqClaim w with
      | some (n, l) => .head :: rolesFrom l n 1 ws
      | none => .head :: rolesFrom 0 0 1 ws

/-- An OSEC at a place other than body word 1 (R247, BAD_FIELD). -/
def osecMisplaced (i : Instr) (r : Role) : Bool :=
  match i, r with
  | .osec _, .body _ pos => pos != 1
  | .osec _, .head => true
  | _, _ => false

/-- A head word's fields, whatever else the word holds. -/
def rawHead (w : NWord) : Option OpN :=
  match decodeRaw w with
  | some i => if i.isHead then some (OpN.ofWord w) else none
  | none => none

/-- A DST that names a word outside the window, a body word, or a port that the target head does not have (R35, BAD_NODE_REF). -/
def dstFault (ws : List NWord) (rs : List Role) (d : Dst) : Bool :=
  d.mode != 0 && (match rs[d.node.toNat]?, ws[d.node.toNat]? with
    | some .head, some w => (match rawHead w with | some o => o.nin.toNat + 1 ≤ d.port.toNat | none => false)
    | _, _ => true)

/-- The first reason for which word j of a window fails, in the order of R35. -/
def wordFault (ws : List NWord) (rs : List Role) (j : Nat) (w : NWord) (r : Role) : Option Reason :=
  match decodeRaw w with
  | none => some .rsvOpcode
  | some i =>
    let inBody : Bool := r != .head
    let nin : Nat := match r with | .body n _ => n | .head => 4
    let long : Bool := match i with | .seq o => ws.length < j + 1 + o.lit.toNat | _ => false
    if fmtRsv w || i.rsvBits then some .rsvBits
    else if i.badSel || i.selectors.any (Sel.pastInput nin) then some .badSelector
    else if i.badType then some .badType
    else if i.badField || osecMisplaced i r then some .badField
    else if inBody && i.isHead then some .bodyHead
    else if !inBody && !i.isHead then some .strayWord
    else if i.badNone || i.dsts.any (dstFault ws rs) then some .badNodeRef
    else if i.badLit then some .badLiteral
    else if i.badLen || long then some .badLength
    else none

/-- The first failing word of a window, from word j on. -/
def windowFrom (ws : List NWord) (rs : List Role) (j : Nat) : List (NWord × Role) → Option (Nat × Reason)
  | [] => none
  | x :: xs => match wordFault ws rs j x.1 x.2 with
    | some e => some (j, e)
    | none => windowFrom ws rs (j + 1) xs

/-- The lowest failing word of a window with its reason (R35, R36). -/
def windowFault (ws : List NWord) : Option (Nat × Reason) :=
  let rs := rolesFrom 0 0 1 ws
  windowFrom ws rs 0 (ws.zip rs)

-- Images (R118, R273) ---------------------------------------------------------------------------------------------------------------

/-- A context-store entry from its 256 bits (R118). -/
def CtxEntry.ofNat (x : Nat) : CtxEntry :=
  { wbase := bitsOf x 244 12, wlen := bitsOf x 231 13, lmax := bitsOf x 228 3, bypl := bitsOf x 224 4, mask := BitVec.ofNat 16 (bitsOf x 208 16),
    trap := Dst.ofBits (BitVec.ofNat 16 (bitsOf x 192 16)), idle := Dst.ofBits (BitVec.ofNat 16 (bitsOf x 176 16)),
    pv := BitVec.ofNat 4 (bitsOf x 172 4),
    pools := (List.range 4).map fun p => { base := bitsOf x (36 * p + 22) 14, size := bitsOf x (36 * p + 8) 14, esc := bitsOf x (36 * p) 8 } }

/-- The pools that an entry defines. -/
def CtxEntry.defined (c : CtxEntry) : List Pool := ((List.range 4).filter fun p => c.pv.getLsbD p).map fun p => nth c.pools p {}

/-- An entry's 256 bits break no rule of R118. -/
def entryOk (x : Nat) : Bool :=
  let c := CtxEntry.ofNat x
  1 ≤ c.wlen && c.wlen ≤ 4096 && c.wbase + c.wlen ≤ 4096 && c.lmax ≤ 5 && bitsOf x 144 28 == 0
    && c.defined.all fun p => 1 ≤ p.size && p.esc ≤ p.size && p.base + p.size ≤ 12288

/-- What the command processor reads for a LAUNCH: header, context records with their node words, tree table and launch records, as numbers. -/
structure RawStack where
  hdr : Nat
  ctxs : List (Nat × List NWord)
  trees : List Nat
  recs : List Nat

/-- n little-endian numbers of k bytes each. -/
def numbers (k n : Nat) (bs : List Byte) : List Nat := (List.range n).map fun i => leNat ((bs.drop (k * i)).take k)

namespace State

/-- Reads n numbers of k bytes each from a partition's memory; a fault comes with its address. -/
def readNumbers (s : State) (p va k n : Nat) : Except (Nat × Nat) (State × List Nat) :=
  match s.gget p va (k * n) with
  | .error e => .error e
  | .ok (s1, bs) => .ok (s1, numbers k n bs)

/-- The context records of an image with the node words they point to. -/
def readCtxs (s : State) (p : Nat) : List Nat → Except (Nat × Nat) (State × List (Nat × List NWord))
  | [] => .ok (s, [])
  | x :: xs => match s.readNumbers p (bitsOf x 320 64) 12 (bitsOf x 231 13) with
    | .error e => .error e
    | .ok (s1, ws) => match readCtxs s1 p xs with
      | .error e => .error e
      | .ok (s2, r) => .ok (s2, (x, ws.map (BitVec.ofNat 96)) :: r)

/-- Reads what a LAUNCH names (R275): its image, node words, launch records and tree table. -/
def readStack (s : State) (p cstk recs nrec : Nat) : Except (Nat × Nat) (State × RawStack) := do
  let (s1, h) ← s.readNumbers p cstk 64 1
  let hdr := nth h 0 0
  let (s2, cs) ← s1.readNumbers p (cstk + 64) 64 (bitsOf hdr 0 3 + 1)
  let (s3, ctxs) ← s2.readCtxs p cs
  let (s4, rs) ← s3.readNumbers p recs 64 nrec
  let (s5, ts) ← s4.readNumbers p (bitsOf hdr 416 64) 8 (bitsOf hdr 480 32)
  return (s5, { hdr := hdr, ctxs := ctxs, trees := ts, recs := rs })

end State

/-- The context of a context record (R273). -/
def ctxImg (x : Nat × List NWord) : CtxImg :=
  { cidx := bitsOf x.1 256 3, entry := { CtxEntry.ofNat x.1 with fpol := bitsOf x.1 384 2 }, words := x.2 }

/-- The handlers of the classes that an image marks valid (R273). -/
def classesOf (hdr : Nat) : List (Nat × ClassEnt) :=
  ((List.range 16).filter fun c => bitsOf hdr (32 + 16 * c + 15) 1 == 1).map fun c =>
    (c, { node := bitsOf hdr (32 + 16 * c) 12, ch := bitsOf hdr (32 + 16 * c + 12) 3, valid := true })

/-- The TREE masks of a class, by relative cluster; a later entry of one router replaces an earlier one. -/
def treeOf (c : Nat) (trees : List Nat) : Table Nat :=
  (trees.filter fun t => bitsOf t 0 4 == c).foldl (fun m t =>
    let k := bitsOf t 22 5 * 64 + bitsOf t 16 6
    let v := bitsOf t 27 21
    if v = 0 then m.erase k else m.put k v) .empty

/-- The routes of the valid classes (R273). -/
def routesOf (hdr : Nat) (trees : List Nat) : List ClassRoute :=
  (classesOf hdr).map fun r =>
    let x := bitsOf hdr (288 + 8 * r.1) 8
    let mode := bitsOf x 0 2
    { cls := r.1, prio := bitsOf x 4 3, mode := mode, iq := bitsOf x 2 2, tree := if mode = 2 then treeOf r.1 trees else .empty }

-- The checks of a LAUNCH (R275) -------------------------------------------------------------------------------------------------------

/-- Two rectangles meet. -/
def rectsMeet (ax ay aw ah bx by_ bw bh : Nat) : Bool := meets ax aw bx bw && meets ay ah by_ bh

/-- Two stacks' rectangles. -/
def StackRun.sameRect (a b : StackRun) : Bool := a.x0 == b.x0 && a.y0 == b.y0 && a.w == b.w && a.h == b.h

def StackRun.meetsRect (a b : StackRun) : Bool := rectsMeet a.x0 a.y0 a.w a.h b.x0 b.y0 b.w b.h

/-- The stacks that a region holds. -/
def Region.stacks (g : Region) : List StackRun := g.run.toList ++ g.parked.toList ++ g.next.toList

/-- Items at different places of a list are never in relation. -/
def noPair {α : Type} (r : α → α → Bool) : List α → Bool
  | [] => true
  | x :: xs => (xs.all fun y => !r x y) && noPair r xs

namespace State

/-- A class's route is admitted for a partition's rectangle (R286). -/
def routeOk (s : State) (p : Nat) (r : ClassRoute) : Bool :=
  let x := s.part p
  r.mode != 3 && (r.mode != 1 || (s.clustersOf p).any fun c => quadOf c == r.iq)
    && r.tree.rows.all fun t => t.1 % 64 < x.w && t.1 / 64 < x.h

/-- The stack's routes agree with those of every stack resident in the partition (R275). -/
def routesAgree (s : State) (p : Nat) (rs : List ClassRoute) : Bool :=
  (List.range 8).all fun j => (s.region p j).stacks.all fun x => rs.all fun r => x.routes.all fun q => q.cls != r.cls || q == r

/-- The rectangle meets no running stack's, but that of its own region where it is the same (R275). -/
def rectFree (s : State) (p j : Nat) (x : StackRun) : Bool :=
  (List.range 8).all fun i => (s.region p i).stacks.all fun y => !x.meetsRect y || (i == j && x.sameRect y)

/-- The granules, node-store words and context slots that a partition may use at an element (R291). -/
def tenantOk (s : State) (p a : Nat) (c : CtxImg) : Bool :=
  if !s.shared (clusNo a) then true
  else
    let ts := s.tsOf (clusNo a) p
    let r := s.share a (4 * ts)
    c.cidx / 4 == ts && 2048 * ts ≤ c.entry.wbase && c.entry.wbase + c.entry.wlen ≤ 2048 * (ts + 1)
      && c.entry.defined.all fun q => r.1 ≤ 32 * q.base && 32 * (q.base + q.size) ≤ r.2

/-- Check 1 of R275. -/
def stackOk (s : State) (p j : Nat) (x : StackRun) (raw : RawStack) : Bool :=
  let m := s.part p
  let cs := raw.ctxs.map ctxImg
  let rs := routesOf raw.hdr raw.trees
  let a := elemAt (s.hedgeOf p) x.x0 x.y0
  rs.all (s.routeOk p) && s.routesAgree p rs && x.x0 + x.w ≤ 12 * m.w && x.y0 + x.h ≤ 8 * m.h
    && noPair (fun c d => c.cidx == d.cidx) cs && cs.all (fun c => c.entry.fpol != 3) && raw.ctxs.all (fun c => entryOk (c.1 % 2 ^ 256))
    && noPair (fun c d => meets c.entry.wbase c.entry.wlen d.entry.wbase d.entry.wlen) cs && cs.all (s.tenantOk p a)
    && s.rectFree p j x

end State

/-- The failing word of a stack with the lowest context index (R36): context, word, reason. -/
def stackWords (cs : List CtxImg) : Option (Nat × Nat × Reason) :=
  (List.range 8).findSome? fun k => match cs.find? fun c => c.cidx == k with
    | some c => (windowFault c.words).map fun r => (k, r)
    | none => none

/-- The first failing record of a LAUNCH from record i on (R157): record, check. -/
def recordsFault (cs : List CtxImg) (j : Nat) (i : Nat) : List Nat → Option (Nat × Nat)
  | [] => none
  | x :: xs =>
    let c := cs.find? fun c => c.cidx == (LaunchRec.ofNat x).ctx
    let words : List NWord := match c with | some c => c.words | none => []
    let entry : CtxEntry := match c with | some c => c.entry | none => {}
    match recordFault x (fun k => cs.any fun c => c.cidx == k) j (fun n => match words[n]? with | some w => State.headOf w | none => none) entry with
    | some n => some (i, n)
    | none => recordsFault cs j (i + 1) xs

/-- The checks of R275 in order: the image, or the code and the record's detail of the first that fails. -/
def State.checkStack (s : State) (p j : Nat) (x : StackRun) (raw : RawStack) : Except (Nat × Nat) StackImg :=
  let cs := raw.ctxs.map ctxImg
  if !s.stackOk p j x raw then .error (0x73, 0)
  else match stackWords cs with
    | some (k, n, r) => .error (0x70, k * 2 ^ 29 + n * 2 ^ 17 + r.code)
    | none => match recordsFault cs j 0 raw.recs with
      | some (i, n) => .error (0x45, i * 2 ^ 16 + n)
      | none => .ok { ctxs := cs, routes := routesOf raw.hdr raw.trees, classes := classesOf raw.hdr, recs := raw.recs.map LaunchRec.ofNat }

-- Entering a stack ------------------------------------------------------------------------------------------------------------------------

/-- A window's words entered at their place in the node store. -/
def putWords (t : Table NWord) (at_ : Nat) : List NWord → Table NWord
  | [] => t
  | w :: ws => putWords (t.put at_ w) (at_ + 1) ws

/-- An element with a stack's windows, context entries and class handlers entered (R275), its injected errors met (R309); `ts` is the tenant slot. -/
def Elem.loadStack (e : Elem) (ts j : Nat) (service : Bool) (img : StackImg) : Elem :=
  let e1 : Elem := img.ctxs.foldl (fun e c =>
    { e with nodes := putWords e.nodes c.entry.wbase c.words
             ctxs := e.ctxs.put c.cidx { c.entry with region := j, live := true, service := service } }) e
  let wrote (f : Flip) : Bool := match f.array with
    | 1 => img.ctxs.any fun c => c.entry.wbase ≤ f.at_ && f.at_ < c.entry.wbase + c.words.length
    | 3 => img.ctxs.any fun c => c.cidx == f.at_
    | _ => false
  { e1 with ecc := wroteFlips e1.ecc wrote, classes := img.classes.foldl (fun t r => t.put (16 * ts + r.1) r.2) e1.classes }

namespace State

/-- The elements of a rectangle of a partition, counted row-major. -/
def rectElems (s : State) (p x0 y0 w h : Nat) : List Nat :=
  let hd := s.hedgeOf p
  (List.range h).flatMap fun j => (List.range w).map fun i => elemAt hd (x0 + i) (y0 + j)

/-- The routes of a stack's classes in every router of the partition (R273). -/
def loadRoutes (s : State) (p : Nat) (rs : List ClassRoute) : State :=
  let x := s.part p
  (s.clustersOf p).foldl (fun s c =>
    let ts := s.tsOf c p
    s.modClus c fun y =>
      { y with routes := rs.foldl (fun t r =>
          t.put (16 * ts + r.cls) { prio := r.prio, mode := r.mode, iq := r.iq, tree := r.tree.get 0 ((c / 48 - x.y0) * 64 + (c % 48 - x.x0)) }) y.routes }) s

/-- Makes a stack resident: its contexts in every element of its rectangle, its routes in the partition's routers. -/
def enterStack (s : State) (p j : Nat) (x : StackRun) (img : StackImg) : State :=
  let s1 := (s.rectElems p x.x0 x.y0 x.w x.h).foldl (fun s a => s.modElem a fun e => e.loadStack (s.tsOf (clusNo a) p) j x.service img) s
  s1.loadRoutes p img.routes

/-- The context at a stack's place starts (R231, R280, R281): it is current, its section cursors are at their start, its records are armed. -/
def startCtx (s : State) (p j : Nat) (x : StackRun) : State :=
  let k := nth x.ctxs x.pos 0
  let arm := (x.recs.filter fun r => r.2.ctx == k).map fun r => r.2
  let s1 := s.modRegion p j fun g =>
    { g with cur := some k, run := some { x with arm := arm }, cursors := g.cursors.keep fun i _ => i / 16 != k, wave := none, lastEvent := s.t7 }
  armMore p j 8 s1

/-- A stack runs from its first context in its region (R275, R278). Regions of the partition that hold no stack give up the elements it takes. -/
def runStack (s : State) (p j : Nat) (x : StackRun) : State :=
  let s1 := (List.range 8).foldl (fun s i =>
    let g := s.region p i
    if i != j && g.used && g.stacks.isEmpty && rectsMeet x.x0 x.y0 x.w x.h g.x0 g.y0 g.w g.h then s.modRegion p i fun g => { g with used := false }
    else s) s
  (s1.modRegion p j fun g => { g with used := true, x0 := x.x0, y0 := x.y0, w := x.w, h := x.h }).startCtx p j x

/-- The stack's contexts leave the context stores (R280). -/
def leaveStack (s : State) (p : Nat) (x : StackRun) : State :=
  (s.rectElems p x.x0 x.y0 x.w x.h).foldl (fun s a => s.modElem a fun e => { e with ctxs := e.ctxs.keep fun k _ => !x.ctxs.contains k }) s

def modPkt (s : State) (pid : Nat) (f : Pkt → Pkt) : State :=
  match s.pkts.find? pid with
  | some x => { s with pkts := s.pkts.put pid (f x) }
  | none => s

/-- A packet's own work is over; `code` is the fault it completes with and `detail` its record's (R269, R305). -/
def endPkt (s : State) (pid : Nat) (code : Option Nat) (detail : Nat) : State :=
  s.modPkt pid fun x => { x with done := true, fault := code, detail := detail }

/-- An access of the command processor for a packet faults: its record, and the end of the packet (R356). -/
def faultPkt (s : State) (pid f code va : Nat) : State :=
  let p : Nat := match s.pkts.find? pid with | some x => x.slot | none => f
  (s.cpFault p f code va).endPkt pid (some code) 0

end State

-- LAUNCH (R264, R275, R281) -----------------------------------------------------------------------------------------------------------------

/-- A packet's bits. -/
def Pkt.bits (x : Pkt) : Nat := leNat x.bytes

/-- A packet's TYPE (R261). -/
def Pkt.type (x : Pkt) : Nat := bitsOf x.bits 8 8

/-- The stack that a LAUNCH packet asks for, before its image is read (R264). -/
def Pkt.stackRun (x : Pkt) (pid : Nat) : StackRun :=
  let b := x.bits
  { pid := pid, x0 := bitsOf b 64 16, y0 := bitsOf b 80 16, w := bitsOf b 96 16, h := bitsOf b 112 16, ctxs := [], prio := bitsOf b 43 3,
    dist := bitsOf b 256 32, service := x.service }

/-- The stack of a LAUNCH with its checked image. -/
def Pkt.stackOf (x : Pkt) (pid : Nat) (img : StackImg) : StackRun :=
  { x.stackRun pid with ctxs := img.ctxs.map fun c => c.cidx, routes := img.routes, recs := img.recs.mapIdx fun i r => (some i, r) }

namespace State

/-- A stack's contexts and windows share nothing with those of the running stack (R281). -/
def apart (s : State) (p : Nat) (y : StackRun) (img : StackImg) : Bool :=
  let a := elemAt (s.hedgeOf p) y.x0 y.y0
  img.ctxs.all fun c => y.ctxs.all fun k =>
    let d := s.ctx a k
    c.cidx != k && !meets c.entry.wbase c.entry.wlen d.wbase d.wlen

/-- The stack of a LAUNCH takes its region, parks the stack that runs there (R281), or waits. -/
def placeStack (s : State) (pid : Nat) (x : Pkt) (img : StackImg) : State :=
  let p := x.slot
  let j := bitsOf x.bits 32 3
  let g := s.region p j
  let y := x.stackOf pid img
  match g.run with
  | none =>
    if s.rectFree p j y && s.routesAgree p img.routes then
      ((s.enterStack p j y img).runStack p j y).modPkt pid fun x => { x with stack := true, img := none }
    else s.endPkt pid (some 0x73) 0
  | some r =>
    if r.prio < y.prio && r.dist != 0 && !r.halted && g.parked.isNone && g.next.isNone && s.apart p r img then
      if !(s.rectFree p j y && s.routesAgree p img.routes) then s.endPkt pid (some 0x73) 0
      else ((s.enterStack p j y img).modRegion p j fun g => { g with parking := true, parkAt := s.cycle, next := some y }).modPkt pid
        fun x => { x with stack := true, img := none }
    else s

/-- A LAUNCH that has read nothing yet: it reads, and is checked in the order of R275. -/
def readLaunch (s : State) (pid : Nat) (x : Pkt) : State :=
  let b := x.bits
  match s.readStack x.slot (bitsOf b 128 64) (bitsOf b 192 64) (bitsOf b 48 16) with
  | .error (c, va) => s.faultPkt pid x.fn c va
  | .ok (s1, raw) => match s1.checkStack x.slot (bitsOf b 32 3) (x.stackRun pid) raw with
    | .error (c, d) => s1.endPkt pid (some c) d
    | .ok img => (s1.modPkt pid fun x => { x with img := some img }).placeStack pid x img

end State

/-- A packet of a type whose work goes on in a partition that is not frozen. -/
def State.working (s : State) (pid type : Nat) : Option Pkt :=
  match s.pkts.find? pid with
  | some x => if x.type == type && !x.done && !(s.part x.slot).frozen then some x else none
  | none => none

/-- LAUNCH (R264, R275). -/
def execLaunch (pid : Nat) (s : State) : Out :=
  match s.working pid 1 with
  | none => .next s
  | some x =>
    if x.stack then .next s
    else match x.img with
      | none => .next (s.readLaunch pid x)
      | some img => .next (s.placeStack pid x img)

end Machine

end Sys2Proof
end

