-- ==== Sys2Proof/Machine/Queues.lean ====
section
/-! DEFINITION. The host's registers and the queues: kicks (R254 to R256), interrupt coalescing (R257), queue control (R258 to R260), slots and start decisions
(R261 to R263, R276, R277), replay (R306), KICK and LNCH at the control complex (R329, R330), the error page (R302, R304) and the admin page (R283). -/

namespace Sys2Proof.Machine

namespace State

-- Kicks (R255, R256) -------------------------------------------------------------------------------------------------------------------

/-- A kick of a queue with a write index (R255, R256). -/
def kick (s : State) (f q : Nat) (w : Word) : State :=
  let x := s.queue f q
  let d := w - x.kept
  if d = 0 ∨ 2 ^ 31 ≤ d.toNat then s
  else if 2 ^ (x.sz + 4) < (w - x.read).toNat then s.ringPush f (queueRec 0x72 q x.read 0)
  else
    let s1 := s.modQueue f q fun y => { y with kept := w, empty := false }
    if (s.part (s.queueSlot f q)).frozen then s1.modFn f fun y => { y with pending := y.pending ||| BitVec.ofNat 16 (2 ^ q) } else s1

/-- A KICK instruction's kick: a queue with EN = 0 takes none (R329). -/
def kickMsg (s : State) (f q : Nat) (w : Word) : State :=
  if (s.queue f q).en then s.kick f q w else s.ringPush f (queueRec 0x29 q 0 0)

-- Queue control (R258 to R260) -----------------------------------------------------------------------------------------------------------

/-- Enables a queue (R255, R258, R259); a fault of the write of its control block refuses it (R356). -/
def enable (s : State) (f q : Nat) : State :=
  let s1 := s.modQueue f q fun y =>
    { y with en := true, state := 1, code := 0, kept := 0, read := 0, fence := 0, passed := 0, empty := false, log := [], logOvf := false, replay := [] }
  match s1.qcbWrite f q with
  | .ok s2 => s2
  | .error c => s.cpFault (s.queueSlot f q) f c (s.queue f q).qcb

/-- The queue may be enabled: its size is a legal one, and a PF queue's target slot is live (R258, R260). -/
def mayEnable (s : State) (f q : Nat) : Bool :=
  let x := s.queue f q
  x.sz ≤ 12 && (f != 128 || (s.part x.tslot).live)

/-- RSM (R258): a halted queue goes on, with its replay where one is left (R306). -/
def resume (s : State) (f q : Nat) : State :=
  let x := s.queue f q
  if x.state = 2 ∨ x.state = 3 then
    (s.modQueue f q fun y => { y with empty := false }).queueTo f q (if x.replay.isEmpty then 1 else 4) x.code false
  else s

/-- A write of QCTL (R258). -/
def qctl (s : State) (f q : Nat) (v : Word) : State :=
  let n := v.toNat
  let x := s.queue f q
  let s1 := s.modQueue f q fun y =>
    { y with prio := bitsOf n 12 3, vec := bitsOf n 8 3, sz := if y.en then y.sz else bitsOf n 16 4,
             tslot := if y.en || f != 128 then y.tslot else bitsOf n 20 7 }
  let on : Bool := bitsOf n 31 1 == 1
  if !x.en then (if on && s1.mayEnable f q then s1.enable f q else s1)
  else if !on then (s1.modQueue f q fun y => { y with en := false }).queueTo f q 0 x.code false
  else if bitsOf n 0 1 = 1 then s1.resume f q
  else s1

-- Registers (R254, R257, R283, R302) -------------------------------------------------------------------------------------------------------

/-- One half of a 64-bit register replaced. -/
def putHalf (x k v : Nat) : Nat := setBits x (32 * k) 32 v

/-- A 32-bit write to a kick page (R254). -/
def kickPage (s : State) (f off : Nat) (v : Word) : State :=
  if off < 0x100 then (if off % 16 = 0 then s.kick f (off / 16) v else s)
  else if 0x140 ≤ off ∧ off < 0x180 then
    if off % 8 = 0 then
      let k := (off - 0x140) / 8
      s.modFn f fun x => { x with icbs := x.icbs.put k { x.icbs.get {} k with time := v.toNat / 2 ^ 16, cnt := v.toNat % 2 ^ 16 } }
    else s
  else if 0x200 ≤ off ∧ off < 0x600 then
    let q := (off - 0x200) / 64
    let r := (off - 0x200) % 64
    if r = 16 then s.qctl f q v
    else if 16 < r ∨ (s.queue f q).en then s
    else if r < 8 then s.modQueue f q fun y => { y with qbase := putHalf y.qbase (r / 4) v.toNat }
    else s.modQueue f q fun y => { y with qcb := putHalf y.qcb (r / 4 - 2) v.toNat }
  else s

/-- A 32-bit write to the four registers of a ring (R302). -/
def ringReg (r : Ring) (off : Nat) (v : Word) : Ring :=
  if off = 0 ∨ off = 4 then { r with base := putHalf r.base (off / 4) v.toNat / 4096 * 4096 }
  else if off = 8 then (if bitsOf v.toNat 0 4 ≤ 8 then { r with en := bitsOf v.toNat 31 1 == 1, sz := bitsOf v.toNat 0 4 } else r)
  else if off = 0x14 then { r with rd := v }
  else r

/-- A 32-bit write to an error page (R302, R304). -/
def errorPage (s : State) (f off : Nat) (v : Word) : State :=
  if off < 0x20 then s.modFn f fun x => { x with ering := ringReg x.ering off v }
  else if off < 0x40 then (s.modFn f fun x => { x with mring := ringReg x.mring (off - 0x20) v }).meterDrain
  else if off = 0x40 then s.modFn f fun x => { x with vuesta := x.vuesta &&& ~~~v }
  else if off = 0x44 then s.modFn f fun x => { x with vuemsk := v }
  else if off = 0x50 then s.modFn f fun x => { x with vcesta := x.vcesta &&& ~~~v }
  else if off = 0x54 then s.modFn f fun x => { x with vcemsk := v }
  else if off = 0x58 then s.modFn f fun x => { x with verrvec := v.toNat % 8 }
  else s

/-- The end of an admin command (R283): RESULT, DETAIL, BUSY falls, and its vector is raised. -/
def adminDone (s : State) (result : Nat) (detail : Word) : State :=
  let s1 : State := { s with dev := { s.dev with admin := { s.dev.admin with busy := false, run := [], result := result, detail := detail } } }
  s1.sendMsix 128 (bitsOf s.dev.admin.vec.toNat 0 3)

/-- A write of ADM_GO (R283, R284): the command is taken; an unknown code ends with BAD_ADMIN at once. -/
def adminGo (s : State) : State :=
  let a := s.dev.admin
  if a.busy then s
  else
    let s1 : State := { s with dev := { s.dev with admin := { a with busy := true, run := a.cmd, since := s.t7 } } }
    let code := (nth a.cmd 0 0).toNat % 256
    if 1 ≤ code ∧ code ≤ 0x16 then s1 else s1.adminDone 0x91 0

/-- A 32-bit write to the admin page (R283). -/
def adminPage (s : State) (off : Nat) (v : Word) : State :=
  let a := s.dev.admin
  if off < 0x40 then { s with dev := { s.dev with admin := { a with cmd := setAt a.cmd (off / 4) v } } }
  else if off = 0x40 then s.adminGo
  else if off = 0x50 then { s with dev := { s.dev with admin := { a with vec := BitVec.ofNat 11 (v.toNat % 2 ^ 11 - v.toNat % 2 ^ 8 + v.toNat % 8) } } }
  else s

/-- A 32-bit write to a page of a function's BAR: 0 kick page, 1 error page, 2 the PF's admin page. -/
def writePage (s : State) (f page off : Nat) (v : Word) : State :=
  match page with
  | 0 => s.kickPage f off v
  | 1 => s.errorPage f off v
  | 2 => if f = 128 then s.adminPage off v else s
  | _ => s

-- What the registers read as (R254 to R259, R283, R302, R303) ------------------------------------------------------------------------------

/-- The 32 bits of QCTL as they read (R258): RSM reads 0. -/
def qctlWord (x : Queue) : Nat := x.en.toNat * 2 ^ 31 + x.tslot % 128 * 2 ^ 20 + x.sz % 16 * 2 ^ 16 + x.prio % 8 * 2 ^ 12 + x.vec % 8 * 2 ^ 8

/-- The 32 bits of QSTAT (R258). -/
def qstatWord (x : Queue) : Nat := x.state % 8 * 2 ^ 29 + x.code % 256

/-- A 32-bit read of a kick page (R254, R255, R257, R258). -/
def kickReads (s : State) (f off : Nat) : Nat :=
  if off < 0x100 then (if off % 16 = 0 then (s.queue f (off / 16)).kept.toNat else 0)
  else if off = 0x100 then (s.fn f).pending.toNat
  else if 0x140 ≤ off ∧ off < 0x180 then
    let i := (s.fn f).icbs.get {} ((off - 0x140) / 8)
    if off % 8 = 0 then i.time % 2 ^ 16 * 2 ^ 16 + i.cnt % 2 ^ 16 else i.pend % 2 ^ 16
  else if 0x200 ≤ off ∧ off < 0x600 then
    let x := s.queue f ((off - 0x200) / 64)
    match (off - 0x200) % 64 with
    | 0 => x.qbase % 2 ^ 32
    | 4 => x.qbase / 2 ^ 32 % 2 ^ 32
    | 8 => x.qcb % 2 ^ 32
    | 12 => x.qcb / 2 ^ 32 % 2 ^ 32
    | 16 => qctlWord x
    | 20 => qstatWord x
    | _ => 0
  else 0

/-- A 32-bit read of a ring's registers (R302); a meter ring has no count of lost records. -/
def ringReads (r : Ring) (off : Nat) : Nat :=
  match off with
  | 0 => r.base % 2 ^ 32
  | 4 => r.base / 2 ^ 32 % 2 ^ 32
  | 8 => r.en.toNat * 2 ^ 31 + r.sz % 16
  | 0x10 => r.wr.toNat
  | 0x14 => r.rd.toNat
  | _ => 0

/-- A 32-bit read of an error page (R302, R304). -/
def errorReads (s : State) (f off : Nat) : Nat :=
  let x := s.fn f
  if off < 0x20 then (if off = 0x18 then x.ering.ovf.toNat else ringReads x.ering off)
  else if off < 0x40 then ringReads x.mring (off - 0x20)
  else match off with
  | 0x40 => x.vuesta.toNat
  | 0x44 => x.vuemsk.toNat
  | 0x50 => x.vcesta.toNat
  | 0x54 => x.vcemsk.toNat
  | 0x58 => x.verrvec % 8
  | 0x60 => x.vfep % 256
  | _ => 0

/-- A 32-bit read of the admin page (R283, R303). -/
def adminReads (s : State) (off : Nat) : Nat :=
  let a := s.dev.admin
  if off < 0x40 then (nth a.cmd (off / 4) 0).toNat
  else if off = 0x48 then a.busy.toNat * 2 ^ 31 + a.result % 256
  else if off = 0x4C then a.detail.toNat
  else if off = 0x50 then a.vec.toNat
  else if 0x400 ≤ off ∧ off < 0x800 then
    let x := s.part ((off - 0x400) / 8)
    if off % 8 = 0 then x.fqw.toNat else x.fqr.toNat
  else 0

/-- A 32-bit read of a page of a function's BAR, by the pages of `writePage`. -/
def readPage (s : State) (f page off : Nat) : Nat :=
  match page with
  | 0 => s.kickReads f off
  | 1 => s.errorReads f off
  | 2 => if f = 128 then s.adminReads off else 0
  | _ => 0

end State

/-- The functions of the device: 128 VFs and the PF (R253). -/
def isFn (f : Nat) : Bool := f ≤ 128

/-- What a host's read of a page of a function gives (R254, R255, R258, R283, R302, R303): an aligned access of 4 or 8 bytes is answered, any other ignored. A read
changes nothing. -/
def State.registerRead (s : State) (fn page off size : Nat) : Option Nat :=
  if !isFn fn || 0x1000 ≤ off || !(size == 4 || size == 8) || off % size != 0 || s.dev.mode == .off then none
  else some (s.readPage fn page off + if size = 8 then s.readPage fn page (off + 4) * 2 ^ 32 else 0)

/-- REGISTER_WRITE (R254, R258, R283, R302): an aligned access of 4 or 8 bytes; any other is ignored. -/
def execRegisterWrite (fn page off size : Nat) (v : DWord) (s : State) : Out :=
  if !isFn fn || 0x1000 ≤ off || !(size == 4 || size == 8) || off % size != 0 || s.dev.mode == .off then .next s
  else
    let s1 := s.writePage fn page off (v.setWidth 32)
    .next (if size = 8 then s1.writePage fn page (off + 4) ((v >>> 32).setWidth 32) else s1)

/-- KICK_WRITE (R255, R256, R329): a host's write of KICKq, or the KICK message n. -/
def execKickWrite (n : Option Nat) (fn q : Nat) (w : Word) (s : State) : Out :=
  match n with
  | none => if isFn fn && q < 16 then .next (s.kick fn q w) else .next s
  | some n => onMsg s n fun s x =>
    match x.msg with
    | .kick _ f q w => some (s.kickMsg f q w)
    | _ => none

/-- QUEUE_ENABLE (R255, R258, R260): a write of QCTL with EN = 1 to a queue that is off. -/
def execQueueEnable (fn q : Nat) (v : Word) (s : State) : Out :=
  if isFn fn && q < 16 && v.getLsbD 31 && !(s.queue fn q).en then .next (s.qctl fn q v) else .next s

/-- QUEUE_DISABLE (R258): a write of QCTL with EN = 0 to a queue that is on. -/
def execQueueDisable (fn q : Nat) (v : Word) (s : State) : Out :=
  if isFn fn && q < 16 && !v.getLsbD 31 && (s.queue fn q).en then .next (s.qctl fn q v) else .next s

/-- QUEUE_RESUME (R258, R262): a write of QCTL with RSM = 1 to a queue that is on. -/
def execQueueResume (fn q : Nat) (v : Word) (s : State) : Out :=
  if isFn fn && q < 16 && v.getLsbD 31 && v.getLsbD 0 && (s.queue fn q).en then .next (s.qctl fn q v) else .next s

/-- ICB_MESSAGE (R257): the vector's count or time is reached. -/
def execIcbMessage (fn v : Nat) (s : State) : Out := .next (s.icbDue fn v)

/-- MSIX_UNMASK (R257): a vector is unmasked; the message held for it is sent. -/
def execMsixUnmask (fn v : Nat) (s : State) : Out :=
  let held := (s.fn fn).vpend.get false v
  let s1 := s.modFn fn fun x => { x with vmask := x.vmask.put v false, vpend := x.vpend.erase v }
  .next (if held then s1.sendMsix fn v else s1)

-- Packets (R261 to R271) --------------------------------------------------------------------------------------------------------------------

/-- Bits lo to hi of a packet are zero. -/
def zeroIn (b lo hi : Nat) : Bool := bitsOf b lo (hi + 1 - lo) == 0

/-- The fields of a packet's layout are clean and in range (R262, R264 to R271); `nnode` is given inside a graph of that many slots. -/
def layoutOk (type x b : Nat) (nnode : Option Nat) : Bool :=
  match type with
  | 1 => zeroIn b 384 511 && zeroIn b 288 319 && zeroIn b 46 47 && zeroIn b 40 42 && zeroIn b 35 39 && bitsOf b 320 64 % 8 == 0
      && bitsOf b 192 64 % 64 == 0 && bitsOf b 128 64 % 64 == 0 && 1 ≤ bitsOf b 112 16 && 1 ≤ bitsOf b 96 16 && 1 ≤ bitsOf b 48 16
      && bitsOf b 48 16 ≤ 4096
  | 2 => zeroIn b 320 511 && zeroIn b 32 63 && bitsOf b 192 64 ≤ 2 ^ 40
  | 3 | 4 => zeroIn b 448 511 && zeroIn b 32 63 && (List.range 5).all fun k => bitsOf b (64 + 64 * k) 64 % 8 == 0
  | 5 => zeroIn b 192 511 && zeroIn b 38 63 && bitsOf b 32 2 ≤ 1 && (bitsOf b 64 64 != 0 || bitsOf b 34 1 == 1)
  | 6 => zeroIn b 256 511 && zeroIn b 160 191 && zeroIn b 48 63 && bitsOf b 64 64 % 64 == 0 && 1 ≤ bitsOf b 32 16 && bitsOf b 32 16 ≤ 4096
      && nnode.isNone
  | 7 => zeroIn b 192 511 && zeroIn b 35 47 && bitsOf b 64 64 % 8 == 0 && bitsOf b 32 3 ≤ 5
      && (match nnode with | some n => bitsOf b 48 16 < n | none => false)
  | 8 => zeroIn b 32 511
  | 9 => zeroIn b 40 63 && bitsOf b 64 64 % 8 == 0 && 1 ≤ bitsOf b 32 8 && bitsOf b 32 8 ≤ 6 + 8 * x
      && zeroIn b (128 + 64 * bitsOf b 32 8) (511 + 512 * x)
  | _ => false

/-- A packet of 64 × (1 + X) bytes passes R262. -/
def packetOk (bs : List Byte) (nnode : Option Nat) : Bool :=
  let b := leNat bs
  let type := bitsOf b 8 8
  let x := bitsOf b 0 8
  zeroIn b 16 23 && bitsOf b 27 3 ≤ 4 && bitsOf b 24 3 ≤ 4 && x ≤ (if type = 9 then 3 else 0) && layoutOk type x b nnode

/-- V and B of a packet's header (R261). -/
def hdrV (h : Nat) : Bool := bitsOf h 31 1 == 1
def hdrB (h : Nat) : Bool := bitsOf h 30 1 == 1

namespace State

/-- The address of ring slot i (R261). -/
def slotVa (x : Queue) (i : Word) : Nat := x.qbase + 64 * (i.toNat % 2 ^ (x.sz + 4))

/-- Reads ring slots from i on, as many as the header of the first asks for, four at most (R261). -/
def readPacket (s : State) (p : Nat) (x : Queue) (i : Word) : Except (Nat × Nat) (State × List Byte) :=
  match s.gget p (slotVa x i) 64 with
  | .error e => .error e
  | .ok (s1, bs) =>
    (List.range (min 3 (bitsOf (leNat bs) 0 8))).foldl (fun r k => match r with
      | .error e => .error e
      | .ok (s2, cs) => match s2.gget p (slotVa x (i + 1 + BitVec.ofNat 32 k)) 64 with
        | .error e => .error e
        | .ok (s3, ds) => .ok (s3, cs ++ ds)) (.ok (s1, bs))

/-- A queue halts at READ for a fault of the command processor's own access (R356). -/
def haltFault (s : State) (f q code va : Nat) : State := (s.cpFault (s.queueSlot f q) f code va).queueTo f q 2 code true

/-- The packets of a queue that have started and not completed, those inside a graph apart. -/
def running (s : State) (f q : Nat) : Bool := s.pkts.rows.any fun r => r.2.fn == f && r.2.q == q && r.2.graph.isNone

/-- Packet cores start no packet of a slot that is frozen or being frozen (R293). -/
def noStart (s : State) (p : Nat) : Bool := (s.part p).frozen || s.net.any fun f => f.own == p && f.msg == .frost

/-- The header at READ of a queue that is to be read (R261): none where nothing is to be read. -/
def peek (s : State) (f q : Nat) : Option (Except (Nat × Nat) Nat) :=
  let x := s.queue f q
  let p := s.queueSlot f q
  if !x.en || x.state != 1 || x.kept == x.read || x.empty || s.noStart p then none
  else match s.gget p (slotVa x x.read) 4 with
    | .error e => some (.error e)
    | .ok (_, bs) => some (.ok (leNat bs))

/-- A queue is ready (R277): its head can be started under R263, or its read ends in a halt; a queue under replay goes on with it (R306). -/
def ready (s : State) (f q : Nat) : Bool :=
  let x := s.queue f q
  if x.en && x.state == 4 then
    !s.noStart (s.queueSlot f q) && (match x.replay with
      | [] => true
      | e :: _ => !(hdrB (leNat e.bytes) && s.running f q))
  else match s.peek f q with
    | none => false
    | some (.error _) => true
    | some (.ok h) => hdrV h && !(hdrB h && s.running f q)

/-- A read of a queue's head clears its PENDING bit, and one that finds V = 0 is noted until the next kick or read (R256, R261). -/
def noteRead (s : State) (f q : Nat) : State :=
  match s.peek f q with
  | none => s
  | some h =>
    let s0 : State := match s.gget (s.queueSlot f q) (slotVa (s.queue f q) (s.queue f q).read) 4 with | .ok r => r.1 | .error _ => s
    let s1 := s0.modFn f fun x => { x with pending := x.pending &&& ~~~(BitVec.ofNat 16 (2 ^ q)) }
    match h with
    | .ok h => if hdrV h then s1 else s1.modQueue f q fun x => { x with empty := true }
    | .error _ => s1

/-- The queue that a decision of a function serves (R277): the lowest passed over in 32 decisions, else the one with the highest PRIO. -/
def chooseQueue (s : State) (f : Nat) (qs : List Nat) : Option Nat :=
  match qs.find? fun q => 32 ≤ (s.queue f q).passed with
  | some q => some q
  | none => qs.foldl (fun b q => match b with
    | none => some q
    | some c => if (s.queue f c).prio < (s.queue f q).prio then some q else some c) none

/-- An acquire by the command processor for a partition (R225, R263): at a scope above the element, its clusters' read caches give up its lines. -/
def acquireAt (s : State) (p asc : Nat) : State :=
  if asc = 0 then s else (s.clustersOf p).foldl (fun s c => s.rcDrop c (s.tsOf c p) fun _ => true) s

/-- A started packet. -/
def startPkt (s : State) (x : Pkt) : State :=
  ({ s with pkts := s.pkts.put s.pidNext x, pidNext := s.pidNext + 1 } : State).acquireAt x.slot (bitsOf (leNat x.bytes) 27 3)

/-- The packet whose stack or graph wrote ring slot i of a queue by LNCH (R272). -/
def parentOf (s : State) (f q : Nat) (i : Word) : Option Nat :=
  (s.parents.find? fun r => r.1 == f && r.2.1 == q && r.2.2.1 == i).map fun r => r.2.2.2

/-- The privilege that a packet's stack runs with (R317). -/
def serviceOf (s : State) (f : Nat) (parent : Option Nat) : Bool :=
  f == 128 || (match parent with | some k => (match s.pkts.find? k with | some y => y.service | none => false) | none => false)

/-- Starts the packet at READ of a queue (R261 to R263, R356): it is copied and judged, its header written back with V = 0, READ moved, the
packet logged, the control block written, and the acquire performed. -/
def startSlot (s : State) (f q : Nat) : State :=
  let x := s.queue f q
  let p := s.queueSlot f q
  match s.readPacket p x x.read with
  | .error (c, va) => s.haltFault f q c va
  | .ok (s1, bs) =>
    if !packetOk bs none then (s1.ringPush f (queueRec 0x71 q x.read 0)).queueTo f q 2 0x71 true
    else
      let h := bitsOf (leNat bs) 0 32
      match s1.gput p (slotVa x x.read) (leBytes 4 (h % 2 ^ 31)) with
      | .error (c, va) => s1.haltFault f q c va
      | .ok s2 =>
        let log : List LogEnt := if hdrB h then [] else x.log
        let ent : LogEnt := { index := x.read, bytes := bs }
        let s3 := s2.modQueue f q fun y =>
          { y with read := x.read + 1 + BitVec.ofNat 32 (h % 256), fence := if hdrB h then x.read else x.fence
                   log := if log.length < 256 then log ++ [ent] else log
                   logOvf := if hdrB h then false else x.logOvf || log.length == 256 }
        let parent := s3.parentOf f q x.read
        let s4 : State := { s3 with parents := s3.parents.filter fun r => !(r.1 == f && r.2.1 == q && r.2.2.1 == x.read) }
        (s4.startPkt { fn := f, q := q, slot := p, index := x.read, bytes := bs, parent := parent, service := s4.serviceOf f parent }).qcbPut f q

/-- Starts the next packet of a queue's replay (R306); with none left the queue returns to ACTIVE. -/
def startReplay (s : State) (f q : Nat) : State :=
  let x := s.queue f q
  match x.replay with
  | [] => s.queueTo f q 1 x.code false
  | e :: r =>
    let s1 := (s.modQueue f q fun y => { y with replay := r }).startPkt
      { fn := f, q := q, slot := s.queueSlot f q, index := e.index, bytes := e.bytes, mute := e.done, muted := e.recs, service := f == 128 }
    if r.isEmpty then s1.queueTo f q 1 x.code false else s1

/-- The functions that a packet core serves, from the one after `last` on (R276, R277). -/
def servedFrom (s : State) (core last : Nat) : List Nat :=
  let fs := (s.fns.rows.map fun r => r.1).filter fun f => if f = 128 then core == 0 else f % 6 == core
  (fs.filter fun f => last < f) ++ fs.filter fun f => f ≤ last

/-- The ready queues of a function. -/
def readyQueues (s : State) (f : Nat) : List Nat := (List.range 16).filter fun q => s.ready f q

/-- The function that a core's decision chooses (R277): the last one again while decisions of its weight are left, else the next with a ready queue. -/
def chooseFn (s : State) (core : Nat) (c : PktCore) : Option Nat :=
  let order := s.servedFrom core c.fn
  if 0 < c.credit && order.contains c.fn && !(s.readyQueues c.fn).isEmpty then some c.fn else order.find? fun f => !(s.readyQueues f).isEmpty

end State

/-- RING_SLOT_READ (R261): slot READ of a queue is read again after V = 0. -/
def execRingSlotRead (fn q : Nat) (s : State) : Out :=
  let x := s.queue fn q
  let p := s.queueSlot fn q
  if !x.en || x.state != 1 || x.kept == x.read || !x.empty || (s.part p).frozen then .next s
  else match s.gget p (State.slotVa x x.read) 4 with
    | .error (c, va) => .next (s.haltFault fn q c va)
    | .ok (s1, bs) => if hdrV (leNat bs) then .next (s1.modQueue fn q fun y => { y with empty := false }) else .next s1

/-- START_DECISION (R277): a packet core reads the queues of the function it chooses and starts one head packet. -/
def execStartDecision (core : Nat) (s : State) : Out :=
  let c := nth s.cores core {}
  if 6 ≤ core then .next s
  else
    let s0 := (s.servedFrom core c.fn).foldl (fun s f => (List.range 16).foldl (fun s q => s.noteRead f q) s) s
    match s0.chooseFn core c with
    | none => .next s0
    | some f =>
      let qs := s0.readyQueues f
      match s0.chooseQueue f qs with
      | none => .next s0
      | some q =>
        let credit : Nat := if f = c.fn ∧ 0 < c.credit then c.credit - 1 else Config.startWeight f % 255
        let s1 : State := { s0 with cores := setAt s0.cores core { fn := f, credit := credit } }
        let s2 := s1.modFn f fun x => { x with queues := x.queues.mapVals fun k y => { y with passed := if k = q ∨ !qs.contains k then 0 else y.passed + 1 } }
        .next (if (s2.queue f q).state = 4 then s2.startReplay f q else s2.startSlot f q)

/-- PACKET_CORE_RESTART (R276): a restarted core forgets its turn; its queues resume at READ. -/
def execPacketCoreRestart (core : Nat) (s : State) : Out := .next { s with cores := setAt s.cores core {} }

-- LNCH at the control complex (R272, R330) ----------------------------------------------------------------------------------------------------

namespace State

/-- The packet whose stack contains an activation (R272). -/
def issuerPkt (s : State) (o : Org) : Option Nat :=
  match s.regionOf o.elem o.ctx with
  | some (p, j) => ((s.region p j).stacks.find? fun x => x.ctxs.contains o.ctx).map fun x => x.pid
  | none => none

/-- Translates the slots that a LNCH writes and reads their headers: true when one has V = 1. -/
def slotsBusy (s : State) (p : Nat) : List (Nat × List Byte) → Except (Nat × Nat) (State × Bool)
  | [] => .ok (s, false)
  | (va, ds) :: r => match s.gput p va ds, s.gget p va 4 with
    | .error e, _ => .error e
    | _, .error e => .error e
    | .ok _, .ok (s1, bs) => match slotsBusy s1 p r with
      | .error e => .error e
      | .ok (s2, b) => .ok (s2, b || hdrV (leNat bs))

/-- Writes slots one after another, none of them when one cannot be written. -/
def putSlots (s : State) (p : Nat) : List (Nat × List Byte) → Except Nat State
  | [] => .ok s
  | (va, bs) :: r => match s.gput p va bs with
    | .error (c, _) => .error c
    | .ok s1 => putSlots s1 p r

/-- What a LNCH comes to (R330): the code of its reply. -/
def lnchAt (s : State) (o : Org) (q index : Nat) (pkts : List (List Byte)) : State × Nat :=
  let f := s.ringFn o.elem o.ctx
  let x := s.queue f q
  let p := s.queueSlot f q
  let i : Word := BitVec.ofNat 32 index
  let slots := pkts.mapIdx fun k bs => (slotVa x (i + BitVec.ofNat 32 k), bs)
  if !x.en then (s, 0x29)
  else
    let far : Bool := 2 ^ (x.sz + 4) ≤ (i + BitVec.ofNat 32 (pkts.length - 1) - x.read).toNat
    match s.slotsBusy p slots with
    | .error (c, va) => (s.memFault p c va, c)
    | .ok (s1, busy) =>
      if far || busy then (s1, 0x2A)
      else match s1.putSlots p (slots.drop 1 ++ slots.take 1) with
        | .error c => (s, c)
        | .ok s2 =>
          match s.issuerPkt o with
          | some pid => (({ s2 with parents := s2.parents ++ [(f, q, i, pid)] } : State).modPkt pid fun y => { y with kids := y.kids + 1 }, 0)
          | none => (s2, 0)

end State

/-- LNCH_APPLY (R330). -/
def execLnchApply (n : Nat) (s : State) : Out :=
  onMsg s n fun s x =>
    match x.msg with
    | .lnch o q index pkts =>
      let r := s.lnchAt o q index pkts
      some (r.1.replyFrom .cp o (BitVec.ofNat 64 r.2))
    | _ => none

end Sys2Proof.Machine
end

