-- ==== Sys2Proof/Machine/Packets.lean ====
section
/-! DEFINITION. Packets other than LAUNCH (R265 to R271), and the completion of every packet (R263, R269, R272, R356). -/

namespace Sys2Proof.Machine

-- Words of memory as packets see them ------------------------------------------------------------------------------------------------

/-- A 64-bit word as a signed number. -/
def signed64 (x : Nat) : Int := (BitVec.ofNat 64 x).toInt

/-- An error value (R269). -/
def isErrValue (x : Nat) : Bool := 2 ^ 63 ≤ x && x ≤ 2 ^ 63 + 255

/-- A signal is met at a value ≤ 0 (R266). -/
def isMet (x : Nat) : Bool := signed64 x ≤ 0

namespace State

/-- Reads a 64-bit word for the command processor. -/
def word64 (s : State) (p va : Nat) : Except (Nat × Nat) (State × Nat) :=
  match s.gget p va 8 with
  | .error e => .error e
  | .ok (s1, bs) => .ok (s1, leNat bs)

/-- Decrements a completion signal (R269). -/
def decSignal (s : State) (p va : Nat) : Except (Nat × Nat) State :=
  match s.word64 p va with
  | .error e => .error e
  | .ok (s1, x) => s1.gput p va (leBytes 8 ((x + 2 ^ 64 - 1) % 2 ^ 64))

end State

-- SIGNAL, WRITE, NOP (R267, R268) -------------------------------------------------------------------------------------------------------

/-- The write of a SIGNAL packet: OP 0 stores, OP 1 adds (R267). -/
def State.signalWrite (s : State) (p b : Nat) : Except (Nat × Nat) State :=
  let va := bitsOf b 64 64
  let v := bitsOf b 128 64
  if va = 0 then .ok s
  else if bitsOf b 32 2 = 0 then s.gput p va (leBytes 8 v)
  else match s.word64 p va with
    | .error e => .error e
    | .ok (s1, x) => s1.gput p va (leBytes 8 ((x + v) % 2 ^ 64))

/-- SIGNAL_PACKET (R267): the write, then the event. -/
def execSignalPacket (pid : Nat) (s : State) : Out :=
  match s.working pid 5 with
  | none => .next s
  | some x =>
    match s.signalWrite x.slot x.bits with
    | .error (c, va) => .next (s.faultPkt pid x.fn c va)
    | .ok s1 =>
      let s2 := if bitsOf x.bits 34 1 = 1 then s1.vecEvent x.fn (bitsOf x.bits 35 3) else s1
      .next (s2.endPkt pid none 0)

/-- Writes doublewords in ascending order, up to the first fault (R268, R356). -/
def State.writeWords (s : State) (p va : Nat) : List Nat → State × Option (Nat × Nat)
  | [] => (s, none)
  | w :: ws => match s.gput p va (leBytes 8 w) with
    | .error e => (s, some e)
    | .ok s1 => writeWords s1 p (va + 8) ws

/-- WRITE_PACKET (R268). -/
def execWritePacket (pid : Nat) (s : State) : Out :=
  match s.working pid 9 with
  | none => .next s
  | some x =>
    let r := s.writeWords x.slot (bitsOf x.bits 64 64) ((List.range (bitsOf x.bits 32 8)).map fun k => bitsOf x.bits (128 + 64 * k) 64)
    match r.2 with
    | some (c, va) => .next (r.1.faultPkt pid x.fn c va)
    | none => .next (r.1.endPkt pid none 0)

/-- NOP_PACKET (R268). -/
def execNopPacket (pid : Nat) (s : State) : Out :=
  match s.working pid 8 with
  | none => .next s
  | some _ => .next (s.endPkt pid none 0)

-- COPY (R265) -------------------------------------------------------------------------------------------------------------------------------

/-- Moves k bytes in ascending order up to the first fault (R265, R356): with it come its address and the bytes moved. A destination byte that the source range of
`len` bytes covers is judged like a write, and keeps its value until the copy ends. -/
def State.copyBytes (s : State) (p src len sa da : Nat) : Nat → State × Option (Nat × Nat) × Nat
  | 0 => (s, none, 0)
  | k + 1 => match s.gget p sa 1 with
    | .error e => (s, some e, 0)
    | .ok (s1, bs) => match s1.gput p da bs with
      | .error e => (s1, some e, 0)
      | .ok s2 =>
        let r := copyBytes (if src ≤ da && da < src + len then s1 else s2) p src len (sa + 1) (da + 1) k
        (r.1, r.2.1, r.2.2 + 1)

/-- Overlapping destination bytes are unpredictable (R265): free values. A byte that cannot be written stays. -/
def State.freeBytes (s : State) (p src n : Nat) : Nat → List Nat → State
  | _, [] => s
  | k, a :: as =>
    let s1 : State := if src ≤ a && a < src + n then
        (match s.gput p a [Config.freeByte (freeIdx k 4 0)] with | .ok s1 => s1 | .error _ => s)
      else s
    freeBytes s1 p src n (k + 1) as

/-- Ends a COPY after `n` bytes: the overlapping bytes among them become free values. -/
def State.copyOver (s : State) (p src dst len n : Nat) : State :=
  if meets src len dst len then
    { s.freeBytes p src len s.free ((List.range n).map fun k => dst + k) with free := s.free + n }
  else s

/-- The bytes up to the next 128-byte boundary of either range. -/
def copyChunk (src dst left : Nat) : Nat := min left (min (128 - src % 128) (128 - dst % 128))

/-- COPY_PACKET (R265): the engine moves the next bytes in ascending order. -/
def execCopyPacket (pid : Nat) (s : State) : Out :=
  match s.working pid 2 with
  | none => .next s
  | some x =>
    let b := x.bits
    let dst := bitsOf b 64 64
    let src := bitsOf b 128 64
    let n := bitsOf b 192 64
    let p := x.slot
    let k := copyChunk (src + x.at_) (dst + x.at_) (n - x.at_)
    let r := s.copyBytes p src n (src + x.at_) (dst + x.at_) k
    match r.2.1 with
    | some (c, va) => .next ((r.1.copyOver p src dst n (x.at_ + r.2.2)).faultPkt pid x.fn c va)
    | none =>
      if x.at_ + k < n then .next (r.1.modPkt pid fun y => { y with at_ := y.at_ + k })
      else .next ((r.1.copyOver p src dst n n).endPkt pid none 0)

-- Barriers (R266) ------------------------------------------------------------------------------------------------------------------------------

/-- The values of the signals a barrier names. -/
def State.readSignals (s : State) (p : Nat) : List Nat → Except (Nat × Nat) (State × List Nat)
  | [] => .ok (s, [])
  | va :: vas => match s.word64 p va with
    | .error e => .error e
    | .ok (s1, x) => match readSignals s1 p vas with
      | .error e => .error e
      | .ok (s2, xs) => .ok (s2, x :: xs)

/-- A barrier reads its signals (R266): with AND every named signal decides, with OR the first that is met. -/
def State.barrier (s : State) (pid : Nat) (x : Pkt) (all : Bool) : State :=
  let vas := ((List.range 5).map fun k => bitsOf x.bits (64 + 64 * k) 64).filter fun a => a != 0
  match s.readSignals x.slot vas with
  | .error (c, va) => s.faultPkt pid x.fn c va
  | .ok (s1, xs) =>
    let finish (bad : Bool) : State := s1.endPkt pid (if bad then some 0x74 else none) 0
    if xs.isEmpty then finish false
    else if all then (if xs.all isMet then finish (xs.any isErrValue) else s1)
    else match xs.find? isMet with
      | some v => finish (isErrValue v)
      | none => s1

/-- BARRIER_AND (R266). -/
def execBarrierAnd (pid : Nat) (s : State) : Out :=
  match s.working pid 3 with
  | none => .next s
  | some x => .next (s.barrier pid x true)

/-- BARRIER_OR (R266). -/
def execBarrierOr (pid : Nat) (s : State) : Out :=
  match s.working pid 4 with
  | none => .next s
  | some x => .next (s.barrier pid x false)

/-- BARRIER_POLL (R266): the signals of a barrier of either kind are read again. -/
def execBarrierPoll (pid : Nat) (s : State) : Out :=
  match s.working pid 3, s.working pid 4 with
  | some x, _ => .next (s.barrier pid x true)
  | none, some x => .next (s.barrier pid x false)
  | none, none => .next s

-- Graphs (R270, R271) ---------------------------------------------------------------------------------------------------------------------------

namespace State

/-- The packets that a graph has started and that have not completed. -/
def members (s : State) (pid : Nat) : List (Nat × Pkt) := s.pkts.rows.filter fun r => r.2.graph == some pid

def modGraph (s : State) (pid : Nat) (f : GraphRun → GraphRun) : State := s.modPkt pid fun x => { x with run := x.run.map f }

/-- A graph ends with a code; the first one stays (R270). -/
def graphErr (s : State) (pid code detail : Nat) : State :=
  (s.modPkt pid fun x => match x.run with
    | some g => { x with run := some { g with left := true, err := match g.err with | some c => some c | none => some code },
                         detail := if g.err.isNone then detail else x.detail }
    | none => x)

/-- Reads a packet of a graph from slot i (R270). -/
def graphPacket (s : State) (p base i : Nat) : Except (Nat × Nat) (State × List Byte) :=
  match s.gget p (base + 64 * i) 64 with
  | .error e => .error e
  | .ok (s1, bs) => match s1.gget p (base + 64 * (i + 1)) (64 * min 3 (bitsOf (leNat bs) 0 8)) with
    | .error e => .error e
    | .ok (s2, cs) => .ok (s2, bs ++ cs)

/-- A running graph goes on: it starts its next packet, waits, leaves, or ends (R270, R271). -/
def graphGo (s : State) (pid : Nat) (x : Pkt) (g : GraphRun) : State :=
  let p := x.slot
  let b := x.bits
  let n := bitsOf b 32 16
  let ms := s.members pid
  if g.left then (if ms.isEmpty then s.endPkt pid g.err x.detail else s)
  else if ms.any fun m => m.2.type == 7 then s
  else if n ≤ g.slot then s.modGraph pid fun g => { g with left := true }
  else match s.graphPacket p (bitsOf b 64 64) g.slot with
    | .error (c, va) => (s.cpFault p x.fn c va).graphErr pid c 0
    | .ok (s1, bs) =>
      let h := bitsOf (leNat bs) 0 32
      if !hdrV h || !packetOk bs (some n) then s.graphErr pid 0x71 0
      else if (hdrB h || bitsOf h 8 8 = 7) && !ms.isEmpty then s
      else
        let q : Pkt := { fn := x.fn, q := x.q, slot := p, index := x.index, bytes := bs, graph := some pid, gslot := g.slot, mute := x.mute, service := x.service }
        (s1.modGraph pid fun g => { g with slot := g.slot + 1 + h % 256 }).startPkt q

end State

/-- GRAPH (R270). -/
def execGraph (pid : Nat) (s : State) : Out :=
  match s.working pid 6 with
  | none => .next s
  | some x => match x.run with
    | none => .next (s.modPkt pid fun y => { y with run := some {} })
    | some g => .next (s.graphGo pid x g)

/-- The TEST of a COND (R271). -/
def condTest (t : Nat) (a b : Int) : Bool :=
  match t with | 0 => a == b | 1 => a != b | 2 => a < b | 3 => a ≤ b | 4 => b < a | _ => b ≤ a

/-- COND (R271): true re-arms the graph and goes on at TARGET, false leaves it. -/
def execCond (pid : Nat) (s : State) : Out :=
  match s.working pid 7 with
  | none => .next s
  | some x =>
    let b := x.bits
    match s.word64 x.slot (bitsOf b 64 64), x.graph with
    | .error (c, va), _ => .next (s.faultPkt pid x.fn c va)
    | .ok _, none => .next s
    | .ok (s1, v), some k =>
      let s2 := s1.endPkt pid none 0
      if !condTest (bitsOf b 32 3) (signed64 v) (signed64 (bitsOf b 128 64)) then .next (s2.modGraph k fun g => { g with left := true })
      else match s.pkts.find? k with
        | none => .next s2
        | some y =>
          let arms : Nat := (match y.run with | some g => g.arms | none => 0) + 1
          if bitsOf y.bits 128 32 < arms then .next (s2.graphErr k 0x75 0)
          else .next (s2.modGraph k fun g => { g with arms := arms, slot := bitsOf b 48 16 })

-- Completion (R263, R269, R272) --------------------------------------------------------------------------------------------------------------------

/-- A packet's completion signal: its address, 0 for none (R264 to R266, R270). -/
def Pkt.signal (x : Pkt) : Nat :=
  match x.type with
  | 1 => bitsOf x.bits 320 64
  | 2 => bitsOf x.bits 256 64
  | 3 | 4 => bitsOf x.bits 384 64
  | 6 => bitsOf x.bits 192 64
  | _ => 0

/-- The code that a packet completes with: its own fault, else CHILD_ERR when a child failed (R272). -/
def Pkt.outcome (x : Pkt) : Option Nat := match x.fault with | some c => some c | none => if x.kidErr then some 0x76 else none

namespace State

/-- A packet's release at its scope RSC is made (R225, R261, R263): at system scope the host has completed its partition's stores. At a narrower scope nothing is left to
wait for once the packet's work is done, a stack's accesses included (R123). -/
def released (s : State) (x : Pkt) : Bool := !(bitsOf x.bits 24 3 == 4 && s.hostq.any fun w => w.own == x.slot)

/-- Updates a packet's completion signal (R269, R356): the code that the packet completes with. A LAUNCH's signal counts its records (R264). -/
def signalPkt (s : State) (x : Pkt) : State × Option Nat :=
  let va := x.signal
  let r : Except (Nat × Nat) State :=
    if va = 0 || x.mute then .ok s
    else match x.outcome with
      | some c => s.gput x.slot va (leBytes 8 (2 ^ 63 + c))
      | none => if x.type = 1 then .ok s else s.decSignal x.slot va
  match r with
  | .ok s1 => (s1, x.outcome)
  | .error (c, a) => (s.cpFault x.slot x.fn c a, some c)

/-- A packet's log entry is marked completed (R306). -/
def logDone (s : State) (x : Pkt) : State :=
  if x.graph.isSome then s
  else s.modQueue x.fn x.q fun y => { y with log := y.log.map fun e => if e.index == x.index then { e with done := true } else e }

/-- A packet that completed with error halts its queue (R269). A queue that is off only keeps the code. -/
def haltPkt (s : State) (x : Pkt) (code : Nat) : State :=
  let y := s.queue x.fn x.q
  (s.ringPush x.fn (queueRec code x.q x.index x.detail)).queueTo x.fn x.q (if y.en then 3 else 0) code y.en

/-- What a completed packet tells those that wait for it: its parent (R272), its graph (R270), its queue (R269). -/
def tellDone (s : State) (x : Pkt) (code : Option Nat) : State :=
  let s1 := match x.parent with
    | some k => s.modPkt k fun y => { y with kids := y.kids - 1, kidErr := y.kidErr || code.isSome }
    | none => s
  match code, x.graph with
  | none, _ => s1
  | some c, some g => s1.graphErr g c x.detail
  | some c, none => s1.haltPkt x c

end State

/-- PACKET_COMPLETE (R263, R269, R272): a packet whose work and children are done makes its release, signals and is gone. -/
def execPacketComplete (pid : Nat) (s : State) : Out :=
  match s.pkts.find? pid with
  | none => .next s
  | some x =>
    if !x.done || x.kids != 0 || (s.part x.slot).frozen || !s.released x then .next s
    else
      let r := s.signalPkt x
      let s1 : State := { r.1 with pkts := r.1.pkts.erase pid }
      .next ((s1.logDone x).tellDone x r.2)

end Sys2Proof.Machine
end

