-- ==== Sys2Proof/Machine/Regions.lean ====
section
/-! DEFINITION. Region sequencers: local done (R123), termination waves and the close of a context (R160, R280), the end of a stack (R280, R327), parking
(R281), and hangs (R131, R307). -/

namespace Sys2Proof.Machine

namespace State

-- Done (R123, R280) ----------------------------------------------------------------------------------------------------------------------

/-- A request slot belongs to a partition at an element (R291). -/
def slotOfPart (s : State) (a p j : Nat) : Bool := !s.shared (clusNo a) || j / 4 == s.tsOf (clusNo a) p

/-- A partition's request slots at an element are free. -/
def reqsFree (s : State) (p a : Nat) : Bool :=
  ((s.elem a).reqs.mapIdx fun j r => !s.slotOfPart a p j || r.isNone).all fun b => b

/-- A partition's sequence slots at an element are idle. -/
def seqsIdle (s : State) (p a : Nat) : Bool :=
  (s.elem a).seqs.all fun q => match q with | some x => s.ownOf a x.ctx != p | none => true

/-- A partition's ready nodes at an element. -/
def readyOf (s : State) (p a : Nat) : List ReadyEntry := (s.elem a).ready.filter fun r => s.ownOf a (s.ctxOfHandle a r.fh) == p

/-- The contexts of a parked stack: its nodes, walkers and sections wait for its return and keep no other stack from being done (R281). -/
def parkedCtxs (s : State) (p a : Nat) : List Nat :=
  match s.regionAt p (s.hedgeOf p) a with
  | some j => (match (s.region p j).parked with | some x => x.ctxs | none => [])
  | none => []

/-- The context of a ready node's frame. -/
def readyCtx (s : State) (a : Nat) (r : ReadyEntry) : Nat :=
  match (s.elem a).live r.fh with
  | some y => ((s.elem a).readHdr y).ctx
  | none => s.ctxOfHandle a r.fh

/-- An element is locally done for a partition (R123). Tokens that an ordered section holds back are tokens held (R232). -/
def elemDone (s : State) (p a : Nat) : Bool :=
  let e := s.elem a
  let mine (k : Nat) : Bool := s.ownOf a k == p
  let parked := s.parkedCtxs p a
  let live (w : Walker) : Bool := w.v && w.home == elemIdx a && mine w.lr.ctx && !parked.contains w.lr.ctx
  ((s.readyOf p a).all fun r => parked.contains (s.readyCtx a r)) && s.seqsIdle p a && s.reqsFree p a && !((s.clus (clusNo a)).walkers.rows.any fun r => live r.2)
    && !(e.sendq.any fun i => mine i.org.ctx) && !(e.memq.any fun y => mine y.org.ctx)
    && !(e.sects.any fun x => mine x.ctx && !parked.contains x.ctx && (x.closed || !x.hold.isEmpty))

/-- A region's done signal (R280). -/
def regionDone (s : State) (p j : Nat) : Bool := (s.regionElems p j).all (s.elemDone p)

/-- Where done has fallen since the last wave, the next pair of waves begins anew (R280). -/
def watch (s : State) : State :=
  if s.regions.rows.any fun r => r.2.wave.isSome && !s.regionDone (r.1 / 8) (r.1 % 8) then
    { s with regions := s.regions.mapVals fun k g => if g.wave.isSome && !s.regionDone (k / 8) (k % 8) then { g with wave := none } else g }
  else s

/-- ΣSENT[j] and ΣRECV[j] over a partition, modulo 2^32 (R279, R280). -/
def sums (s : State) (p j : Nat) : Nat × Nat :=
  let r := s.elems.rows.foldl (fun t x => (t.1 + (x.2.sent.get 0 (8 * p + j)).toNat, t.2 + (x.2.recv.get 0 (8 * p + j)).toNat)) (0, 0)
  (r.1 % 2 ^ 32, r.2 % 2 ^ 32)

-- Records (R160) ----------------------------------------------------------------------------------------------------------------------------

/-- The command processor resolves a future with a value (R160, R229); a second resolution is FUT_DOUBLE with its record (R251). `o` names the
partition for the waiter's token. -/
def resolveAt (s : State) (f p va v : Nat) (o : Org) : Except (Nat × Nat) State :=
  match s.word64 p va with
  | .error e => .error e
  | .ok (s1, w) =>
    let resolved : Nat := 2 * 2 ^ 62 + v % 2 ^ 32
    match bitsOf w 62 2 with
    | 0 => s1.gput p va (leBytes 8 resolved)
    | 1 => match s1.gput p va (leBytes 8 resolved) with
      | .error e => .error e
      | .ok s2 =>
        let pa : Nat := match s1.xlate p va with | .ok l => leafAddr l va | .error _ => 0
        .ok ((s2.futSend o (futCont w) (BitVec.ofNat 64 (v % 2 ^ 32)) false (s2.acqNoted pa w)).acqNote pa none)
    | 2 => match s1.gput p va (leBytes 8 (3 * 2 ^ 62 + bitsOf w 61 1 * 2 ^ 61 + 0x5A * 2 ^ 32 + bitsOf w 0 32)) with
      | .error e => .error e
      | .ok s2 => .ok (s2.ringPush f (0x5A * 2 ^ 120 + 2 * 2 ^ 115 + va % 2 ^ 57))
    | _ => .ok (s1.ringPush f (0x5A * 2 ^ 120 + 2 * 2 ^ 115 + va % 2 ^ 57))

/-- Marks a record of a LAUNCH as performed in the queue's replay log (R306). -/
def logRec (s : State) (x : Pkt) (i : Option Nat) : State :=
  match i, x.graph with
  | some i, none => s.modQueue x.fn x.q fun y => { y with log := y.log.map fun e => if e.index == x.index then { e with recs := i :: e.recs } else e }
  | _, _ => s

/-- Completes one record of a stack (R160, R264, R306); a write that faults is not performed and its code kept for the LAUNCH (R356). -/
def completeRec (s : State) (p : Nat) (y : StackRun) (o : Org) (st : State × Option Nat) (r : Option Nat × LaunchRec) : State × Option Nat :=
  match s.pkts.find? y.pid with
  | none => st
  | some x =>
    let seen : Bool := match r.1 with | some i => x.muted.contains i | none => false
    let va := if r.2.donek || r.2.done != 0 then r.2.done else x.signal
    if x.mute || seen || (!r.2.donek && va == 0) then st
    else match (if r.2.donek then st.1.resolveAt x.fn p va r.2.emitted o else st.1.decSignal p va) with
      | .ok s1 => (s1.logRec x r.1, st.2)
      | .error (c, a) => (st.1.cpFault x.slot x.fn c a, match st.2 with | some e => some e | none => some c)

-- The end of contexts and stacks (R280, R281, R327) ------------------------------------------------------------------------------------------------

/-- Ready nodes of a stack's frames leave the ready lists with its contexts. -/
def dropReady (s : State) (p : Nat) (x : StackRun) : State :=
  let mine (e : Elem) (r : ReadyEntry) : Bool := match e.live r.fh with | some y => x.ctxs.contains (e.readHdr y).ctx | none => false
  (s.rectElems p x.x0 x.y0 x.w x.h).foldl (fun s a => s.modElem a fun e =>
    { e with ready := e.ready.filter fun r => !mine e r, lastBusy := if e.ready.any (mine e) then s.cycle else e.lastBusy }) s

/-- The stack that was parked goes on where it stood (R281). -/
def unpark (s : State) (p j : Nat) (y : StackRun) : State :=
  armMore p j 8 (s.modRegion p j fun g =>
    { g with x0 := y.x0, y0 := y.y0, w := y.w, h := y.h, run := some y, parked := none, parking := false, cur := some (nth y.ctxs y.pos 0), wave := none, lastEvent := s.t7 })

/-- A stack completes with a code or without error: its contexts leave, its LAUNCH ends, and its region goes on with a parked or waiting stack. -/
def endStack (s : State) (p j : Nat) (x : StackRun) (code : Option Nat) : State :=
  let s1 := ((s.dropReady p x).leaveStack p x).endPkt x.pid (match code with | some c => some c | none => x.err) 0
  let g := s1.region p j
  match g.parked, g.next with
  | some y, _ => s1.unpark p j y
  | none, some y => (s1.modRegion p j fun g => { g with next := none, parking := false }).runStack p j y
  | none, none => s1.modRegion p j fun g => { g with run := none, cur := none, parking := false, wave := none }

/-- The current context closes (R280): its records complete and the next context starts, or the stack ends. -/
def closeCtx (s : State) (p j : Nat) (x : StackRun) : State :=
  let k := nth x.ctxs x.pos 0
  let o : Org := { elem := elemAt (s.hedgeOf p) x.x0 x.y0, ctx := k }
  let r := (x.recs.filter fun r => r.2.ctx == k).foldl (fun st r => st.1.completeRec p x o st r) (s, x.err)
  let y : StackRun := { x with err := r.2, recs := x.recs.filter fun r => r.2.ctx != k, pos := x.pos + 1 }
  if y.pos < y.ctxs.length then r.1.startCtx p j y else r.1.endStack p j { y with pos := x.pos } none

-- Hangs (R131, R281, R307) ---------------------------------------------------------------------------------------------------------------------------

/-- A hang of a partition (R131, R281, R307): HANG is set, with the code of its cause, and the partition reset. -/
def hangPart (s : State) (p code : Nat) : State := (s.setVue p 1 code).resetPart p none

/-- The dump record of a waiting request at its place of its list (R131). -/
def dumpRec (s : State) (a pos : Nat) (r : AllocReq) : Nat :=
  0x34 * 2 ^ 120 + s.rel a r.ctx % 2 ^ 18 * 2 ^ 102 + r.ctx % 8 * 2 ^ 99 + r.pool % 4 * 2 ^ 97 + s.rel r.org.elem r.ctx % 2 ^ 18 * 2 ^ 79
    + r.org.slot.getD 0 % 8 * 2 ^ 76 + r.gran % 2 ^ 14 * 2 ^ 62 + r.bypass % 16 * 2 ^ 58 + r.alog % 16 * 2 ^ 54 + pos % 2 ^ 14 * 2 ^ 40 + r.key.toNat

/-- The dump records of a region, element by element, list by list in list order (R131). -/
def dumpRecs (s : State) (p j : Nat) : List Nat :=
  (s.regionElems p j).flatMap fun a => (s.elem a).lists.rows.flatMap fun l =>
    (l.2.filter fun r => s.ownOf a r.ctx == p).mapIdx fun i r => s.dumpRec a i r

end State

/-- TERMINATION_WAVE (R280): a wave of the sums while done is 1; two equal waves that balance close the context. A halted stack ends once its
activations and requests are over (R327). -/
def execTerminationWave (slot region : Nat) (s : State) : Out :=
  let g := s.region slot region
  match g.run with
  | none => .next s
  | some x =>
    let es := s.regionElems slot region
    if (s.part slot).frozen then .next s
    else if x.halted then
      (if es.all fun a => s.seqsIdle slot a && s.reqsFree slot a then .next (s.endStack slot region x (some 0x78)) else .next s)
    else if !x.arm.isEmpty then .next (armMore slot region 8 s)
    else if !s.regionDone slot region then .next s
    else
      let w := s.sums slot region
      match g.wave with
      | none => .next (s.modRegion slot region fun g => { g with wave := some w, waveAt := s.cycle })
      | some v =>
        if s.cycle < g.waveAt + 256 then .next s
        else if v == w && w.1 == w.2 then
          -- the records' signals follow the release of their LAUNCH (R263)
          (match s.pkts.find? x.pid with
           | some y => if s.released y then .next (s.closeCtx slot region x) else .next s
           | none => .next (s.closeCtx slot region x))
        else .next (s.modRegion slot region fun g => { g with wave := some w, waveAt := s.cycle })

/-- The done tree of a region that is parking converges (R281): only PRUNE nodes are ready, sequence slots are idle, request slots free. -/
def State.converged (s : State) (p j : Nat) : Bool :=
  (s.regionElems p j).all fun a =>
    let e := s.elem a
    s.seqsIdle p a && s.reqsFree p a && (s.readyOf p a).all fun r => match e.live r.fh with
      | some y => (match s.head a (e.readHdr y).ctx r.node with | some (kind, _) => kind == 12 | none => false)
      | none => false

/-- PARK_SWITCH (R281): the running stack is parked, and the new one runs from its first context. A halted stack ends instead (R327). -/
def execParkSwitch (slot region : Nat) (s : State) : Out :=
  let g := s.region slot region
  match g.run, g.next with
  | some x, some y =>
    if !g.parking || x.halted || (s.part slot).frozen || g.parkAt + 2 * x.dist ≤ s.cycle || !s.converged slot region then .next s
    else .next ((s.modRegion slot region fun g => { g with parked := some x, next := none, parking := false }).runStack slot region y)
  | _, _ => .next s

/-- PARK_HANG (R281): parking has not converged 2 × PRUNE_DIST cycles after the request. -/
def execParkHang (slot region : Nat) (s : State) : Out :=
  let g := s.region slot region
  match g.run with
  | some x => if !g.parking || (s.part slot).frozen || s.cycle < g.parkAt + 2 * x.dist then .next s else .next (s.hangPart slot 0x77)
  | none => .next s

/-- ALLOC_STALL (R131): the horizon was the same at 64 broadcasts with requests waiting and no grant; the allocators dump their lists. -/
def execAllocStall (slot region : Nat) (s : State) : Out :=
  let g := s.region slot region
  if g.hzSame < 64 || g.horizon.isNone || g.granted || (s.part slot).frozen then .next s
  else .next (((s.dumpRecs slot region).foldl (fun s r => s.ringPush slot r) s).hangPart slot 0x34)

/-- HANG (R307): HANG_MS without a start, a grant or a token in a region whose stack is resident and neither frozen, parking nor waiting for SERVICE. -/
def execHang (slot region : Nat) (s : State) : Out :=
  let g := s.region slot region
  let x := s.part slot
  if g.run.isNone || x.frozen || x.life != .live || g.parking || x.fqw != x.fqr || s.t7 < g.lastEvent + x.hang * 7000000 then .next s
  else .next (s.hangPart slot 0x84)

end Sys2Proof.Machine
end

