-- ==== Sys2Proof/Machine/Admin.lean ====
section
/-! DEFINITION. Admin commands (R283 to R285, R341): creation and destruction of slots (R286 to R292), mappings, SERVICE (R303), FROST and THAW (R293, R294),
limits, gating (R125, R155, R204), power (R313), error injection (R309), meter ring and harvest (R301, R310), export and fabric (R341, R342). -/

namespace Sys2Proof.Machine

-- The frame of a command (R284, R285) ----------------------------------------------------------------------------------------------------

/-- Words 1 to 15 have no bits beside the listed ones. -/
def wordsClean (w : List Nat) (masks : List Nat) : Bool := (List.range 15).all fun k => nth w (k + 1) 0 ||| nth masks k 0 == nth masks k 0

/-- A 64-bit operand of words k and k + 1. -/
def pairAt (w : List Nat) (k : Nat) : Nat := nth w k 0 + nth w (k + 1) 0 * 2 ^ 32

def word32 : Nat := 2 ^ 32 - 1

/-- Runs the command in progress when it has this code: BAD_ADMIN for a non-zero unlisted bit or a field out of range, BAD_STATE in a device that serves
no such command (R284, R285, R310). `slotted` says that the command names a slot. -/
def adminRun (s : State) (code : Nat) (slotted : Bool) (masks : List Nat) (ok : List Nat → Bool) (f : Nat → List Nat → State) : Out :=
  let w := s.dev.admin.run.map BitVec.toNat
  let w0 := nth w 0 0
  if !s.dev.admin.busy || w0 % 256 != code then .next s
  else if w0 / 2 ^ 15 != 0 || (!slotted && w0 / 256 != 0) || !wordsClean w masks || !ok w then .next (s.adminDone 0x91 0)
  else if !(s.dev.mode == .service || s.dev.mode == .seedling) then .next (s.adminDone 0x93 0)
  else .next (f (w0 / 256 % 128) w)

namespace State

-- Rectangles (R286, R287, R291) --------------------------------------------------------------------------------------------------------------

/-- Within a die, columns c0 to c1 and rows r0 to r1 hold the long-link ends of every pair of quadrants that they meet (R287). -/
def coreOk (c0 c1 r0 r1 : Nat) : Bool :=
  let across : Bool := c0 < 4 && 4 ≤ c1
  let down : Bool := r0 < 3 && 3 ≤ r1
  if across && down then c0 ≤ 1 && 6 ≤ c1 && r0 ≤ 1 && 4 ≤ r1
  else if across then (let r : Nat := if r1 < 3 then 1 else 4; r0 ≤ r && r ≤ r1)
  else if down then (let c : Nat := if c1 < 4 then 1 else 6; c0 ≤ c && c ≤ c1)
  else true

/-- The shape of a rectangle is admitted (R286). -/
def shapeOk (x0 y0 w h : Nat) : Bool :=
  x0 + w ≤ 48 && y0 + h ≤ 24
    && (x0 % 8 == 0 && w % 8 == 0 && y0 % 6 == 0 && h % 6 == 0
      || x0 / 8 == (x0 + w - 1) / 8 && y0 / 6 == (y0 + h - 1) / 6 && coreOk (x0 % 8) (x0 % 8 + w - 1) (y0 % 6) (y0 % 6 + h - 1))

/-- The clusters of a rectangle. -/
def rectClusters (x0 y0 w h : Nat) : List Nat := (List.range h).flatMap fun j => (List.range w).map fun i => (y0 + j) * 48 + x0 + i

/-- A cluster can serve a partition: enabled in the manifest (R286), its die admitted (R312) and not gated (R313). -/
def clusterUp (s : State) (c : Nat) : Bool :=
  !s.dev.manifest.disabled.contains c && !s.dev.gated.contains (dieOfClus c) && (s.dev.mode == .service || s.dev.admitted.contains (dieOfClus c))

/-- A rectangle is admitted for tenant slot ts with a share of thirds; a slot `p` itself does not stand in its way. -/
def rectOk (s : State) (p x0 y0 w h ts shr : Nat) : Bool :=
  let others := (s.parts.rows.filter fun r => r.1 != p && r.2.live && rectsMeet r.2.x0 r.2.y0 r.2.w r.2.h x0 y0 w h).map fun r => r.2
  shapeOk x0 y0 w h && (rectClusters x0 y0 w h).all s.clusterUp
    && (match others with
      | [] => true
      | [q] => q.x0 == x0 && q.y0 == y0 && q.w == w && q.h == h && q.ts != ts && q.shr + shr ≤ 3
      | _ => false)

end State

-- Mappings (R290) ----------------------------------------------------------------------------------------------------------------------------

/-- A mapping of the list from its 32 bytes (R290). -/
def Mapping.ofNat (x : Nat) : Mapping :=
  { va := bitsOf x 0 64, pa := bitsOf x 64 64, size := bitsOf x 128 64, tier := bitsOf x 192 2, nw := bitsOf x 194 1 == 1, nc := bitsOf x 195 1 == 1 }

/-- The size is one of the three leaf sizes (R290). -/
def leafSize (n : Nat) : Bool := n == 2 ^ 16 || n == 2 ^ 21 || n == 2 ^ 30

namespace State

/-- A mapping passes the checks of step 3 of R290: aligned leaf, existing tier, no retired page and none that is
withheld (log 12), no LPDDR-6 in seedling mode. -/
def mapOk (s : State) (x : Nat) : Bool :=
  let m := Mapping.ofNat x
  bitsOf x 196 60 == 0 && leafSize m.size && m.va % m.size == 0 && m.pa % m.size == 0 && m.va + m.size ≤ 2 ^ 57
    && (match m.tier with
      | 0 | 1 => tierBase m.tier ≤ m.pa && m.pa + m.size ≤ tierEnd m.tier && !withheld m.pa m.size
          && !(s.dev.retired.any fun a => meets m.pa m.size a (2 ^ 16)) && !(m.tier == 1 && s.dev.mode == .seedling)
      | 2 => m.pa + m.size ≤ 2 ^ 52
      | _ => false)

/-- Two mappings share a virtual address. -/
def vaMeet (m n : Mapping) : Bool := meets m.va m.size n.va n.size

/-- Reads a mapping list in host memory: none where the host fails, an entry is refused, or the tables have no room (log 12). -/
def readMaps (s : State) (addr n : Nat) (old : List Mapping) : Option (List Mapping) :=
  if s.hostFails addr (32 * n) then none
  else
    let xs := (List.range n).map fun k => Memory.readN s.host (addr + 32 * k) 32
    let ms := xs.map Mapping.ofNat
    if xs.all s.mapOk && noPair vaMeet ms && (ms.all fun m => !(old.any (vaMeet m))) && mapsFit (old ++ ms) then some ms else none

-- Creation and destruction (R290, R292) ------------------------------------------------------------------------------------------------------------

/-- Sets a slot's hedge entry in its clusters and in the transit crossbars of the dies that it holds whole (R289), or removes it; the class table of its tenant slot has its reset values (R198). -/
def setHedges (s : State) (p : Nat) (on : Bool) : State :=
  let x := s.part p
  let ent : Hedge := if on then { v := true, own := p, orgx := x.x0, orgy := x.y0, w := x.w, h := x.h, shr := x.shr } else {}
  let dies := (List.range 24).filter fun d => x.x0 ≤ d % 6 * 8 && d % 6 * 8 + 8 ≤ x.x0 + x.w && x.y0 ≤ d / 6 * 6 && d / 6 * 6 + 6 ≤ x.y0 + x.h
  let s1 : State := { s with crossbars := dies.foldl (fun t d => t.put d (setAt (t.get [{}, {}] d) x.ts ent)) s.crossbars }
  (s1.clustersOf p).foldl (fun s c => s.modClus c fun y => { y with hedges := setAt y.hedges x.ts ent, routes := y.routes.keep fun k _ => k / 16 != x.ts }) s1

/-- What creation sets in every element of a slot: its generator (R67), bus identifiers (R153) and counters (R326), and, where no other tenant runs, the
reset values of its CSRs (R134). -/
def initElems (s : State) (p : Nat) : State :=
  let hd := s.hedgeOf p
  (s.clustersOf p).foldl (fun s c => (List.range 96).foldl (fun s e =>
    let a := idOfClus c e
    s.modElem a fun x =>
      let y : Elem := if s.shared c then x else { x with idleCycles := 1024, startCount := 0, errlog := [], sysMode := false, brkEn := false }
      { y with rng := BitVec.ofNat 32 (relId hd a + 1), busRow := BitVec.ofNat 8 (elemRow a), busCol := BitVec.ofNat 8 (elemCol a),
               perf := x.perf.keep fun k _ => k / 8 != p }) s) s

/-- A function's pages for a new partition: rings and status are at their reset values, its queues' registers stay. -/
def bindFn (s : State) (p : Nat) : State :=
  s.modFn p fun x => { bound := true, queues := x.queues, icbs := x.icbs, vmask := x.vmask, vpend := x.vpend }

/-- The slot's queues and the PF's queues that target it enter DISABLED (R260, R292). -/
def queuesOff (s : State) (p : Nat) : State :=
  (s.queuesOf p).foldl (fun s r => s.modQueue r.1 r.2 fun y => { y with en := false, state := 0, replay := [], empty := false }) s

/-- The slot's started packets are gone. -/
def dropPkts (s : State) (p : Nat) : State :=
  let dead := (s.pkts.rows.filter fun r => r.2.slot == p).map fun r => r.1
  { s with pkts := s.pkts.keep fun _ x => x.slot != p, parents := s.parents.filter fun r => !dead.contains r.2.2.2,
           collIssued := s.collIssued.filter fun c => c.slot != p }

/-- A new partition of CREATE's operands. -/
def newPart (w : List Nat) : Part :=
  let r := nth w 2 0
  let t := nth w 3 0
  { life := .live, live := true, x0 := bitsOf r 0 6, y0 := bitsOf r 6 5, w := bitsOf r 11 6 + 1, h := bitsOf r 17 5 + 1, ts := bitsOf t 0 1,
    shr := bitsOf t 1 2, weight := bitsOf t 3 8, quota := bitsOf t 11 6, period := bitsOf t 17 6, hang := bitsOf (nth w 4 0) 0 16,
    fqBase := pairAt w 8, fqSz := bitsOf (nth w 10 0) 0 4, pasid := bitsOf (nth w 10 0) 4 20 }

/-- Steps 4 to 7 of R290. -/
def createPart (s : State) (p : Nat) (x : Part) (maps : List Mapping) : State :=
  let s1 : State := { s with parts := s.parts.put p { x with maps := maps, cycBase := s.cycle, fqw := (s.part p).fqw, fqr := (s.part p).fqr } }
  ((((((s1.dropPkts p).setHedges p true).clearSlot p).initElems p).buildTables p).bindFn p).emitRecord p 0

end State

/-- CREATE (R290). -/
def execCreate (s : State) : Out :=
  let masks := [0x7F, 0x3FFFFF, 0x7FFFFF, 0xFFFF, word32, word32, word32, word32, word32, 0xFFFFFF]
  let ok (w : List Nat) : Bool :=
    let x := State.newPart w
    1 ≤ x.shr && 1 ≤ x.weight && 1 ≤ x.quota && x.quota ≤ 32 && 1 ≤ x.period && x.period ≤ 60 && 1 ≤ x.hang && x.hang ≤ 60000
      && pairAt w 5 % 32 == 0 && 1 ≤ nth w 7 0 && x.fqBase % 4096 == 0 && x.fqSz ≤ 8
  adminRun s 0x01 true masks ok fun p w =>
    let x := State.newPart w
    if (s.part p).life != .free || (s.fn p).bound || nth w 1 0 != p then s.adminDone 0x93 0
    else if !s.rectOk p x.x0 x.y0 x.w x.h x.ts x.shr then s.adminDone 0x90 0
    else match s.readMaps (pairAt w 5) (nth w 7 0) [] with
      | none => s.adminDone 0x92 0
      | some ms => (s.createPart p x ms).adminDone 0 0

/-- DESTROY (R292). The counts of the slot's fault queue stay, with every record retired (R303). -/
def execDestroy (s : State) : Out :=
  adminRun s 0x02 true [] (fun _ => true) fun p _ =>
    if (s.part p).life == .free then s.adminDone 0x93 0
    else
      let s1 := ((((s.emitRecord p 2).collReset p).queuesOff p).dropPkts p).freeTables p
      let s2 := if (s.part p).live then (s1.clearSlot p).setHedges p false else s1
      let s3 : State := { s2.modFn p fun x => { x with bound := false, pending := 0 } with
                          parts := s2.parts.put p { fqw := (s.part p).fqw, fqr := (s.part p).fqw }, dev := { s2.dev with frostAsk := s2.dev.frostAsk.filter fun q => q != p } }
      s3.adminDone 0 0

-- MAP, UNMAP, SERVICE (R284, R303) -------------------------------------------------------------------------------------------------------------------

def mapMasks : List Nat := [word32, word32, word32]

def mapArgs (w : List Nat) : Bool := pairAt w 1 % 32 == 0 && 1 ≤ nth w 3 0

/-- MAP (R284): adds leaves. -/
def execMapPages (s : State) : Out :=
  adminRun s 0x03 true mapMasks mapArgs fun p w =>
    let x := s.part p
    if !x.live then s.adminDone 0x93 0
    else match s.readMaps (pairAt w 1) (nth w 3 0) x.maps with
      | none => s.adminDone 0x92 0
      | some ms => ((s.modPart p fun x => { x with maps := x.maps ++ ms }).buildTables p).adminDone 0 0

/-- The leaves that an entry of UNMAP removes: those that make up its range exactly. -/
def unmapped (maps : List Mapping) (m : Mapping) : Option (List Mapping) :=
  let inside := maps.filter fun x => m.va ≤ x.va && x.va + x.size ≤ m.va + m.size
  if (inside.map fun x => x.size).sum = m.size then some inside else none

/-- UNMAP (R284, R290): removes leaves, and every translation of the slot that is held; an entry is laid out as MAP's. -/
def execUnmapPages (s : State) : Out :=
  adminRun s 0x04 true mapMasks mapArgs fun p w =>
    let x := s.part p
    let n := nth w 3 0
    let raw := (List.range n).map fun k => Memory.readN s.host (pairAt w 1 + 32 * k) 32
    let xs := raw.map Mapping.ofNat
    if !x.live then s.adminDone 0x93 0
    else if s.hostFails (pairAt w 1) (32 * n) || !(raw.all fun r => bitsOf r 196 60 == 0 && bitsOf r 192 2 != 3) || !(xs.all fun m => leafSize m.size && m.va % m.size == 0 && (unmapped x.maps m).isSome) then s.adminDone 0x92 0
    else
      let gone (va size : Nat) : Bool := xs.any fun m => m.va ≤ va && va + size ≤ m.va + m.size
      let s1 := (s.modPart p fun x => { x with maps := x.maps.filter fun m => !gone m.va m.size }).buildTables p
      (s1.dropLeaves p fun _ => true).adminDone 0 0

/-- The first address of those an access or a command needs now whose translation fails again, with the code (R213, R303). -/
def State.faultsAgain (s : State) (p : Nat) (vas : List Nat) (wr rd : List Nat) : Option (Nat × Nat) :=
  match vas.findSome? fun va => match s.xlate p va with | .error c => some (c, va) | .ok _ => none with
  | some e => some e
  | none => s.engRefused (vas.filterMap fun va => match s.xlate p va with | .ok l => some l | .error _ => none) wr rd

/-- An access of an element that waited is retried (R303): it faults again with a new record, or goes on. -/
def State.retryAcc (s : State) (p : Nat) (w : FqWait) : State :=
  match (s.elem w.elem).memq.find? fun y => y.wait && y.org.seq == w.seq with
  | none => s
  | some y =>
    let go : Acc := { y with wait := false }
    let vas := y.pcs.map fun q => q.va
    match s.faultsAgain p y.needs (if y.kind.writes then vas else []) vas with
    | some (c, va) => s.accFault w.elem go c va
    | none => s.putAcc w.elem go

/-- A command of a copy engine that waited is retried (R303). -/
def State.retryEng (s : State) (p : Nat) (w : FqWait) : State :=
  let c := clusNo w.elem
  match (s.clus c).eng.find? fun y => y.wait && y.org.elem == w.elem && y.org.seq == w.seq with
  | none => s
  | some y =>
    let go : EngCmd := { y with wait := false }
    match s.faultsAgain p (State.engNeeds y) [] [] with
    | some (code, va) => s.engFault c go code va
    | none => s.modEng c y fun _ => go

/-- The waiting accesses of a slot are retried in the order of its fault queue (R213, R303). -/
def State.retryAll (s : State) (p : Nat) : State :=
  let ws := (s.part p).fqWait
  let s0 : State := { s with regions := s.regions.mapVals fun k g => if k / 8 = p then { g with lastEvent := s.t7 } else g }
  ws.foldl (fun s w => match w.kind with
    | 1 => s.retryEng p w
    | 2 => s.retryDisp w
    | 3 => s.retryColl w
    | _ => s.retryAcc p w)
    (s0.modPart p fun x => { x with fqr := x.fqw, fqWait := [] })

/-- SERVICE (R213, R303). -/
def execService (s : State) : Out :=
  adminRun s 0x05 true [] (fun _ => true) fun p _ =>
    if (s.part p).live then (s.retryAll p).adminDone 0 0 else s.adminDone 0x93 0

-- FROST, THAW (R293, R294) -------------------------------------------------------------------------------------------------------------------------------

/-- An access whose request has left its cluster, or is performed but for the host's completion, runs on through a frost (R293). -/
def State.leftHome (s : State) (p a : Nat) (y : Acc) : Bool :=
  s.ownOf a y.org.ctx == p && (y.out || s.hasLeft a y || (y.kind == .store && (State.nextLine y).isNone))

/-- The CTL broadcast that holds a slot's clusters (R196, R293). -/
def State.frostFlits (s : State) (p : Nat) : List Flight := s.net.filter fun f => f.own == p && f.msg == .frost

/-- The broadcast has reached every cluster of the slot. -/
def State.allHeld (s : State) (p : Nat) : Bool := !(s.frostFlits p).isEmpty && (s.frostFlits p).all fun f => f.at_ == .here

/-- The broadcast starts, from the slot's lowest cluster (DESIGN CHOICE, log 116), where it is not under way. -/
def State.sendFrost (s : State) (p : Nat) : State :=
  let x := s.part p
  if (s.frostFlits p).isEmpty then (s.clustersOf p).foldl (fun s c => s.post (.clus (x.y0 * 48 + x.x0)) (.clus c) 3 0 p false .frost) s else s

/-- Freezes a slot: nothing of it moves until it is thawed (R293), but what has left its clusters. -/
def State.freeze (s : State) (p : Nat) : State :=
  { s.modPart p fun x => { x with life := .frosted, frozen := true, frozeAt := s.cycle } with
    net := s.net.filter fun f => !(f.own == p && f.msg == .frost)
    elems := s.elems.mapVals fun a e => if s.inRect p (clusNo a) then { e with memq := e.memq.map fun y => { y with left := s.leftHome p a y } } else e
    dev := { s.dev with frostAsk := s.dev.frostAsk.filter fun q => q != p } }

/-- The start of a LAUNCH is in progress: its stack's image is not read yet (R263, R275). -/
def State.starting (s : State) (p : Nat) : Bool := s.pkts.rows.any fun r => r.2.slot == p && r.2.type == 1 && !r.2.done && !r.2.stack && r.2.img.isNone

/-- FROST (R293): the admin command, or the policy core's answer to BRK and FRZR (R319, R328). A packet start in progress completes first; then a CTL broadcast goes to the slot's clusters
(R196), and the slot is held, all of it at once, when it has reached every one. -/
def execFrost (slot : Option Nat) (s : State) : Out :=
  match slot with
  | some p =>
    if !s.dev.frostAsk.contains p || (s.part p).life != .live || s.starting p then .next s
    else .next (if s.allHeld p then s.freeze p else s.sendFrost p)
  | none => adminRun s 0x06 true [] (fun _ => true) fun p _ =>
    if (s.part p).life != .live then s.adminDone 0x93 0
    else if s.starting p then s
    else if s.allHeld p then (s.freeze p).adminDone 0 0
    else s.sendFrost p

/-- A region's cycle marks after a standstill of n cycles (R131, R280, R281). -/
def Region.later (g : Region) (n t7 : Nat) : Region :=
  { g with parkAt := g.parkAt + n, waveAt := g.waveAt + n, snapAt := g.snapAt + n, snap := g.snap.map fun x => (x.1, x.2 + n), lastEvent := t7 }

/-- Lets a frozen slot run on (R294): held activations go on (R319), FRZR's tokens are sent (R328), cycle counts and the idle counts of elements without another tenant go
on from where they stood (R163, R297), and memory queues move where a completion of the host's released them. -/
def State.unfreeze (s : State) (p : Nat) : State :=
  let x := s.part p
  let n : Nat := s.cycle - x.frozeAt
  let run (q : Option Act) (a : Nat) : Option Act := match q with
    | some y => if s.ownOf a y.ctx == p then some { y with held := false } else some y
    | none => none
  let s1 : State := { s.modPart p fun x => { x with life := .live, frozen := false, frz := [], cycBase := x.cycBase + n } with
    elems := s.elems.mapVals fun a e =>
      { e with seqs := e.seqs.map fun q => run q a,
               lastBusy := if s.inRect p (clusNo a) && !s.shared (clusNo a) then e.lastBusy + n else e.lastBusy }
    regions := s.regions.mapVals fun k g => if k / 8 = p then g.later n s.t7 else g }
  let s2 := ((s1.elems.rows.map fun r => r.1).filter fun a => s1.inRect p (clusNo a)).foldl State.settle s1
  x.frz.foldl (fun s o => s.replyFrom .cp o 0) s2

/-- THAW (R294). -/
def execThaw (s : State) : Out :=
  adminRun s 0x07 true [] (fun _ => true) fun p _ =>
    if (s.part p).life == .frosted then (s.unfreeze p).adminDone 0 0 else s.adminDone 0x93 0

-- Gating (R125, R155, R204, R313) --------------------------------------------------------------------------------------------------------------------------

/-- A live allocation holds a granule of a third (R125). -/
def Elem.thirdBusy (e : Elem) (k : Nat) : Bool := e.handles.rows.any fun r => r.2.v && meets r.2.base r.2.size (4096 * k) 4096

/-- Gates a third of an element: the element, and whether it refused (R125). -/
def Elem.gateThird (e : Elem) (k : Nat) : Elem × Bool :=
  if nth e.thirds k .off = .off then (e, false)
  else if e.thirdBusy k then (e, true)
  else
    let lo := 0x20000 * k
    ({ e with thirds := setAt e.thirds k .off, mem := Memory.clear e.mem lo (lo + 0x20000) }, false)

/-- The elements of a rectangle of the module element grid (R285). -/
def gridElems (w : List Nat) : List Nat :=
  let a := nth w 1 0
  let b := nth w 2 0
  (List.range (bitsOf b 10 8 + 1)).flatMap fun j => (List.range (bitsOf b 0 10 + 1)).map fun i =>
    let x := bitsOf a 0 10 + i
    let y := bitsOf a 10 8 + j
    idAt (x / 12) (y / 8) (y % 8 * 12 + x % 12)

def thirdMasks : List Nat := [0x3FFFF, 0x3FFFF, 3]

/-- The rectangle lies in the grid, and the third is one of three (R285). -/
def thirdArgs (w : List Nat) : Bool :=
  let a := nth w 1 0
  let b := nth w 2 0
  bitsOf a 0 10 + bitsOf b 0 10 < 576 && bitsOf a 10 8 + bitsOf b 10 8 < 192 && nth w 3 0 ≤ 2

/-- GATE_THIRD (R125): DETAIL counts the elements that refuse. -/
def execGateThird (s : State) : Out :=
  adminRun s 0x0A false thirdMasks thirdArgs fun _ w =>
    let k := nth w 3 0
    let r := (gridElems w).foldl (fun (st : State × Nat) a =>
      let x := (st.1.elem a).gateThird k
      if x.2 then (st.1, st.2 + 1) else ((st.1.setElem a x.1).allocTouched a, st.2)) (s, 0)
    r.1.adminDone (if r.2 = 0 then 0 else 0x96) (BitVec.ofNat 32 r.2)

/-- WAKE_THIRD (R125): 2 µs later the third is ON. -/
def execWakeThird (s : State) : Out :=
  adminRun s 0x0B false thirdMasks thirdArgs fun _ w =>
    let k := nth w 3 0
    ((gridElems w).foldl (fun s a =>
      if nth (s.elem a).thirds k .on = .off then s.modElem a fun e => { e with thirds := setAt e.thirds k (.waking (s.now + 2000)) } else s) s).adminDone 0 0

/-- What is left of a read cache's lines when a group of its ways is gated: which of them stood in the group is free, and with no ways left all of them go
(R155). -/
def thinned {α : Type} (free : Nat) (ways : List Ways) (l : List α) : List α :=
  if (State.waysOnList ways).isEmpty then [] else (l.zipIdx.filter fun r => Config.freeBit (freeIdx free 7 r.2)).map fun r => r.1

/-- Gates a group: the ways, and whether they changed. -/
def gateGroup (ws : List Ways) (g : Nat) : List Ways := setAt ws g .off

def waysArgs (w : List Nat) : Bool :=
  let a := nth w 1 0
  if a % 2 = 0 then bitsOf a 1 4 < 12 && a < 2 ^ 9 else bitsOf a 1 11 < 1152

/-- GATE_WAYS (R155, R204). -/
def execGateWays (s : State) : Out :=
  adminRun s 0x0C false [0xFFF, 3] waysArgs fun _ w =>
    let a := nth w 1 0
    let g := nth w 2 0
    if a % 2 = 0 then
      let k := bitsOf a 1 4 * 16 + bitsOf a 5 4
      let x := s.slices.get {} k
      if nth x.ways g .off = .off then s.adminDone 0 0
      else
        let out := x.lines.filter fun l => l.way / 4 == g
        let s1 := State.retireAll (out.foldl (fun st l => State.writeBack l st) (s, []))
        let y := s1.slices.get {} k
        ({ s1 with slices := s1.slices.put k { y with ways := gateGroup y.ways g, lines := y.lines.filter fun l => l.way / 4 != g } } : State).adminDone 0 0
    else
      let c := bitsOf a 1 11
      let x := s.clus c
      if nth x.ways g .off = .off then s.adminDone 0 0
      else
        let ws := gateGroup x.ways g
        ({ s.setClus c { x with ways := ws, rc := thinned s.free ws x.rc } with free := s.free + x.rc.length } : State).adminDone 0 0

/-- WAKE_WAYS (R155, R204): 2 µs later the group is on, with every line invalid. -/
def execWakeWays (s : State) : Out :=
  adminRun s 0x0D false [0xFFF, 3] waysArgs fun _ w =>
    let a := nth w 1 0
    let g := nth w 2 0
    let wake (ws : List Ways) : List Ways := if nth ws g .on = .off then setAt ws g (.waking (s.now + 2000)) else ws
    if a % 2 = 0 then
      let k := bitsOf a 1 4 * 16 + bitsOf a 5 4
      let x := s.slices.get {} k
      ({ s with slices := s.slices.put k { x with ways := wake x.ways } } : State).adminDone 0 0
    else (s.modClus (bitsOf a 1 11) fun x => { x with ways := wake x.ways }).adminDone 0 0

/-- PSTATE (R313). -/
def execPstate (s : State) : Out :=
  adminRun s 0x0E false [3] (fun _ => true) fun _ w => ({ s with dev := { s.dev with pstate := nth w 1 0 } } : State).adminDone 0 0

/-- A slot holds a cluster of a die. -/
def State.dieHeld (s : State) (d : Nat) : Bool := s.parts.rows.any fun r => r.2.live && (s.clustersOf r.1).any fun c => dieOfClus c == d

def dieArgs (w : List Nat) : Bool := nth w 1 0 ≤ 23

/-- DIE_GATE (R313): refused while a slot holds a cluster of the die. -/
def execDieGate (s : State) : Out :=
  adminRun s 0x0F false [0x1F] dieArgs fun _ w =>
    let d := nth w 1 0
    if s.dieHeld d then s.adminDone 0x97 0
    else ({ s with dev := { s.dev with gated := if s.dev.gated.contains d then s.dev.gated else s.dev.gated ++ [d] } } : State).adminDone 0 0

/-- DIE_WAKE (R313). -/
def execDieWake (s : State) : Out :=
  adminRun s 0x10 false [0x1F] dieArgs fun _ w =>
    ({ s with dev := { s.dev with gated := s.dev.gated.filter fun d => d != nth w 1 0 } } : State).adminDone 0 0

-- Limits, injection, rings, harvest --------------------------------------------------------------------------------------------------------------------------

/-- SET_LIMITS (R284, R285): changes what word 1 names of a live slot. -/
def execSetLimits (s : State) : Out :=
  let has (w : List Nat) (k : Nat) : Bool := (nth w 1 0).testBit k
  let new (w : List Nat) : Part := State.newPart ([0, 0, 0] ++ [nth w 2 0, nth w 3 0])
  let ok (w : List Nat) : Bool :=
    let x := new w
    (!has w 0 || 1 ≤ x.weight) && (!has w 1 || (1 ≤ x.quota && x.quota ≤ 32)) && (!has w 2 || (1 ≤ x.hang && x.hang ≤ 60000))
      && (!has w 3 || (1 ≤ x.period && x.period ≤ 60))
  adminRun s 0x11 true [0xF, 0x7FFFFF, 0xFFFF] ok fun p w =>
    let x := new w
    if (s.part p).life != .live then s.adminDone 0x93 0
    else
      (s.modPart p fun y =>
        { y with weight := if has w 0 then x.weight else y.weight, quota := if has w 1 then x.quota else y.quota,
                 hang := if has w 2 then x.hang else y.hang, period := if has w 3 then x.period else y.period }).adminDone 0 0

/-- An element id that names an element (R3). -/
def isElem (a : Nat) : Bool := bitsOf a 13 5 < 24 && bitsOf a 7 4 < 12 && bitsOf a 0 7 < 96

/-- INJECT's operands are in range (R285). -/
def injectArgs (w : List Nat) : Bool :=
  let k := nth w 1 0 % 8
  let a := nth w 2 0
  let i := nth w 3 0
  let pa := pairAt w 2
  if k < 4 then a < 2 ^ 18 && isElem a && i < 2 ^ 16
  else if k = 4 then a < 1152 && i < 2 ^ 16
  else if k = 5 then a < 2 ^ 8 && a % 16 < 12 && i < 2 ^ 19
  else pa % 8 == 0 && tierOf pa == some (k - 6)

/-- INJECT (R309): a flip replaces an earlier one of its word; an empty mask ends it (log 60). -/
def execInject (s : State) : Out :=
  adminRun s 0x12 false [0x107, word32, word32, word32, word32, 0xFF] injectArgs fun _ w =>
    let k := nth w 1 0 % 8
    let mode : FlipMode := if (nth w 1 0).testBit 8 then .sticky else .once
    let mask : Nat := pairAt w 4 + nth w 6 0 % 256 * 2 ^ 64
    if k < 4 then
      let i := nth w 3 0
      (s.modElem (nth w 2 0) fun e =>
        let l := e.ecc.filter fun f => !(f.array == k && f.at_ == i)
        { e with ecc := if mask = 0 then l else l ++ [⟨k, i, mask, mode⟩] }).adminDone 0 0
    else
      let at_ : Nat := if k = 4 then nth w 2 0 * 2 ^ 16 + nth w 3 0
        else if k = 5 then (nth w 2 0 % 16 * 16 + nth w 2 0 / 16) * 2 ^ 19 + nth w 3 0 else pairAt w 2
      let l := s.dev.inject.filter fun f => !(f.array == k && f.at_ == at_)
      ({ s with dev := { s.dev with inject := if mask = 0 then l else l ++ [⟨k, at_, mask, mode⟩] } } : State).adminDone 0 0

/-- A power of two. -/
def ringPow2 (n : Nat) : Bool := n != 0 && 2 ^ Nat.log2 n == n

/-- METER_RING (R301): a new ring for the PF, empty. -/
def execMeterRing (s : State) : Out :=
  adminRun s 0x13 false [word32, word32, word32]
    (fun w => pairAt w 1 % 4096 == 0 && ringPow2 (nth w 3 0) && 16 ≤ nth w 3 0 && nth w 3 0 ≤ 65536) fun _ w =>
    let s1 : State := { s with dev := { s.dev with mbase := pairAt w 1, mslots := nth w 3 0 } }
    ((s1.modFn 128 fun x => { x with mring := { x.mring with wr := 0, rd := 0 } }).meterDrain).adminDone 0 0

/-- HARVEST_READ (R310): part of the dump's place in memory goes to the host. The one command of a harvested device. -/
def execHarvestRead (s : State) : Out :=
  let w := s.dev.admin.run.map BitVec.toNat
  let n := nth w 5 0
  if !s.dev.admin.busy || nth w 0 0 % 256 != 0x14 then .next s
  else if nth w 0 0 / 256 != 0 || !wordsClean w [word32, word32, word32, word32, word32] || pairAt w 1 % 4096 != 0 || pairAt w 3 % 4096 != 0
      || n % 4096 != 0 || n = 0 || 2 ^ 31 < n || dumpSize < pairAt w 3 + n then .next (s.adminDone 0x91 0)
  else match s.dev.mode with
    | .harvest _ _ =>
      if s.hostFails (pairAt w 1) n then .next (s.adminDone 0x54 0)
      else .next (({ s with host := Memory.write s.host (pairAt w 1) (Memory.read s.phys (dumpBase + pairAt w 3) n) } : State).adminDone 0 0)
    | _ => .next (s.adminDone 0x93 0)

-- Export and fabric (R341, R342) ------------------------------------------------------------------------------------------------------------------------------

/-- A window's entry from its 128 bits (R342). -/
def Window.ofNat (x : Nat) : Window :=
  { v := bitsOf x 127 1 == 1, perm := bitsOf x 124 3, pmod := bitsOf x 112 12, pslot := bitsOf x 105 7, base := bitsOf x 64 41, len := bitsOf x 32 32 }

/-- EXPORT (R341): V = 0 withdraws the window. -/
def execExportWindow (s : State) : Out :=
  let entry (w : List Nat) : Nat := pairAt w 2 + pairAt w 4 * 2 ^ 64
  adminRun s 0x15 true [0xF, 0, word32, word32, word32] (fun w => !(Window.ofNat (entry w)).v || 1 ≤ (Window.ofNat (entry w)).len) fun p w =>
    if !(s.part p).live then s.adminDone 0x93 0
    else (s.modPart p fun x => { x with exports := x.exports.put (nth w 1 0) (Window.ofNat (entry w)) }).adminDone 0 0

/-- FABRIC (R340, R341): module id, route-table entries, and ports that are down or disabled back to training (log 90). -/
def execFabric (s : State) : Out :=
  adminRun s 0x16 false [0xFFF, word32, word32, 0xFFF, 0x1FFF, word32, 0xF]
    (fun w => pairAt w 2 % 2 == 0 && nth w 5 0 ≤ 4096 && nth w 4 0 + nth w 5 0 ≤ 4096) fun _ w =>
    let n := nth w 5 0
    let idle : Bool := nth w 1 0 == 0 && pairAt w 2 == 0 && nth w 4 0 == 0 && n == 0
    if !idle && (s.parts.rows.any fun r => r.2.life != .free) then s.adminDone 0x93 0
    else if s.hostFails (pairAt w 2) (2 * n) && n != 0 then s.adminDone 0x54 0
    else
      let mask := pairAt w 6
      let s1 : State := if idle then s else
        { s with dev := { s.dev with modId := nth w 1 0, routes := (List.range n).foldl (fun t k =>
            t.put (nth w 4 0 + k) (BitVec.ofNat 16 (Memory.readN s.host (pairAt w 2 + 2 * k) 2))) s.dev.routes } }
      ((List.range 36).foldl (fun s k => if mask.testBit k && (s.port k).state != 2 then s.modPort k fun x => { x with state := 1 } else s) s1).adminDone 0 0

end Sys2Proof.Machine
end

