-- ==== Sys2Proof/Machine/Image.lean ====
section
/-! DEFINITION. EVICT and RESTORE (R295, R296): images, the move of a slot's state to another place (R288), and its pages. -/

namespace Sys2Proof.Machine

-- Moving absolute identifiers -----------------------------------------------------------------------------------------------------------------

/-- A move of a rectangle of clusters from one origin to another, and of its slot from one number to another. -/
structure Move where
  fx : Nat
  fy : Nat
  tx : Nat
  ty : Nat
  fromSlot : Nat := 0
  toSlot : Nat := 0
  deriving DecidableEq, Repr

/-- Where a cluster of the rectangle goes. -/
def Move.clus (m : Move) (c : Nat) : Nat := (m.ty + c / 48 - m.fy) * 48 + (m.tx + c % 48 - m.fx)

/-- Where an element goes. -/
def Move.elem (m : Move) (a : Nat) : Nat := idOfClus (m.clus (clusNo a)) (elemIdx a)

/-- Where a slot's number goes. -/
def Move.slot (m : Move) (p : Nat) : Nat := if p = m.fromSlot then m.toSlot else p

/-- A table keyed by 8 × slot + k. -/
def Move.keys {α : Type} (m : Move) (t : Table α) : Table α := t.rows.foldl (fun u r => u.put (8 * m.slot (r.1 / 8) + r.1 % 8) r.2) .empty

def Move.org (m : Move) (o : Org) : Org := { o with elem := m.elem o.elem }

def Move.unit (m : Move) (u : Option (Nat × Nat)) : Option (Nat × Nat) := u.map fun x => (m.clus x.1, x.2)

def Move.req (m : Move) (r : Option Req) : Option Req := r.map fun x => { x with target := m.elem x.target }

def Move.alloc (m : Move) (r : AllocReq) : AllocReq := { r with org := m.org r.org, target := m.elem r.target, unit := m.unit r.unit }

def Move.kind (m : Move) (k : AccKind) : AccKind :=
  match k with
  | .freed t => .freed (m.elem t)
  | .ldc t c => .ldc (m.elem t) c
  | .stc t => .stc (m.elem t)
  | k => k

def Move.acc (m : Move) (y : Acc) : Acc :=
  { y with org := m.org y.org, kind := m.kind y.kind, joined := y.joined.map fun r => (m.elem r.1, r.2), walk := false }

def Move.eng (m : Move) (y : EngCmd) : EngCmd := { y with org := m.org y.org, walk := false }

def Move.msg (m : Move) (x : Msg) : Msg :=
  match x with
  | .alloc r => .alloc (m.alloc r)
  | .grant r h b => .grant (m.alloc r) h b
  | .refuse r c => .refuse (m.alloc r) c
  | .promote a slot u ctx pool key => .promote (m.elem a) slot (m.unit u) ctx pool key
  | .free o h k => .free (m.org o) h k
  | .hold o h k => .hold (m.org o) h k
  | .tful o h b => .tful (m.org o) h b
  | .aqry o k a p => .aqry (m.org o) k a p
  | .reply o t => .reply (m.org o) t
  | .refused o c => .refused (m.org o) c
  | .notice o => .notice (m.org o)
  | .clusAcc o c => .clusAcc (m.org o) { c with target := m.elem c.target }
  | .clusRep o c e => .clusRep (m.org o) { c with target := m.elem c.target } e
  | .mwld o r c off d l f => .mwld (m.org o) r c off d l f
  | .arr o op => .arr (m.org o) op
  | .splitReq o d u near c r _ => .splitReq (m.org o) (m.elem d) u near c r 0
  | .split o u t ru c r => .split (m.org o) u t ru c r
  | .splitRes o c ru rec lo hi pid => .splitRes (m.org o) c ru rec lo hi pid
  | .mreq o line pa => .mreq (m.org o) line pa
  | .refill a l o b => .refill (m.elem a) l (m.org o) b
  | .frost => .frost
  | .wstat o u => .wstat (m.org o) u
  | .ph o n op rl sc => .ph (m.org o) n op rl sc
  | .bind o n b l u => .bind (m.org o) n b l u
  | .engine c => .engine (m.eng c)
  | .disp o c sc => .disp (m.org o) c sc
  | .dflsh o k a => .dflsh (m.org o) k a
  | .coll o c sc => .coll (m.org o) c sc
  | .kick o f q w => .kick (m.org o) (m.slot f) q w
  | .lnch o q n ps => .lnch (m.org o) q n ps
  | .sysc o v a => .sysc (m.org o) v a
  | .globRep o a ps => .globRep (m.org o) (m.kind a) ps
  | .ack o p => .ack (m.org o) p
  | .tok t => .tok t
  | .link k w => .link k w
  | .release k ph rs ac ch => .release k ph rs ac ch

def Move.item (m : Move) (i : SendItem) : SendItem := { i with org := m.org i.org, msg := m.msg i.msg }

def Move.sect (m : Move) (x : Sect) : Sect :=
  { x with buf := x.buf.map fun r => (m.elem (r.1 / 2 ^ 19) * 2 ^ 19 + r.1 % 2 ^ 19, r.2), hold := x.hold.map m.item }

def Move.element (m : Move) (e : Elem) : Elem :=
  { e with reqs := e.reqs.map m.req, lists := e.lists.mapVals fun _ l => l.map m.alloc, sendq := e.sendq.map m.item, memq := e.memq.map m.acc,
           sects := e.sects.map m.sect, wdisc := e.wdisc.map (fun r => (m.elem r.1, r.2)), sent := m.keys e.sent, recv := m.keys e.recv, perf := m.keys e.perf,
           sending := e.sending.map fun x => { x with toks := x.toks.map fun r => (m.org r.1, r.2), flits := x.flits.map m.msg } }

def Move.cluster (m : Move) (x : Cluster) : Cluster :=
  { x with walkers := x.walkers.mapVals fun _ w => { w with reqs := w.reqs.map m.req, next := 0 }
           tlb := x.tlb.map fun l => { l with own := m.slot l.own }
           arrays := x.arrays.mapVals fun _ y => { y with own := m.slot y.own, bind := y.bind.map fun b => (b.1, b.2.1, m.org b.2.2) }
           arrMsgs := x.arrMsgs.map fun y => { y with org := m.org y.org }
           eng := x.eng.map m.eng }

def Move.place (m : Move) (p : Place) : Place :=
  match p with
  | .elem a => .elem (m.elem a)
  | .clus c => .clus (m.clus c)
  | p => p

/-- A flight at its new place: one that was under way starts anew from its source, on the minimal route; a reply of the memory plane is at its cluster's port (R293), and a request has
none: its access gives a new one. -/
def Move.flight (m : Move) (f : Flight) : Flight :=
  let src := m.place f.src
  let dst := m.place f.dst
  let g : Flight := { f with src := src, dst := dst, msg := m.msg f.msg, own := m.slot f.own }
  if f.at_ == .here then g
  else if 4 ≤ f.vn then { g with at_ := .here, route := [], noise := 0 }
  else { g with chk := State.flitChk g, noise := 0, vc := 0, longs := 0, route := routeOf (State.placeClus src) (State.placeClus dst) none, at_ := .cand, port := rOut (State.placeClus src) 31, age := 0, sat := none }

-- Two tenants' halves put together (R291) --------------------------------------------------------------------------------------------------------------

/-- The rows of one table over those of another. -/
def Table.over_ {α : Type} (t u : Table α) : Table α := t.rows.foldl (fun v r => v.put r.1 r.2) u

/-- Slots of two lists, the first's where it has one. -/
def pickSlots {α : Type} (xs ys : List (Option α)) : List (Option α) := (xs.zip ys).map fun r => match r.1 with | some x => some x | none => r.2

/-- The translations that still hold: none whose page is retired on this module (R296). -/
def State.soundLeaf (s : State) (l : Leaf) : Bool := l.tier == 2 || !(s.dev.retired.any fun a => meets l.pa l.size a (2 ^ 16))

def State.soundElem (s : State) (e : Elem) : Elem := { e with memq := e.memq.map fun y => { y with xl := y.xl.filter s.soundLeaf } }

def State.soundClus (s : State) (x : Cluster) : Cluster :=
  { x with tlb := x.tlb.filter fun l => s.soundLeaf l.leaf, eng := x.eng.map fun y => { y with xl := y.xl.filter s.soundLeaf } }

/-- What counts cycles from a mark goes on from another module's clock, which stood at `t` when this one stands at `now` (R294, R297). -/
def Elem.rebased (e : Elem) (t now : Nat) : Elem := { e with lastBusy := e.lastBusy + now - t }

def Cluster.rebased (x : Cluster) (t now : Nat) : Cluster := { x with phasers := x.phasers.mapVals fun _ y => { y with due := y.due.map fun d => d + now - t } }

def Region.rebased (g : Region) (t now : Nat) : Region :=
  { g with parkAt := g.parkAt + now - t, snapAt := g.snapAt + now - t, snap := g.snap.map fun x => (x.1, x.2 + now - t) }

/-- A restored element at its place: the place keeps its gates, its log and its errors; where another tenant shares it, each has its half, and the
generator of the tenant that runs there stays (R67; log 102). -/
def Elem.placed (mine there : Elem) (shared : Bool) : Elem :=
  if shared then
    { there with
      nodes := mine.nodes.over_ there.nodes, ctxs := mine.ctxs.over_ there.ctxs, seqs := pickSlots mine.seqs there.seqs
      ready := there.ready ++ mine.ready, reqs := pickSlots mine.reqs there.reqs, handles := mine.handles.over_ there.handles
      lists := mine.lists.over_ there.lists, win := mine.win.over_ there.win, mem := mine.mem.foldl (fun t c => Memory.put t c.1 c.2) there.mem
      idle := there.idle ++ mine.idle, sendq := there.sendq ++ mine.sendq, memq := there.memq ++ mine.memq
      aidNext := max mine.aidNext there.aidNext, seqNext := max mine.seqNext there.seqNext, sent := mine.sent.over_ there.sent
      recv := mine.recv.over_ there.recv, classes := mine.classes.over_ there.classes, sects := there.sects ++ mine.sects
      wbuf := (match there.wbuf with | some h => some h | none => mine.wbuf), wdisc := there.wdisc ++ mine.wdisc
      wrote := there.wrote ++ mine.wrote, perf := mine.perf.over_ there.perf, sending := there.sending ++ mine.sending, late := there.late ++ mine.late }
  else { mine with thirds := there.thirds, errlog := there.errlog, ecc := there.ecc, allocNext := there.allocNext, wordNext := there.wordNext, startNext := there.startNext }

/-- A restored cluster at its place. -/
def Cluster.placed (mine there : Cluster) (shared : Bool) : Cluster :=
  if shared then
    { there with rc := there.rc ++ mine.rc, tlb := there.tlb ++ mine.tlb, binds := there.binds ++ mine.binds,
                 walkers := mine.walkers.over_ there.walkers, phasers := mine.phasers.over_ there.phasers, arrays := mine.arrays.over_ there.arrays,
                 arrMsgs := there.arrMsgs ++ mine.arrMsgs, noCfg := there.noCfg ++ mine.noCfg, eng := there.eng ++ mine.eng,
                 routes := mine.routes.over_ there.routes }
  else { mine with ways := there.ways, hedges := there.hedges, arrNext := there.arrNext }

namespace State

-- EVICT (R295) -----------------------------------------------------------------------------------------------------------------------------------------

/-- The share of a slot in an element and a cluster of its rectangle. -/
def mineElem (s : State) (p a : Nat) (e : Elem) : Elem :=
  let c := clusNo a
  if s.shared c then
    let ts := 1 - s.tsOf c p
    let q := (s.hedge c (4 * ts)).own
    let r := s.share a (4 * ts)
    { e.clearedHalf q ts r.1 r.2 s.cycle with perf := e.perf.keep fun k _ => k / 8 == p }
  else e

def mineClus (s : State) (p c : Nat) (x : Cluster) : Cluster :=
  if s.shared c then x.clearedHalf (s.hedge c (4 * (1 - s.tsOf c p))).own (1 - s.tsOf c p) else x

/-- Bytes and poisoned words of a slot's GDDR-7 and LPDDR-6 pages. -/
def inPages (ms : List Mapping) (a : Nat) : Bool := ms.any fun m => m.tier != 2 && m.pa ≤ a && a < m.pa + m.size

/-- The image of a slot (R295). -/
def imageOf (s : State) (p : Nat) (move : Bool) : Image :=
  let x := s.part p
  { bytes := Config.imageBytes s.free, slot := p, at7 := s.t7, ok := true, move := move, home := true, part := x, fn := s.fn p
    elems := (s.elems.rows.filter fun r => s.inRect p (clusNo r.1)).map fun r => (r.1, s.mineElem p r.1 r.2)
    clusters := (s.clusters.rows.filter fun r => s.inRect p r.1).map fun r => (r.1, s.mineClus p r.1 r.2)
    net := s.net.filter fun f => f.own == p
    regions := s.regions.rows.filter fun r => r.1 / 8 == p
    pkts := s.pkts.rows.filter fun r => r.2.slot == p
    phys := if move then s.phys.filter fun c => inPages x.maps c.1 else []
    poison := if move then s.poison.filter (inPages x.maps) else [] }

/-- A slot's place is released, and its pages with MOVE (R295). Pages that another slot maps stay. -/
def release_ (s : State) (p : Nat) (move : Bool) : State :=
  let x := s.part p
  let s1 := (s.clearSlot p).setHedges p false
  let others := (s.parts.rows.filter fun r => r.1 != p).flatMap fun r => r.2.maps
  let gone (a : Nat) : Bool := move && inPages x.maps a && !inPages others a
  let s2 : State := { s1 with phys := s1.phys.filter fun c => !gone c.1, poison := s1.poison.filter fun w => !gone w }
  let s3 := if move then s2.freeTables p else s2
  s3.modPart p fun y => { y with life := .evicted, live := false, maps := if move then [] else y.maps }

end State

/-- Requests of a slot that had left its clusters when it was frozen and have not been performed (R293), with their elements: a flit is on its way to home, or the host has not
completed the store. -/
def State.underWay (s : State) (p : Nat) : List (Nat × Acc) :=
  s.elems.rows.flatMap fun r =>
    (r.2.memq.filter fun y => y.left && !y.out && !y.wait && s.ownOf r.1 y.org.ctx == p && (s.hasLeft r.1 y || (y.kind == .store && (State.nextLine y).isNone))).map fun y => (r.1, y)

/-- A request under way waits for the host: it goes to the host-link unit, or its store is not complete there. -/
def State.atHost (s : State) (a : Nat) (y : Acc) : Bool :=
  (State.nextLine y).isNone || match s.reqFlit a y with
    | some n => s.sliceAt n == some 192
    | none => false

/-- An EVICT waits: requests under way to the module's memory run on to home (R293), and a reply of the host's is awaited for 10 ms (R295). -/
def State.awaits (s : State) (p : Nat) : Bool :=
  ((s.underWay p).any fun r => !s.atHost r.1 r.2)
    || ((!(s.underWay p).isEmpty || s.hostq.any fun w => w.own == p) && s.t7 < s.dev.admin.since + 70000000)

/-- A reply that its gateway still awaits is entered as a poison token with HOST_XLATE (R295). -/
def State.lateReplies (s : State) (p : Nat) : State :=
  (s.underWay p).foldl (fun s r => (((s.dropReq r.1 r.2).unjoin r.1 r.2).memqDrop r.1 r.2.org.seq).poisonReply r.2.org (State.contOfAcc r.2) 0x54) s

/-- EVICT (R295). The image's signature takes a leaf (R300), its bytes cross the host link (R298); where the host fails the slot stays as it is, with HOST_XLATE (log 18). -/
def execEvict (s : State) : Out :=
  adminRun s 0x08 true [word32, word32, 1] (fun w => pairAt w 1 % 4096 == 0) fun p w =>
    let move : Bool := nth w 3 0 == 1
    let n := (Config.imageBytes s.free).length
    if (s.part p).life != .frosted then s.adminDone 0x93 0
    else if s.awaits p then s
    else if s.hostFails (pairAt w 1) n then s.adminDone 0x54 0
    else
      let s1 := (((s.lateReplies p).dmaAdd p n).emitRecord p 3)
      let img := s1.imageOf p move
      let s2 := (s1.release_ p move).imagePut (pairAt w 1) img
      ({ s2 with free := s2.free + 1, dev := { s2.dev with leafNo := s2.dev.leafNo + 1 } } : State).adminDone 0 0

namespace State

-- RESTORE (R296) ------------------------------------------------------------------------------------------------------------------------------------------

/-- The place of a RESTORE (R296): the given origin, or the lowest one where the rectangle is admitted. -/
def findPlace (s : State) (p : Nat) (x : Part) (target : Nat) : Option (Nat × Nat) :=
  let ok (c : Nat) : Bool := s.rectOk p (c % 48) (c / 48) x.w x.h x.ts x.shr
  if target = 0xFFFF then ((List.range 1152).find? ok).map fun c => (c % 48, c / 48)
  else if target < 2 ^ 11 && bitsOf target 0 6 < 48 && bitsOf target 6 5 < 24 && ok (bitsOf target 6 5 * 48 + bitsOf target 0 6) then
    some (bitsOf target 0 6, bitsOf target 6 5)
  else none

/-- Spare pages for retired ones (R296, R308), each of its tier and none of them `taken`; none where they do not suffice. -/
def sparesFor (s : State) : List Nat → List Nat → Option (List (Nat × Nat))
  | _, [] => some []
  | taken, pa :: l => match s.nextSpare ((tierOf pa).getD 0) taken with
    | none => none
    | some a => (sparesFor s (a :: taken) l).map fun r => (pa, a) :: r

/-- The retired pages that a mapping list touches, each with the spare that it goes to: none of those that the list maps itself. -/
def retiredIn (s : State) (ms : List Mapping) : Option (List (Nat × Nat)) :=
  let own := (ms.filter fun m => m.tier != 2 && m.size == 2 ^ 16).map fun m => m.pa
  s.sparesFor own (s.dev.retired.filter fun a => ms.any fun m => m.tier != 2 && meets m.pa m.size a (2 ^ 16))

/-- An image's mappings with every retired page on its spare. -/
def movedMaps (rs : List (Nat × Nat)) (ms : List Mapping) : List Mapping := rs.foldl (fun l r => l.flatMap (splitMap r.1 r.2 3)) ms

/-- The pages of an image's mappings are available here (R296), with spares for the retired ones and room for their tables. -/
def pagesFree (s : State) (p : Nat) (ms : List Mapping) : Bool :=
  (ms.all fun m => m.tier == 2 || (tierBase m.tier ≤ m.pa && m.pa + m.size ≤ tierEnd m.tier && m.tier < 2 && !(m.tier == 1 && s.dev.mode == .seedling)
    && (s.parts.rows.all fun r => r.1 == p || !(r.2.maps.any fun n => n.tier == m.tier && meets n.pa n.size m.pa m.size))
    && !(s.dev.tablePages.any fun r => meets r.2 (2 ^ 16) m.pa m.size)))
    && match s.retiredIn ms with
       | some rs => mapsFit (movedMaps rs ms)
       | none => false

/-- The retired pages of an image's mappings, with their spares. -/
def imageMoves (s : State) (img : Image) : List (Nat × Nat) := (s.retiredIn img.part.maps).getD []

/-- The pages that an image brings are written, retired ones to their spares. -/
def bringPages (s : State) (img : Image) : State :=
  let rs := s.imageMoves img
  let to_ (a : Nat) : Nat := match rs.find? fun r => r.1 ≤ a && a < r.1 + 2 ^ 16 with | some r => moved r.1 r.2 a | none => a
  { s with phys := img.phys.foldl (fun m c => Memory.put m (to_ c.1) c.2) s.phys, poison := s.poison ++ img.poison.map to_ }

/-- The slot as it stands after the restore (R296, R297): on its own module its times went on by the reference, in its own slot or in another, elsewhere by the given
nanoseconds. -/
def restoredPart (s : State) (p : Nat) (img : Image) (own : Bool) (x y ns : Nat) (m : Move) : Part :=
  let old := img.part
  let base : Part := if own then s.part p
    else { old with guest := old.guest + (if img.home then s.t7 - img.at7 else 7 * ns), cycBase := s.cycle, cycAdd := old.frozeAt - old.cycBase + old.cycAdd, frozeAt := s.cycle, exports := old.exports }
  { base with life := .frosted, live := true, frozen := true, x0 := x, y0 := y, fqWait := old.fqWait.map fun w => { w with elem := m.elem w.elem },
              fqw := old.fqw, fqr := old.fqr, frz := old.frz.map m.org, maps := if img.move then movedMaps (s.imageMoves img) old.maps else base.maps }

/-- The packets of an image on a module that has not started them, renumbered from `off`; those that the slot had before are gone. -/
def bringPkts (s : State) (p : Nat) (img : Image) (off : Nat) : State :=
  let ps := img.pkts.map fun r => (r.1 + off, { r.2 with slot := p, fn := if r.2.fn == img.slot then p else r.2.fn, parent := r.2.parent.map fun k => k + off, graph := r.2.graph.map fun k => k + off })
  { s with pkts := ps.foldl (fun t r => t.put r.1 r.2) (s.pkts.keep fun _ x => x.slot != p), pidNext := ps.foldl (fun k r => max k (r.1 + 1)) s.pidNext }

def StackRun.shift (off : Nat) (x : StackRun) : StackRun := { x with pid := x.pid + off }

/-- Puts a slot's state in its place (R296). -/
def putImage (s : State) (p : Nat) (img : Image) (own : Bool) (x y ns : Nat) : State :=
  let m : Move := ⟨img.part.x0, img.part.y0, x, y, img.slot, p⟩
  let t := img.part.frozeAt
  let part := s.restoredPart p img own x y ns m
  let off : Nat := if own then 0 else s.pidNext
  let s0 := if img.move then s.bringPages img else s
  let s1 := ({ s0 with parts := s0.parts.put p part } : State).setHedges p true
  let s2 := img.clusters.foldl (fun s r => let c := m.clus r.1; s.modClus c fun z => (s.soundClus (if own then m.cluster r.2 else Cluster.rebased (m.cluster r.2) t s.cycle)).placed z (s.shared c)) s1
  let s3 := img.elems.foldl (fun s r => let a := m.elem r.1; s.modElem a fun z => (s.soundElem (if own then m.element r.2 else (m.element r.2).rebased t s.cycle)).placed z (s.shared (clusNo a))) s2
  let still : Bool := own && x = img.part.x0 && y = img.part.y0
  let reg (g : Region) : Region :=
    if own then g
    else { g.rebased t s.cycle with wave := none, run := g.run.map (StackRun.shift off), parked := g.parked.map (StackRun.shift off), next := g.next.map (StackRun.shift off) }
  let s4 : State := { s3 with
    net := s3.net ++ (if still then img.net else (img.net.filter fun f => f.vn != 4).map m.flight)
    regions := img.regions.foldl (fun t r => t.put (8 * p + r.1 % 8) (reg r.2)) (s3.regions.keep fun k _ => k / 8 != p)
    hostq := if own then s3.hostq.map fun w => if w.own == p then { w with elem := m.elem w.elem } else w else s3.hostq
    disp := s3.disp.mapVals fun _ d => { d with
      ents := d.ents.map fun e => if e.slot == p then { e with org := m.org e.org } else e
      flushes := d.flushes.map fun e => if e.slot == p then { e with org := m.org e.org } else e }
    coll := s3.coll.mapVals fun _ d => { d with
      runs := d.runs.map fun e => if e.slot == p then { e with org := m.org e.org } else e
      starting := d.starting.map fun e => if e.slot == p then
        { e with org := m.org e.org, run := e.run.map fun r => { r with org := m.org r.org } } else e } }
  let s5 := if own then s4 else (s4.bringPkts p img off).modFn p fun z => { img.fn with bound := true, vmask := z.vmask, vpend := z.vpend }
  (s5.buildTables p).emitRecord p 4

end State

/-- RESTORE (R296): the image, then a place, then memory. -/
def execRestore (s : State) : Out :=
  adminRun s 0x09 true [word32, word32, 0xFFFF, word32, word32] (fun w => pairAt w 1 % 4096 == 0 && (nth w 3 0 < 2 ^ 11 || nth w 3 0 == 0xFFFF)) fun p w =>
    let life := (s.part p).life
    if !(life == .evicted || (life == .free && !(s.fn p).bound)) then s.adminDone 0x93 0
    else match (s.images.find? fun r => r.1 == pairAt w 1) with
      | none => s.adminDone 0x95 0
      | some (_, img) =>
        -- the image of this slot's own eviction
        let own : Bool := img.home && life == .evicted && img.slot == p && img.part.frozeAt == (s.part p).frozeAt
        let n := img.bytes.length
        if s.hostFails (pairAt w 1) n || Memory.read s.host (pairAt w 1) n != img.bytes || !img.ok || !s.dev.manifest.trust.contains img.key || !(img.move || own) then s.adminDone 0x95 0
        else match s.findPlace p img.part (nth w 3 0) with
          | none => s.adminDone 0x94 0
          | some (x, y) =>
            if img.move && !s.pagesFree p img.part.maps then s.adminDone 0x92 0
            else ((s.putImage p img own x y (pairAt w 4)).dmaAdd p n).adminDone 0 0

end Sys2Proof.Machine
end

