-- ==== Sys2Proof/Machine/Device.lean ====
section
/-! DEFINITION. The device as a whole: power, reset and bring-up (R311, R312, R340), firmware (R315), fatal errors (R276, R310), droop (R314) and the host's
invalidations (R216, R253). -/

namespace Sys2Proof.Machine

namespace State

/-- What outlives a loss of power or a reset: the host, what was sent, the flash with its manifest, counters and versions, and the model's own clock and
agenda. -/
def restart (s : State) (mode : Mode) : State :=
  { State.reset with
    cycle := s.cycle, t7 := s.t7, agenda := s.agenda, free := s.free, host := s.host, hostBad := s.hostBad, msix := s.msix, rosOut := s.rosOut
    images := s.images
    dev := { mode := mode, manifest := s.dev.manifest, retired := s.dev.retired, tablePages := s.dev.tablePages, leafNo := s.dev.leafNo, minVersion := s.dev.minVersion,
             versions := s.dev.versions } }

end State

/-- The boot ROM verifies every image before it runs (R311): each was signed when it was taken, and none, nor the manifest, may be older than the counter. -/
def State.boots (s : State) : Bool := s.dev.minVersion ≤ s.dev.manifest.version && s.dev.versions.rows.all fun r => s.dev.minVersion ≤ r.2

/-- What the device comes up to: seedling mode (R312); off where an image is refused, DESIGN CHOICE (log 106). -/
def State.bootMode (s : State) : Mode := if s.boots then .seedling else .off

/-- POWER_ON (R311, R312): the device comes up in seedling mode. -/
def execPowerOn (s : State) : Out := if s.dev.mode == .off then .next (s.restart s.bootMode) else .next s

/-- DEVICE_RESET (R310, R340): the device comes up anew. -/
def execDeviceReset (s : State) : Out := if s.dev.mode == .off then .next s else .next (s.restart s.bootMode)

/-- POWER_LOSS (R300): an HSS leaf may have been committed without being used. -/
def execPowerLoss (s : State) : Out :=
  let s1 := s.restart .off
  .next { s1 with free := s.free + 1, dev := { s1.dev with leafNo := s1.dev.leafNo + (Config.freeBit (freeIdx s.free 6 0)).toNat } }

/-- DIE_BIST_PASS (R312): a die is admitted; with the last one the device reports full service on the PF's ring. -/
def execDieBistPass (die : Nat) (s : State) : Out :=
  if s.dev.mode != .seedling || 24 ≤ die || s.dev.admitted.contains die then .next s
  else
    let l := s.dev.admitted ++ [die]
    let s1 : State := { s with dev := { s.dev with admitted := l } }
    if l.length < 24 then .next s1 else .next (({ s1 with dev := { s1.dev with mode := .service } } : State).ringPush 128 (Config.openRecord 24))

/-- FIRMWARE_UPDATE (R311, R315): a signed image or manifest that is no older than the counter is taken. A manifest's vendor-signed section holds from then on (log 106). -/
def execFirmwareUpdate (img : FwImage) (s : State) : Out :=
  if s.dev.mode == .off || !img.signed || img.version < s.dev.minVersion then .next s
  else match img.manifest with
  | some m => .next { s with dev := { s.dev with manifest := { m with version := img.version } } }
  | none => .next { s with dev := { s.dev with versions := s.dev.versions.put img.which img.version } }

/-- POLICY_WATCHDOG_EXPIRY (R276, R310): a fatal device error. -/
def execPolicyWatchdogExpiry (s : State) : Out := if s.up then .next (s.harvest 1) else .next s

/-- TIRZON_MEMORY_UE (R310): a fatal device error. -/
def execTirzonMemoryUe (s : State) : Out := if s.up then .next (s.harvest 2) else .next s

/-- DROOP (R314): the die's clock stretches; the slots on it get DROOP and the PF's ring a record. -/
def execDroop (die : Nat) (s : State) : Out :=
  if !s.up || 24 ≤ die || s.dev.droop.contains die then .next s
  else
    let ps := (s.parts.rows.filter fun r => r.2.live && (s.clustersOf r.1).any fun c => dieOfClus c == die).map fun r => r.1
    let s1 : State := { s with dev := { s.dev with droop := s.dev.droop ++ [die] } }
    .next ((ps.foldl (fun s p => s.setVce p 2) s1).ringPush 128 (Config.openRecord die))

/-- DROOP_END (R314): the sag is over. -/
def execDroopEnd (die : Nat) (s : State) : Out := .next { s with dev := { s.dev with droop := s.dev.droop.filter fun d => d != die } }

/-- ATS_INVALIDATION (R211, R253): the host-tier translations of a range of host addresses are dropped. -/
def execAtsInvalidation (fn va len : Nat) (s : State) : Out := .next (s.dropLeaves fn fun l => l.tier == 2 && meets l.pa l.size (s.hostSpace fn + va) len)

end Sys2Proof.Machine
end

