-- ==== Sys2Proof/Machine/Firing.lean ====
section
/-! DEFINITION. The array's reads of a local store, with the storage errors that they meet (R124): MWLD (R179) and ARRAY_FIRING_START (R180, R181). -/

namespace Sys2Proof.Machine

/-- MWLD (R179): the flits leave one per cycle, in ascending order, with what the source holds now; the sequence slot is held meanwhile. -/
def execMwld (o : OpY) (s : State) : Out :=
  runWord s fun s a act =>
    let src := (ysrc act o o.a).toNat
    let n := (ysrc act o o.b).toNat
    let off := bitsOf o.lit.toNat 0 17
    if n % 32 ≠ 0 ∨ n < 32 ∨ 0x20000 < n then .bad 0x4B
    else if src % 32 ≠ 0 then .bad 0x3C
    else match s.rangeCheck a act.ctx src n with
      | some c => .bad c
      | none =>
        let ecc := s.eccFatal a act.ctx (act.org a 0) [(0, wordsAt src n)]
        if ecc.2 then .go ecc.1 act
        else
          let s := ecc.1
          let ns := s.nextSeq a
          let org := act.org a ns.2
          let m := (s.elem a).mem
          let flit (j : Nat) : Msg := .mwld org o.ka.toNat o.kb.toNat (off + 32 * j) (Memory.read m (src + 32 * j) 32) (j + 1 == n / 32) (o.lit.getLsbD 31)
          let s1 := ns.1.post (.elem a) (.clus (clusNo a)) 0 0 (s.ownOf a act.ctx) true (flit 0)
          let s2 := if n / 32 ≤ 1 then s1
            else s1.modElem a fun e => { e with sending := e.sending ++ [{ aid := act.aid, flits := ((List.range (n / 32)).drop 1).map flit }] }
          .go s2 { act with hold := n / 32 }

/-- The storage that a firing reads, by element: the A tile, the scale tile, and the members' weight buffers (R124). -/
def firingReads (s : State) (c : Nat) (x : ArrEnt) (a : Nat × HEntry) (sc : Option (Nat × HEntry)) : List (Nat × List Nat) :=
  (a.1, wordsAt a.2.addr (packedBytes x.af (x.m * x.k)))
    :: (match sc with | some r => [(r.1, wordsAt r.2.addr (4 * (x.m * x.k / 32)))] | none => [])
    ++ x.members.filterMap fun j => (s.buffer c j).map fun y => (idOfClus c j, wordsAt y.addr (bufferNeed x))

/-- A firing's reads meet injected errors; whether one of them was uncorrectable, and fatal. -/
def firingErrors (s : State) (o : Org) (rs : List (Nat × List Nat)) : State × Bool :=
  rs.foldl (fun st r => if st.2 || (st.1.elem r.1).ecc.isEmpty then st else st.1.eccFatal r.1 o.ctx { o with elem := r.1 } [(0, r.2)]) (s, false)

/-- ARRAY_FIRING_START (R180, R181): the conditions, the size checks, the reads, then the block terms, which are the array's when the firing ends. A drain holds firings back
until it is done; one with `after` does so once it has passed its first wait (R183). -/
def execArrayFiringStart (c g : Nat) (s : State) : Out :=
  match (s.clus c).arrays.find? g with
  | none => .next s
  | some x =>
    match x.bind with
    | none => .next s
    | some (ha, hd, o) =>
      let drain : Bool := match s.waitingDrain c x with | some (_, _, after, passed) => !after || passed | none => false
      let scaled : Bool := x.af != .bf16
      let scOk : Bool := !scaled || (match x.scn with | some h => s.tagOf o h == some true | none => false)
      let bufs : Bool := x.members.all fun j => match s.buffer c j with | some y => y.fe | none => false
      match s.handleAt o.elem o.ctx ha, s.handleAt o.elem o.ctx hd with
      | some (da, ya), some (_, yd) =>
        if s.cycle < (s.clus c).arrNext || x.fir || drain || !ya.fe || yd.fe || !bufs || !scOk || (s.part (s.ownOf o.elem o.ctx)).frozen then .next s
        else
          let sc : Option (Nat × HEntry) := match x.scn with | some h => s.handleAt o.elem o.ctx h | none => none
          let scShort : Bool := scaled && (match sc with | some (_, y) => 32 * y.size < 4 * (x.m * x.k / 32) | none => true)
          let short : Bool := 32 * ya.size < packedBytes x.af (x.m * x.k) || 32 * yd.size < packedBytes x.f (x.m * x.n)
            || (x.members.any fun j => match s.buffer c j with | some y => 32 * y.size < bufferNeed x | none => true) || scShort
          if short then .next ((s.errorOnly o 0x49).modArray c g fun x => { x with bind := none })
          else
            let f : Feed := { am := (s.elem da).farMem, aa := ya.addr, sm := (match sc with | some (d, _) => (s.elem d).farMem | none => []),
                              sa := (match sc with | some (_, y) => y.addr | none => 0) }
            let ecc := firingErrors s o (firingReads s c x (da, ya) sc)
            let r := fireAll s c x f
            let s1 := (ecc.1.modClus c fun y => { y with msgNext := s.cycle + 1 }).modArray c g fun x =>
              { x with fir := true, used := x.scn, fresh := false, firMask := x.mask, firRate := x.rate,
                       res := ⟨r.1, r.2, zeroGroups x f⟩ }
            if ecc.2 then .next ecc.1 else .next s1
      | _, _ => .next s

end Sys2Proof.Machine
end

