-- ==== Sys2Proof/Machine/Scalar.lean ====
section
/-! DEFINITION. Group 1, the scalar instructions (R83 to R100). -/

namespace Sys2Proof.Machine

/-- n of R83. -/
def widthOf (t : Ty) : Nat := t.bits

/-- A pattern of n bits read as a type: two's complement for i types, unsigned otherwise (R83). -/
def patInt (t : Ty) (p : Nat) : Int :=
  let k : Nat := p % 2 ^ t.bits
  if t.isSigned && 2 ^ (t.bits - 1) ≤ k then (k : Int) - 2 ^ t.bits else k

/-- ival of R83. -/
def Act.ival (a : Act) (o : OpA) (sel : Sel) : Int :=
  if o.ty.is64 then patInt o.ty (a.pair o.ty o.lit sel).toNat else patInt o.ty (a.src o.ty o.lit sel 0).v.toNat

/-- fval of R83. -/
def Act.fval (a : Act) (o : OpA) (sel : Sel) : Val := extF (a.src o.ty o.lit sel 0)

/-- The n-bit pattern of an integer. -/
def patOf (t : Ty) (x : Int) : Nat := (x % 2 ^ t.bits).toNat

/-- wr of R83 for an integer result: wrapped to the type, extended, zero tails, every other lane zero. -/
def Act.wrInt (a : Act) (o : OpA) (x : Int) : Act :=
  if o.ty.is64 then a.setTemp o.d (lanePair (BitVec.ofInt 64 x) false false)
  else a.setTemp o.d (lane0 (Lane.ofWord (wrapT o.ty x)))

/-- wr of a float result with the exceptions it raises (R83, R78). -/
def Act.wrFlt (a : Act) (o : OpA) (r : Lane × Exc) : Act := (a.setTemp o.d (lane0 r.1)).raise r.2

/-- Lane 0, or the pair for 64-bit types, copied container and tail (R87, R93, R96); a pair's tail is lane 0's, lane 1's is zero (R57). -/
def Act.copy0 (a : Act) (o : OpA) (sel : Sel) : Act :=
  if o.ty.is64 then
    a.setTemp o.d (a.src o.ty o.lit sel 0 :: Lane.ofWord (a.src o.ty o.lit sel 1).v :: List.replicate 30 Lane.zero)
  else a.setTemp o.d (lane0 (a.src o.ty o.lit sel 0))

/-- A scalar word: nothing at all when lane 0 of the guard is false (R83). -/
def scalar (o : OpA) (s : State) (f : Act → Act) : Out :=
  runPure s fun _ _ act => if act.guard o.pr o.pn 0 then f act else act

/-- ADD, SUB and MUL (R85). -/
def arith (o : OpA) (s : State) (fi : Int → Int → Int) (ff : Val → Val → Val × Exc) : Out :=
  scalar o s fun a =>
    if o.ty.isFlt then
      let x := ff (a.fval o o.a) (a.fval o o.b)
      let r := roNarrow x.1 o.ty
      a.wrFlt o (r.1, x.2.or r.2)
    else a.wrInt o (fi (a.ival o o.a) (a.ival o o.b))

/-- ADD (R85). -/
def execAdd (o : OpA) (s : State) : Out := arith o s (· + ·) vadd

/-- SUB (R85). -/
def execSub (o : OpA) (s : State) : Out := arith o s (· - ·) fun x y => vadd x y.flip

/-- MUL (R85). -/
def execMul (o : OpA) (s : State) : Out := arith o s (· * ·) vmul

/-- MULH (R85): bits 2n − 1 to n of the exact product. -/
def execMulh (o : OpA) (s : State) : Out :=
  scalar o s fun a => a.wrInt o (a.ival o o.a * a.ival o o.b / 2 ^ o.ty.bits)

/-- Quotient and remainder of R86, with whether the divisor is zero. -/
def divRem (t : Ty) (x y : Int) : Int × Int × Bool :=
  if y = 0 then (-1, x, true)
  else if t.isSigned && x = -(2 ^ (t.bits - 1)) && y = -1 then (x, 0, false)
  else (Int.tdiv x y, Int.tmod x y, false)

/-- DIV (R86). -/
def execDiv (o : OpA) (s : State) : Out :=
  scalar o s fun a =>
    let r := divRem o.ty (a.ival o o.a) (a.ival o o.b)
    (a.wrInt o r.1).raise { dbz := r.2.2 }

/-- REM (R86). -/
def execRem (o : OpA) (s : State) : Out :=
  scalar o s fun a =>
    let r := divRem o.ty (a.ival o o.a) (a.ival o o.b)
    (a.wrInt o r.2.1).raise { dbz := r.2.2 }

/-- Four times ext of a scalar integer source (R58): its ival of R83 and the tail of its lane 0. -/
def Act.ext4 (a : Act) (o : OpA) (x : Sel) : Int :=
  4 * a.ival o x + 2 * (a.src o.ty o.lit x 0).g.toNat + (a.src o.ty o.lit x 0).s.toNat

/-- The order of R71 on scalar sources (R87, R94). Tails take part for integers too, as R64 and R71 say (log 25, DEDUCED). -/
def Act.order0 (a : Act) (o : OpA) : Ordering :=
  if o.ty.isFlt then ordLane o.ty (a.src o.ty o.lit o.a 0) (a.src o.ty o.lit o.b 0)
  else compare (a.ext4 o o.a) (a.ext4 o o.b)

/-- MIN (R87): A on equality. -/
def execMin (o : OpA) (s : State) : Out := scalar o s fun a => a.copy0 o (if a.order0 o == .gt then o.b else o.a)

/-- MAX (R87): A on equality. -/
def execMax (o : OpA) (s : State) : Out := scalar o s fun a => a.copy0 o (if a.order0 o == .lt then o.b else o.a)

/-- The n-bit pattern of a source. -/
def Act.pat (a : Act) (o : OpA) (sel : Sel) : Nat := patOf o.ty (a.ival o sel)

/-- A bitwise result written in the type (R88 to R90). -/
def Act.wrPat (a : Act) (o : OpA) (p : Nat) : Act := a.wrInt o (patInt o.ty p)

/-- AND (R88). -/
def execAnd (o : OpA) (s : State) : Out := scalar o s fun a => a.wrPat o (a.pat o o.a &&& a.pat o o.b)

/-- OR (R88). -/
def execOr (o : OpA) (s : State) : Out := scalar o s fun a => a.wrPat o (a.pat o o.a ||| a.pat o o.b)

/-- XOR (R88). -/
def execXor (o : OpA) (s : State) : Out := scalar o s fun a => a.wrPat o (a.pat o o.a ^^^ a.pat o o.b)

/-- The complement of an n-bit pattern. -/
def patNot (t : Ty) (p : Nat) : Nat := 2 ^ t.bits - 1 - p % 2 ^ t.bits

/-- ANDN (R88). -/
def execAndn (o : OpA) (s : State) : Out := scalar o s fun a => a.wrPat o (a.pat o o.a &&& patNot o.ty (a.pat o o.b))

/-- The shifts of R89 on an n-bit pattern: 0 SHL, 1 SHR, 2 SAR, 3 ROT. -/
def shiftPat (t : Ty) (kind p k : Nat) : Nat :=
  let n := t.bits
  match kind with
  | 0 => if k < n then p * 2 ^ k % 2 ^ n else 0
  | 1 => if k < n then p / 2 ^ k else 0
  | 2 =>
    let neg : Bool := 2 ^ (n - 1) ≤ p
    let j := min k n
    if neg then p / 2 ^ j + (2 ^ n - 2 ^ (n - j)) else p / 2 ^ j
  | _ => let j := k % n; p * 2 ^ j % 2 ^ n + p / 2 ^ (n - j)

/-- The four shift instructions: the count is lane 0 of B, unsigned (R89). -/
def shift (o : OpA) (s : State) (kind : Nat) : Out :=
  scalar o s fun a => a.wrPat o (shiftPat o.ty kind (a.pat o o.a) (a.src o.ty o.lit o.b 0).v.toNat)

/-- SHL (R89). -/
def execShl (o : OpA) (s : State) : Out := shift o s 0

/-- SHR (R89). -/
def execShr (o : OpA) (s : State) : Out := shift o s 1

/-- SAR (R89). -/
def execSar (o : OpA) (s : State) : Out := shift o s 2

/-- ROT (R89). -/
def execRot (o : OpA) (s : State) : Out := shift o s 3

/-- Number of zero bits above the highest set bit of an n-bit pattern (R90). -/
def clzPat (n p : Nat) : Nat := if p = 0 then n else n - 1 - Nat.log2 p

/-- Number of set bits among the n low bits (R90). -/
def popPat : Nat → Nat → Nat
  | 0, _ => 0
  | n + 1, p => p % 2 + popPat n (p / 2)

/-- CLZ (R90). -/
def execClz (o : OpA) (s : State) : Out := scalar o s fun a => a.wrPat o (clzPat o.ty.bits (a.pat o o.a))

/-- POPC (R90). -/
def execPopc (o : OpA) (s : State) : Out := scalar o s fun a => a.wrPat o (popPat o.ty.bits (a.pat o o.a))

/-- A source extended to 64 bits (R91, R92). -/
def Act.ext64 (a : Act) (o : OpA) (sel : Sel) : DWord := BitVec.ofInt 64 (a.ival o sel)

/-- The field of R91. -/
def bextVal (signed : Bool) (x : DWord) (ka kb : Nat) : Int :=
  if kb = 0 ∨ 64 ≤ ka then 0
  else
    let hi : Nat := if signed && x.msb then 2 ^ 64 - 1 else 0
    let f : Nat := (x.toNat + hi * 2 ^ 64) / 2 ^ ka % 2 ^ kb
    if signed && 2 ^ (kb - 1) ≤ f then (f : Int) - 2 ^ kb else f

/-- BEXT (R91). -/
def execBext (o : OpA) (s : State) : Out :=
  scalar o s fun a => a.wrInt o (bextVal o.ty.isSigned (a.ext64 o o.a) o.ka.toNat o.kb.toNat)

/-- The base with the field replaced (R92). -/
def binsVal (x v : DWord) (ka kb : Nat) : DWord :=
  if kb = 0 ∨ 64 ≤ ka then x
  else BitVec.ofNat 64 (setBits x.toNat ka (min kb (64 - ka)) v.toNat)

/-- BINS (R92). -/
def execBins (o : OpA) (s : State) : Out :=
  scalar o s fun a => a.wrInt o (binsVal (a.ext64 o o.a) (a.ext64 o o.b) o.ka.toNat o.kb.toNat).toNat

/-- SEL (R93). -/
def execSel (o : OpA) (s : State) : Out :=
  scalar o s fun a => a.copy0 o (if a.pred o.ka.toNat 0 then o.a else o.b)

/-- CMP (R94): the result goes to all 32 lanes of the predicate. -/
def execCmp (o : OpA) (s : State) : Out :=
  scalar o s fun a => a.setPred o.d.code (List.replicate 32 (condOk o.fn.toNat (a.order0 o)))

/-- Lane i of PLOG's result (R95). -/
def plogLane (a : Act) (fn p q i : Nat) : Bool :=
  match fn with
  | 0 => a.pred p i && a.pred q i
  | 1 => a.pred p i || a.pred q i
  | 2 => a.pred p i != a.pred q i
  | 3 => a.pred p i && !a.pred q i
  | 4 => !a.pred p i
  | 5 => (List.range a.width).any fun j => a.pred p j
  | _ => (List.range a.width).all fun j => a.pred p j

/-- PLOG (R95): per lane under its guard, all 32 lanes. -/
def execPlog (o : OpA) (s : State) : Out :=
  runPure s fun _ _ a =>
    a.setPred o.d.code ((List.range 32).map fun i =>
      if a.guard o.pr o.pn i then plogLane a o.fn.toNat o.a.code o.b.code i else a.pred o.d.code i)

/-- MOV (R96). -/
def execMov (o : OpA) (s : State) : Out := scalar o s fun a => a.copy0 o o.a

/-- LIT (R97). -/
def execLit (o : OpA) (s : State) : Out := scalar o s fun a => a.copy0 o .lit

/-- LITH (R97): lane 0 from A, lane 1 from LIT. -/
def execLith (o : OpA) (s : State) : Out :=
  scalar o s fun a => a.setTemp o.d (a.src o.ty o.lit o.a 0 :: Lane.ofWord o.lit :: List.replicate 30 Lane.zero)

/-- LEA (R98). -/
def execLea (o : OpA) (s : State) : Out :=
  scalar o s fun a =>
    let off : Int := a.ival o o.b * 2 ^ o.ka.toNat + o.lit.toInt
    if o.fn.toNat = 0 then a.wrInt o (a.ival o o.a + off)
    else a.wrInt o ((a.ival o o.a % 2 ^ 7) * 2 ^ 19 + off % 2 ^ 19)

/-- TAGR (R99). -/
def execTagr (o : OpA) (s : State) : Out :=
  scalar o s fun a =>
    match o.fn.toNat with
    | 0 =>
      let k := o.ka.toNat
      let f : Nat := a.hdr.field k
      let w : Nat := nth a.hdr.widths k 0
      a.wrInt o (if o.ty.isSigned && k < a.hdr.nf && 2 ^ (w - 1) ≤ f then (f : Int) - 2 ^ w else f)
    | 1 => a.wrInt o a.hdr.fill
    | _ => a.wrInt o a.hdr.nf

/-- The rectangle of the running region of an activation (R100). -/
def runRegion (s : State) (e : Nat) (a : Act) : Region := s.region (s.ownOf e a.ctx) (s.ctx e a.ctx).region

/-- The value of each IDR keyword (R100). -/
def idrVal (s : State) (e : Nat) (a : Act) (fn : Nat) : Nat :=
  let h := s.hedge (clusNo e) a.ctx
  let r := runRegion s e a
  match fn with
  | 0 => State.relId h e
  | 1 => elemIdx e
  | 2 => State.pcol h e - r.x0
  | 3 => State.prow h e - r.y0
  | 4 => r.w
  | 5 => r.h
  | 6 => a.ctx
  | _ => a.width

/-- IDR (R100). -/
def execIdr (o : OpA) (s : State) : Out :=
  runPure s fun s e a => if a.guard o.pr o.pn 0 then a.wrInt o (idrVal s e a o.fn.toNat) else a

end Sys2Proof.Machine
end

