-- ==== Sys2Proof/Machine/Vector.lean ====
section
/-! DEFINITION. Group 2, the vector, conversion and lane instructions (R101 to R116). -/

namespace Sys2Proof.Machine

/-- The per-lane write of R101: lanes W and above become zero, guard-true lanes take their result, the others keep theirs. Results and
their exceptions are computed for guard-true lanes below W only. -/
def lanewise (o : OpA) (s : State) (f : Act → Nat → Lane × Exc) : Out :=
  runPure s fun _ _ a =>
    let on (i : Nat) : Bool := decide (i < a.width) && a.guard o.pr o.pn i
    let rs := (List.range 32).map fun i => if on i then some (f a i) else none
    let old (i : Nat) : Lane := match o.d with | .t k => a.temp k.val i | _ => Lane.zero
    let a1 := a.setTemp o.d (rs.mapIdx fun i r => match r with
      | some x => x.1
      | none => if i < a.width then old i else Lane.zero)
    rs.foldl (fun b r => match r with | some x => b.raise x.2 | none => b) a1

/-- Lanes copied with their tails. -/
def moves (o : OpA) (s : State) (f : Act → Nat → Lane) : Out := lanewise o s fun a i => (f a i, Exc.none)

/-- Lane i of a source of a vector instruction (R101). -/
def vsrc (o : OpA) (a : Act) (sel : Sel) (i : Nat) : Lane := a.src o.ty o.lit sel i

/-- A vint source lane as a number (R101). -/
def vint (o : OpA) (a : Act) (sel : Sel) (i : Nat) : Int := intOf o.ty (vsrc o a sel i).v

/-- A float result narrowed to the type, with every exception on the way. -/
def narrowed (t : Ty) (x : Val × Exc) : Lane × Exc :=
  let r := roNarrow x.1 t
  (r.1, x.2.or r.2)

/-- An integer result wrapped to the type (R64). -/
def wrapped (t : Ty) (x : Int) : Lane × Exc := (Lane.ofWord (wrapT t x), Exc.none)

/-- VADD, VSUB and VMUL lane by lane (R102). -/
def elementwise (o : OpA) (s : State) (ff : Val → Val → Val × Exc) (fi : Int → Int → Int) : Out :=
  lanewise o s fun a i =>
    if o.ty.isFlt then narrowed o.ty (ff (extF (vsrc o a o.a i)) (extF (vsrc o a o.b i)))
    else wrapped o.ty (fi (vint o a o.a i) (vint o a o.b i))

/-- VADD (R102). -/
def execVadd (o : OpA) (s : State) : Out := elementwise o s vadd (· + ·)

/-- VSUB (R102). -/
def execVsub (o : OpA) (s : State) : Out := elementwise o s (fun x y => vadd x y.flip) (· - ·)

/-- VMUL (R102). -/
def execVmul (o : OpA) (s : State) : Out := elementwise o s vmul (· * ·)

/-- VFMA (R102): one narrowing. -/
def execVfma (o : OpA) (s : State) : Out :=
  lanewise o s fun a i =>
    if o.ty.isFlt then narrowed o.ty (vfma (extF (vsrc o a o.a i)) (extF (vsrc o a o.b i)) (extF (vsrc o a o.c i)))
    else wrapped o.ty (vint o a o.a i * vint o a o.b i + vint o a o.c i)

/-- VDIV (R86, R102). -/
def execVdiv (o : OpA) (s : State) : Out :=
  lanewise o s fun a i =>
    if o.ty.isFlt then narrowed o.ty (vdiv (extF (vsrc o a o.a i)) (extF (vsrc o a o.b i)))
    else
      let r := divRem o.ty (vint o a o.a i) (vint o a o.b i)
      (Lane.ofWord (wrapT o.ty r.1), { dbz := r.2.2 })

/-- VMIN (R102): A on equality. -/
def execVmin (o : OpA) (s : State) : Out :=
  moves o s fun a i => if ordLane o.ty (vsrc o a o.a i) (vsrc o a o.b i) == .gt then vsrc o a o.b i else vsrc o a o.a i

/-- VMAX (R102): A on equality. -/
def execVmax (o : OpA) (s : State) : Out :=
  moves o s fun a i => if ordLane o.ty (vsrc o a o.a i) (vsrc o a o.b i) == .lt then vsrc o a o.b i else vsrc o a o.a i

/-- VABS (R102): the sign bit of a float, tail kept; |a| mod 2^n of an integer. -/
def execVabs (o : OpA) (s : State) : Out :=
  lanewise o s fun a i =>
    let l := vsrc o a o.a i
    if o.ty.isFlt then ({ l with v := l.v &&& 0x7FFFFFFF }, Exc.none) else wrapped o.ty (vint o a o.a i).natAbs

/-- VNEG (R102). -/
def execVneg (o : OpA) (s : State) : Out :=
  lanewise o s fun a i =>
    let l := vsrc o a o.a i
    if o.ty.isFlt then ({ l with v := l.v ^^^ 0x80000000 }, Exc.none) else wrapped o.ty (-(vint o a o.a i))

-- Special functions (R103) -------------------------------------------------------------------------------------------------

/-- What R103's table of special operands gives: a value and its exceptions, or none for an operand that the function computes. -/
def special (fn : Nat) (v : Val) : Option (Val × Exc) :=
  match v with
  | .nan s => some (.nan false, { inv := s })
  | .inf true =>
    match fn with
    | 1 => some (Val.zero true, Exc.none)
    | 3 => some (Val.zero false, Exc.none)
    | 5 => some (.fin true 1 1 0, Exc.none)
    | _ => some (.nan false, { inv := true })
  | .inf false =>
    match fn with
    | 1 | 2 => some (Val.zero false, Exc.none)
    | 5 => some (.fin false 1 1 0, Exc.none)
    | _ => some (.inf false, Exc.none)
  | .fin n num _ _ =>
    if num = 0 then
      match fn with
      | 0 | 5 => some (Val.zero n, Exc.none)
      | 1 | 2 => some (.inf n, { dbz := true })
      | 3 => some (.fin false 1 1 0, Exc.none)
      | _ => some (.inf true, { dbz := true })
    else if n && (fn = 0 || fn = 2 || fn = 4) then some (.nan false, { inv := true })
    else none

/-- Binary places kept by the approximations that place R103's bounds. -/
def scale : Nat := 96

/-- The sum of x^i / i! scaled by 2^scale, x = num / 2^scale with |x| ≤ 1; terms fall until they vanish. -/
def expSeries : Nat → Nat → Int → Int → Int → Int
  | 0, _, _, _, acc => acc
  | fuel + 1, i, x, term, acc =>
    let t : Int := term * x / 2 ^ scale / (i : Int)
    expSeries fuel (i + 1) x t (acc + t)

/-- e^x scaled by 2^scale for |x| ≤ 1 scaled likewise. -/
def expSmall (x : Int) : Int := expSeries 40 1 x (2 ^ scale) (2 ^ scale)

/-- 2 · atanh(z) as a series, z scaled: ln((1 + z) / (1 − z)). -/
def atanhSeries : Nat → Nat → Int → Int → Int → Int
  | 0, _, _, _, acc => acc
  | fuel + 1, i, z2, p, acc =>
    let q : Int := p * z2 / 2 ^ scale
    atanhSeries fuel (i + 2) z2 q (acc + q / (i : Int))

def ln2Series (z : Int) : Int := 2 * atanhSeries 80 3 (z * z / 2 ^ scale) z z

/-- ln 2 scaled: 2 · atanh(1/3). -/
def ln2 : Int := ln2Series (2 ^ scale / 3)

/-- A value as an integer scaled by 2^scale, toward −∞. -/
def scaleOf (n : Bool) (num den : Nat) (e : Int) : Int :=
  let r := quotAt num den e (-(scale : Int))
  if n then -(r.1 : Int) - (if r.2 then 1 else 0) else r.1

/-- The part of 2^y above the integer k: y = k + f, 0 ≤ f < 1, as a value within a few units of 2^-90. -/
def exp2Val (y : Int) : Val :=
  let k : Int := y / 2 ^ scale
  let f : Int := y % 2 ^ scale
  .fin false (expSmall (f * ln2 / 2 ^ scale)).toNat 1 (k - scale)

/-- log2 of num / den × 2^e scaled by 2^scale. -/
def log2Val (num den : Nat) (e : Int) : Int :=
  let k : Int := logQ num den
  let r := quotAt num den 0 (k - scale)
  let m : Int := r.1
  let z : Int := (m - 2 ^ scale) * 2 ^ scale / (m + 2 ^ scale)
  (k + e) * 2 ^ scale + ln2Series z * 2 ^ scale / ln2

/-- An integer scaled by 2^scale as a value. -/
def unscale (x : Int) : Val := .fin (x < 0) x.natAbs 1 (-(scale : Int))

/-- f(a) of R103 to far better than the bound, for an operand the table computes. -/
def approx (fn sub : Nat) (n : Bool) (num den : Nat) (e : Int) : Val :=
  match fn with
  | 2 =>
    match sqrtVal num e with
    | .fin _ m _ ex => .fin false 1 m (-ex)
    | v => v
  | 3 =>
    let y := scaleOf n num den e
    exp2Val (if sub = 0 then y else y * 2 ^ scale / ln2)
  | 4 =>
    let l := log2Val num den e
    unscale (if sub = 0 then l else l * ln2 / 2 ^ scale)
  | _ =>
    -- tanh a = 1 − 2 / (e^(2|a|) + 1); for |a| below 2^-12 the first terms of its series
    if logQ num den + e < -12 then
      let den3 : Nat := den * den * den * 3
      let lead : Int := e
      .fin n (num * den * den * 3 * 2 ^ (-(2 * lead)).toNat - num * num * num) den3 (e + 2 * lead)
    else if 6 ≤ logQ num den + e then .fin n (2 ^ 184 - 1) 1 (-184)
    else
      let y := scaleOf false num den e
      match exp2Val (2 * y * 2 ^ scale / ln2) with
      | .fin _ m _ ex =>
        let w : Nat := (quotAt m 1 ex (-(scale : Int))).1
        .fin n (w - 2 ^ scale) (w + 2 ^ scale) 0
      | v => v

/-- The operand is an integer, where VEXP base 2 is exact (R103). -/
def isInteger (num den : Nat) (e : Int) : Bool := !(quotAt num den e 0).2

/-- The operand is a power of two, where VLOG base 2 is exact (R103). -/
def isPow2 (num den : Nat) : Bool := den * 2 ^ (logQ num den).toNat == num * 2 ^ (-(logQ num den)).toNat

/-- Magnitude of a at most that of b. -/
def leMag (a b : Val) : Bool :=
  match a, b with
  | .fin _ m d e, .fin _ m' d' e' =>
    let k := min e e'
    m * d' * 2 ^ (e - k).toNat ≤ m' * d * 2 ^ (e' - k).toNat
  | _, _ => false

/-- The bound of R103 on |x − f|, a millionth of it kept back for the approximation of f: 2^-23 |f| for VRSQ, 2^-22 |f| for VEXP and
VTANH, 2^-22 max(1, |f|) for VLOG. -/
def boundOf (fn : Nat) (f : Val) : Val :=
  let k : Int := if fn = 2 then -43 else -42
  match f with
  | .fin _ m d e =>
    if fn = 4 && leMag f (.fin false 1 1 0) then .fin false (2 ^ 20 - 1) 1 k else .fin false (m * (2 ^ 20 - 1)) d (e + k)
  | v => v

/-- x of R103: the free candidate where it lies within the bound, else a point of the bound. A function of the operand alone. -/
def within (fn sub : Nat) (n : Bool) (num den : Nat) (e : Int) : Val :=
  let f := approx fn sub n num den e
  let c := Config.specialVal (2 * fn + sub) n num den e
  let x : Val := .fin c.1 c.2.1 1 c.2.2
  if leMag (vadd x f.flip).1 (boundOf fn f) && (fn != 5 || leMag x (.fin false 1 1 0)) then x else f

/-- x of R103 with its exceptions. -/
def specialFn (fn sub : Nat) (v : Val) : Val × Exc :=
  match special fn v with
  | some r => r
  | none =>
    match v with
    | .fin n num den e =>
      match fn with
      | 0 => (sqrtVal num e, Exc.none)
      | 1 => vdiv (.fin false 1 1 0) v
      | 3 =>
        -- beyond 2^10 in magnitude every type overflows or stands below half its least place
        if 10 ≤ logQ num den + e then (.fin false 1 1 (if n then -2048 else 2048), Exc.none)
        else if sub = 0 && isInteger num den e then
          (.fin false 1 1 (if n then -((quotAt num den e 0).1 : Int) else ((quotAt num den e 0).1 : Int)), Exc.none)
        else (within fn sub n num den e, Exc.none)
      | 4 => if sub = 0 && isPow2 num den then (Val.ofInt (logQ num den + e), Exc.none) else (within fn sub n num den e, Exc.none)
      | _ => (within fn sub n num den e, Exc.none)
    | v => (v, Exc.none)

/-- A special function lane by lane. -/
def specials (o : OpA) (s : State) (fn : Nat) : Out :=
  lanewise o s fun a i => narrowed o.ty (specialFn fn o.fn.toNat (extF (vsrc o a o.a i)))

/-- VSQRT (R103): exact. -/
def execVsqrt (o : OpA) (s : State) : Out := specials o s 0

/-- VRCP (R103): exact. -/
def execVrcp (o : OpA) (s : State) : Out := specials o s 1

/-- VRSQ (R103). -/
def execVrsq (o : OpA) (s : State) : Out := specials o s 2

/-- VEXP (R103). -/
def execVexp (o : OpA) (s : State) : Out := specials o s 3

/-- VLOG (R103). -/
def execVlog (o : OpA) (s : State) : Out := specials o s 4

/-- VTANH (R103). -/
def execVtanh (o : OpA) (s : State) : Out := specials o s 5

-- Comparison, selection, conversion ------------------------------------------------------------------------------------------

/-- VCMP (R104): lanes W and above become false. -/
def execVcmp (o : OpA) (s : State) : Out :=
  runPure s fun _ _ a =>
    a.setPred o.d.code ((List.range 32).map fun i =>
      if a.width ≤ i then false
      else if a.guard o.pr o.pn i then condOk o.fn.toNat (ordLane o.ty (vsrc o a o.a i) (vsrc o a o.b i))
      else a.pred o.d.code i)

/-- VSEL (R105). -/
def execVsel (o : OpA) (s : State) : Out :=
  moves o s fun a i => if a.pred o.ka.toNat i then vsrc o a o.a i else vsrc o a o.b i

/-- VMOV (R105). -/
def execVmov (o : OpA) (s : State) : Out := moves o s fun a i => vsrc o a o.a i

/-- A conversion source, whose literal has type TS (R34, R106). -/
def csrc (o : OpA) (a : Act) (i : Nat) : Lane := a.src o.ts o.lit o.a i

/-- A signalling NaN in a float source raises invalid (R78). -/
def snanExc (ts : Ty) (l : Lane) : Exc := { inv := ts.isFlt && f32Snan l.v }

/-- VCVT (R106). -/
def execVcvt (o : OpA) (s : State) : Out :=
  lanewise o s fun a i =>
    let l := csrc o a i
    if o.ts == .sc20 then
      let v := scaleVal l.v
      let r := roNarrow v .f32
      (r.1, { inv := v.isNan })
    else
      let r := narrow (ext o.ts l) o.ty
      (r.1, (snanExc o.ts l).or r.2)

/-- VRND (R107): a final store into a temporary, with its draws and its FPX record. -/
def execVrnd (o : OpA) (s : State) : Out :=
  runWord s fun s e a =>
    let rm := o.fn.toNat
    let rng := (s.elem e).rng
    let on (i : Nat) : Bool := decide (i < a.width) && a.guard o.pr o.pn i
    let rs := (List.range 32).map fun i => if on i then some (finalLane o.ts o.ty rm (csrc o a i) (srDraw rng i)) else none
    let old (i : Nat) : Lane := match o.d with | .t k => a.temp k.val i | _ => Lane.zero
    let a1 := a.setTemp o.d (rs.mapIdx fun i r => match r with
      | some x => x.1
      | none => if i < a.width then old i else Lane.zero)
    let a2 := rs.foldl (fun b r => match r with | some x => b.raise x.2 | none => b) a1
    .go ((s.srAdvance e rm).fpxIf e a2 (rs.any fun r => r.isSome)) a2

/-- VTAIL (R108). -/
def execVtail (o : OpA) (s : State) : Out :=
  moves o s fun a i =>
    let l := vsrc o a o.a i
    match o.fn.toNat with
    | 0 => Lane.ofWord (BitVec.ofNat 32 (2 * l.g.toNat + l.s.toNat))
    | 1 =>
      let b := (vsrc o a o.b i).v
      if o.ty.isFlt && fexp l.v == 255 then Lane.ofWord l.v else ⟨l.v, b.getLsbD 1, b.getLsbD 0⟩
    | _ => Lane.ofWord l.v

-- Lane movement ----------------------------------------------------------------------------------------------------------------

/-- The source lane of VSHUF (R109). -/
def shufLane (o : OpA) (a : Act) (i : Nat) : Nat :=
  match o.fn.toNat with
  | 0 => (vsrc o a o.b i).v.toNat
  | 1 => (i + o.ka.toNat) % a.width
  | 2 => i ^^^ o.ka.toNat
  | _ => a.width - 1 - i

/-- VSHUF (R109). -/
def execVshuf (o : OpA) (s : State) : Out :=
  moves o s fun a i =>
    let j := shufLane o a i
    if a.width ≤ j then Lane.zero else vsrc o a o.a j

/-- VTRN (R110). -/
def execVtrn (o : OpA) (s : State) : Out :=
  runPure s fun _ _ a =>
    let v : Nat := max a.width 8
    { a with temps := (List.range 8).map fun r => (List.range 32).map fun i =>
        if v ≤ i then Lane.zero
        else if a.guard o.pr o.pn i then a.temp (i % 8) (8 * (i / 8) + r)
        else a.temp r i }

/-- VBCST (R111). -/
def execVbcst (o : OpA) (s : State) : Out := moves o s fun a _ => vsrc o a o.a o.ka.toNat

/-- VIOTA (R111). -/
def execViota (o : OpA) (s : State) : Out := lanewise o s fun a i => wrapped o.ty (vint o a o.a 0 + i * o.ka.toInt)

-- Reductions and scans (R74, R112) ------------------------------------------------------------------------------------------------

/-- op of R112 on two lanes. -/
def redOp (t : Ty) (fn : Nat) (l r : Lane) : Lane × Exc :=
  match fn with
  | 0 => if t.isFlt then narrowed t (vadd (extF l) (extF r)) else wrapped t (intOf t l.v + intOf t r.v)
  | 1 => (if ordLane t l r == .gt then r else l, Exc.none)
  | 2 => (if ordLane t l r == .lt then r else l, Exc.none)
  | 3 => wrapped t (patInt t (l.v.toNat &&& r.v.toNat))
  | 4 => wrapped t (patInt t (l.v.toNat ||| r.v.toNat))
  | _ => wrapped t (patInt t (l.v.toNat ^^^ r.v.toNat))

/-- op on operands that may be void: the other operand unchanged (R112). -/
def voidOp (t : Ty) (fn : Nat) (l r : Option Lane) : Option Lane × Exc :=
  match l, r with
  | some x, some y => let z := redOp t fn x y; (some z.1, z.2)
  | some x, none => (some x, Exc.none)
  | none, y => (y, Exc.none)

/-- One level of the tree of R74. -/
def pairUp (t : Ty) (fn : Nat) : List (Option Lane) → List (Option Lane) × Exc
  | x :: y :: r =>
    let z := voidOp t fn x y
    let q := pairUp t fn r
    (z.1 :: q.1, z.2.or q.2)
  | _ => ([], Exc.none)

/-- The tree over 2^k lanes. -/
def redTree (t : Ty) (fn : Nat) : Nat → List (Option Lane) → Option Lane × Exc
  | 0, xs => (nth xs 0 none, Exc.none)
  | k + 1, xs =>
    let p := pairUp t fn xs
    let q := redTree t fn k p.1
    (q.1, p.2.or q.2)

/-- Lanes 0 to W − 1 of A, void where the guard is false. -/
def voidLanes (o : OpA) (a : Act) : List (Option Lane) :=
  (List.range a.width).map fun i => if a.guard o.pr o.pn i then some (vsrc o a o.a i) else none

/-- VRED (R112). -/
def execVred (o : OpA) (s : State) : Out :=
  runPure s fun _ _ a =>
    let r := redTree o.ty (o.fn.toNat % 8) (Nat.log2 a.width) (voidLanes o a)
    (a.setTemp o.d (lane0 (r.1.getD Lane.zero))).raise r.2

/-- One doubling step of R112 at distance d. -/
def scanStep (t : Ty) (fn d : Nat) (xs : List (Option Lane)) : List (Option Lane) × Exc :=
  let ys := (List.range xs.length).map fun i =>
    if i < d then (nth xs i none, Exc.none) else voidOp t fn (nth xs (i - d) none) (nth xs i none)
  (ys.map fun y => y.1, ys.foldl (fun e y => e.or y.2) Exc.none)

def scanGo (t : Ty) (fn : Nat) : Nat → Nat → List (Option Lane) → List (Option Lane) × Exc
  | 0, _, xs => (xs, Exc.none)
  | k + 1, d, xs =>
    let p := scanStep t fn d xs
    let q := scanGo t fn k (2 * d) p.1
    (q.1, p.2.or q.2)

/-- VSCAN (R112). -/
def execVscan (o : OpA) (s : State) : Out :=
  runPure s fun _ _ a =>
    let r := scanGo o.ty (o.fn.toNat % 8) (Nat.log2 a.width) 1 (voidLanes o a)
    let excl : Bool := 8 ≤ o.fn.toNat
    let res (i : Nat) : Lane := if excl then (if i = 0 then Lane.zero else (nth r.1 (i - 1) none).getD Lane.zero) else (nth r.1 i none).getD Lane.zero
    let old (i : Nat) : Lane := match o.d with | .t k => a.temp k.val i | _ => Lane.zero
    (a.setTemp o.d ((List.range 32).map fun i =>
      if a.width ≤ i then Lane.zero else if a.guard o.pr o.pn i then res i else old i)).raise r.2

-- Width, packing, scales, bits -------------------------------------------------------------------------------------------------------

/-- The width granted for a request q against a lane maximum (R53, R113). -/
def grantWidth (q lmax : Nat) : Nat := 2 ^ Nat.log2 (min (min (max q 1) 32) (2 ^ lmax))

/-- COLR (R113). -/
def execColr (o : OpA) (s : State) : Out :=
  runPure s fun s e a =>
    if a.guard o.pr o.pn 0 then
      let w := grantWidth (vsrc o a o.a 0).v.toNat (s.ctx e a.ctx).lmax
      { a.setTemp o.d (lane0 (Lane.ofWord (BitVec.ofNat 32 w))) with width := w }
    else a

/-- VPACK (R114). -/
def execVpack (o : OpA) (s : State) : Out :=
  moves o s fun a i =>
    let h := a.width / 2
    if a.width = 1 then vsrc o a o.a 0 else if i < h then vsrc o a o.a i else vsrc o a o.b (i - h)

/-- VUNPK (R114). -/
def execVunpk (o : OpA) (s : State) : Out :=
  moves o s fun a i =>
    let h := a.width / 2
    if a.width = 1 then vsrc o a o.a 0
    else if i < h then vsrc o a o.a (if o.fn.toNat = 0 then i else i + h) else Lane.zero

/-- T_max of R115. -/
def tMax : Ty → Nat
  | .e4m3 => 448 | .e5m2 => 57344 | .w4 => 7 | _ => 3

/-- The scale of R115 for a block's largest magnitude num / den × 2^e. -/
def scaleFor (t : Ty) (num den : Nat) (e : Int) : Nat :=
  if num = 0 then 0
  else
    let d : Nat := den * tMax t
    let k : Int := logQ num d + e
    if k < -126 then 2 ^ 12
    else
      let r := quotAt num d e (k - 12)
      let m : Nat := r.1 - 4096 + (if r.2 then 1 else 0)
      if k = -126 && m = 0 then 2 ^ 12
      else if m = 4096 then (k + 1 + 127).toNat * 2 ^ 12 else (k + 127).toNat * 2 ^ 12 + m

/-- The greater of two magnitudes. -/
def maxMag (a b : Val) : Val :=
  match a, b with
  | .fin _ m d e, .fin _ m' d' e' =>
    let k := min e e'
    if m * d' * 2 ^ (e - k).toNat < m' * d * 2 ^ (e' - k).toNat then b else a
  | a, _ => a

/-- VSCL (R115): lane 0 is written whatever the guard. A is read in f32 layout; a literal A is of TY, sc20, a pattern below 2^20 (R34, log 33). -/
def execVscl (o : OpA) (s : State) : Out :=
  runPure s fun _ _ a =>
    let xs := ((List.range a.width).filter (a.guard o.pr o.pn)).map fun i => extF (a.src o.ty o.lit o.a i)
    let bad : Bool := xs.any fun v => match v with | .fin _ _ _ _ => false | _ => true
    if bad then (a.setTemp o.d (lane0 (Lane.ofWord (BitVec.ofNat 32 (255 * 2 ^ 12))))).raise { inv := true }
    else
      match xs.foldl maxMag (Val.zero false) with
      | .fin _ m d e => a.setTemp o.d (lane0 (Lane.ofWord (BitVec.ofNat 32 (scaleFor o.ts m d e))))
      | _ => a

/-- The operations of VBIT on n-bit patterns (R116). -/
def vbitOp (t : Ty) (fn a b k : Nat) : Nat :=
  match fn with
  | 0 => a &&& b
  | 1 => a ||| b
  | 2 => a ^^^ b
  | 3 => a &&& patNot t b
  | 4 => patNot t a
  | 5 => shiftPat t 0 a k
  | 6 => shiftPat t 1 a k
  | 7 => shiftPat t 2 a k
  | 8 => shiftPat t 3 a k
  | 9 => popPat t.bits a
  | _ => clzPat t.bits a

/-- VBIT (R116). -/
def execVbit (o : OpA) (s : State) : Out :=
  lanewise o s fun a i =>
    let b := (vsrc o a o.b i).v.toNat
    wrapped o.ty (patInt o.ty (vbitOp o.ty o.fn.toNat ((vsrc o a o.a i).v.toNat % 2 ^ o.ty.bits) (b % 2 ^ o.ty.bits) b))

end Sys2Proof.Machine
end

