-- ==== Sys2Proof/Machine/Dispatch.lean ====
section
/-! DEFINITION. The dispatch: one arm per constructor of Instr, each one call of its meaning. -/

namespace Sys2Proof.Machine

/-- What an instruction word or an event does to the machine. -/
def exec (i : Instr) (s : State) : Host.Outcome State Fault Refusal :=
  match i with
  | .seq o => Sys2Proof.Machine.execSeq o s
  | .steer o => Sys2Proof.Machine.execSteer o s
  | .merge o => Sys2Proof.Machine.execMerge o s
  | .gate o => Sys2Proof.Machine.execGate o s
  | .loop o => Sys2Proof.Machine.execLoop o s
  | .next o => Sys2Proof.Machine.execNext o s
  | .exit o => Sys2Proof.Machine.execExit o s
  | .call o => Sys2Proof.Machine.execCall o s
  | .retn o => Sys2Proof.Machine.execRetn o s
  | .join o => Sys2Proof.Machine.execJoin o s
  | .sink o => Sys2Proof.Machine.execSink o s
  | .const o => Sys2Proof.Machine.execConst o s
  | .prune o => Sys2Proof.Machine.execPrune o s
  | .add o => Sys2Proof.Machine.execAdd o s
  | .sub o => Sys2Proof.Machine.execSub o s
  | .mul o => Sys2Proof.Machine.execMul o s
  | .mulh o => Sys2Proof.Machine.execMulh o s
  | .div o => Sys2Proof.Machine.execDiv o s
  | .rem o => Sys2Proof.Machine.execRem o s
  | .min o => Sys2Proof.Machine.execMin o s
  | .max o => Sys2Proof.Machine.execMax o s
  | .and o => Sys2Proof.Machine.execAnd o s
  | .or o => Sys2Proof.Machine.execOr o s
  | .xor o => Sys2Proof.Machine.execXor o s
  | .andn o => Sys2Proof.Machine.execAndn o s
  | .shl o => Sys2Proof.Machine.execShl o s
  | .shr o => Sys2Proof.Machine.execShr o s
  | .sar o => Sys2Proof.Machine.execSar o s
  | .rot o => Sys2Proof.Machine.execRot o s
  | .clz o => Sys2Proof.Machine.execClz o s
  | .popc o => Sys2Proof.Machine.execPopc o s
  | .bext o => Sys2Proof.Machine.execBext o s
  | .bins o => Sys2Proof.Machine.execBins o s
  | .sel o => Sys2Proof.Machine.execSel o s
  | .cmp o => Sys2Proof.Machine.execCmp o s
  | .plog o => Sys2Proof.Machine.execPlog o s
  | .mov o => Sys2Proof.Machine.execMov o s
  | .lit o => Sys2Proof.Machine.execLit o s
  | .lith o => Sys2Proof.Machine.execLith o s
  | .lea o => Sys2Proof.Machine.execLea o s
  | .tagr o => Sys2Proof.Machine.execTagr o s
  | .idr o => Sys2Proof.Machine.execIdr o s
  | .vadd o => Sys2Proof.Machine.execVadd o s
  | .vsub o => Sys2Proof.Machine.execVsub o s
  | .vmul o => Sys2Proof.Machine.execVmul o s
  | .vfma o => Sys2Proof.Machine.execVfma o s
  | .vdiv o => Sys2Proof.Machine.execVdiv o s
  | .vsqrt o => Sys2Proof.Machine.execVsqrt o s
  | .vrcp o => Sys2Proof.Machine.execVrcp o s
  | .vrsq o => Sys2Proof.Machine.execVrsq o s
  | .vexp o => Sys2Proof.Machine.execVexp o s
  | .vlog o => Sys2Proof.Machine.execVlog o s
  | .vtanh o => Sys2Proof.Machine.execVtanh o s
  | .vmin o => Sys2Proof.Machine.execVmin o s
  | .vmax o => Sys2Proof.Machine.execVmax o s
  | .vabs o => Sys2Proof.Machine.execVabs o s
  | .vneg o => Sys2Proof.Machine.execVneg o s
  | .vcmp o => Sys2Proof.Machine.execVcmp o s
  | .vsel o => Sys2Proof.Machine.execVsel o s
  | .vcvt o => Sys2Proof.Machine.execVcvt o s
  | .vrnd o => Sys2Proof.Machine.execVrnd o s
  | .vtail o => Sys2Proof.Machine.execVtail o s
  | .vshuf o => Sys2Proof.Machine.execVshuf o s
  | .vtrn o => Sys2Proof.Machine.execVtrn o s
  | .vred o => Sys2Proof.Machine.execVred o s
  | .vscan o => Sys2Proof.Machine.execVscan o s
  | .vbcst o => Sys2Proof.Machine.execVbcst o s
  | .viota o => Sys2Proof.Machine.execViota o s
  | .vpack o => Sys2Proof.Machine.execVpack o s
  | .vunpk o => Sys2Proof.Machine.execVunpk o s
  | .colr o => Sys2Proof.Machine.execColr o s
  | .vscl o => Sys2Proof.Machine.execVscl o s
  | .vmov o => Sys2Proof.Machine.execVmov o s
  | .vbit o => Sys2Proof.Machine.execVbit o s
  | .mode o => Sys2Proof.Machine.execMode o s
  | .mcfg o => Sys2Proof.Machine.execMcfg o s
  | .mwld o => Sys2Proof.Machine.execMwld o s
  | .mbindW o => Sys2Proof.Machine.execMbindW o s
  | .mbindOp o => Sys2Proof.Machine.execMbindOp o s
  | .mfreeW o => Sys2Proof.Machine.execMfreeW o s
  | .mfreeOp o => Sys2Proof.Machine.execMfreeOp o s
  | .mfreeCfg o => Sys2Proof.Machine.execMfreeCfg o s
  | .mdrn o => Sys2Proof.Machine.execMdrn o s
  | .mstat o => Sys2Proof.Machine.execMstat o s
  | .scsnd o => Sys2Proof.Machine.execScsnd o s
  | .scpr o => Sys2Proof.Machine.execScpr o s
  | .zskp o => Sys2Proof.Machine.execZskp o s
  | .ldl o => Sys2Proof.Machine.execLdl o s
  | .stl o => Sys2Proof.Machine.execStl o s
  | .ldc o => Sys2Proof.Machine.execLdc o s
  | .stc o => Sys2Proof.Machine.execStc o s
  | .ldg o => Sys2Proof.Machine.execLdg o s
  | .stg o => Sys2Proof.Machine.execStg o s
  | .copy o => Sys2Proof.Machine.execCopy o s
  | .gath o => Sys2Proof.Machine.execGath o s
  | .scat o => Sys2Proof.Machine.execScat o s
  | .pref o => Sys2Proof.Machine.execPref o s
  | .clean o => Sys2Proof.Machine.execClean o s
  | .inval o => Sys2Proof.Machine.execInval o s
  | .alloc o => Sys2Proof.Machine.execAlloc o s
  | .free o => Sys2Proof.Machine.execFree o s
  | .hold o => Sys2Proof.Machine.execHold o s
  | .aqry o => Sys2Proof.Machine.execAqry o s
  | .tful o => Sys2Proof.Machine.execTful o s
  | .send o => Sys2Proof.Machine.execSend o s
  | .emit o => Sys2Proof.Machine.execEmit o s
  | .sendc o => Sys2Proof.Machine.execSendc o s
  | .mcast o => Sys2Proof.Machine.execMcast o s
  | .mask o => Sys2Proof.Machine.execMask o s
  | .unmsk o => Sys2Proof.Machine.execUnmsk o s
  | .walk o => Sys2Proof.Machine.execWalk o s
  | .split o => Sys2Proof.Machine.execSplit o s
  | .wstat o => Sys2Proof.Machine.execWstat o s
  | .kick o => Sys2Proof.Machine.execKick o s
  | .lnch o => Sys2Proof.Machine.execLnch o s
  | .disp o => Sys2Proof.Machine.execDisp o s
  | .dflsh o => Sys2Proof.Machine.execDflsh o s
  | .coll o => Sys2Proof.Machine.execColl o s
  | .rstat o => Sys2Proof.Machine.execRstat o s
  | .phreg o => Sys2Proof.Machine.execPhreg o s
  | .phdrp o => Sys2Proof.Machine.execPhdrp o s
  | .phsig o => Sys2Proof.Machine.execPhsig o s
  | .phwt o => Sys2Proof.Machine.execPhwt o s
  | .phsw o => Sys2Proof.Machine.execPhsw o s
  | .amo o => Sys2Proof.Machine.execAmo o s
  | .cas o => Sys2Proof.Machine.execCas o s
  | .famo o => Sys2Proof.Machine.execFamo o s
  | .fence o => Sys2Proof.Machine.execFence o s
  | .bind o => Sys2Proof.Machine.execBind o s
  | .unbnd o => Sys2Proof.Machine.execUnbnd o s
  | .acq o => Sys2Proof.Machine.execAcq o s
  | .rel o => Sys2Proof.Machine.execRel o s
  | .osec o => Sys2Proof.Machine.execOsec o s
  | .oend o => Sys2Proof.Machine.execOend o s
  | .otok o => Sys2Proof.Machine.execOtok o s
  | .futn o => Sys2Proof.Machine.execFutn o s
  | .fres o => Sys2Proof.Machine.execFres o s
  | .freg o => Sys2Proof.Machine.execFreg o s
  | .nop o => Sys2Proof.Machine.execNop o s
  | .trap o => Sys2Proof.Machine.execTrap o s
  | .brk o => Sys2Proof.Machine.execBrk o s
  | .time o => Sys2Proof.Machine.execTime o s
  | .rtime o => Sys2Proof.Machine.execRtime o s
  | .metr o => Sys2Proof.Machine.execMetr o s
  | .csrr o => Sys2Proof.Machine.execCsrr o s
  | .csrw o => Sys2Proof.Machine.execCsrw o s
  | .erri o => Sys2Proof.Machine.execErri o s
  | .rseed o => Sys2Proof.Machine.execRseed o s
  | .perf o => Sys2Proof.Machine.execPerf o s
  | .sysc o => Sys2Proof.Machine.execSysc o s
  | .halt o => Sys2Proof.Machine.execHalt o s
  | .frzr o => Sys2Proof.Machine.execFrzr o s
  | .tokenArrival n => Sys2Proof.Machine.execTokenArrival n s
  | .tokenLeave elem => Sys2Proof.Machine.execTokenLeave elem s
  | .allocRequestAccept n => Sys2Proof.Machine.execAllocRequestAccept n s
  | .allocatorGrant elem => Sys2Proof.Machine.execAllocatorGrant elem s
  | .grantDelivery n => Sys2Proof.Machine.execGrantDelivery n s
  | .allocRefusalArrival n => Sys2Proof.Machine.execAllocRefusalArrival n s
  | .windowRefill elem list => Sys2Proof.Machine.execWindowRefill elem list s
  | .horizonSnapshot slot region => Sys2Proof.Machine.execHorizonSnapshot slot region s
  | .horizonBroadcast slot region => Sys2Proof.Machine.execHorizonBroadcast slot region s
  | .promotion n => Sys2Proof.Machine.execPromotion n s
  | .allocStall slot region => Sys2Proof.Machine.execAllocStall slot region s
  | .freeMessage n => Sys2Proof.Machine.execFreeMessage n s
  | .holdMessage n => Sys2Proof.Machine.execHoldMessage n s
  | .tfulMessage n => Sys2Proof.Machine.execTfulMessage n s
  | .aqryQuery n => Sys2Proof.Machine.execAqryQuery n s
  | .thirdWakeDone elem k => Sys2Proof.Machine.execThirdWakeDone elem k s
  | .patrolScrub elem k => Sys2Proof.Machine.execPatrolScrub elem k s
  | .walkerEmit cluster unit => Sys2Proof.Machine.execWalkerEmit cluster unit s
  | .walkerGrantDelivery n => Sys2Proof.Machine.execWalkerGrantDelivery n s
  | .idleFire elem tslot => Sys2Proof.Machine.execIdleFire elem tslot s
  | .splitApply n => Sys2Proof.Machine.execSplitApply n s
  | .splitResult n => Sys2Proof.Machine.execSplitResult n s
  | .phaserRegister n also => Sys2Proof.Machine.execPhaserRegister n also s
  | .phaserSignal n also => Sys2Proof.Machine.execPhaserSignal n also s
  | .phaserDrop n also => Sys2Proof.Machine.execPhaserDrop n also s
  | .phaserWait n also => Sys2Proof.Machine.execPhaserWait n also s
  | .phaserSignalWait n also => Sys2Proof.Machine.execPhaserSignalWait n also s
  | .waiterLinkWrite n => Sys2Proof.Machine.execWaiterLinkWrite n s
  | .phaserRelease n => Sys2Proof.Machine.execPhaserRelease n s
  | .clusterAccess n => Sys2Proof.Machine.execClusterAccess n s
  | .clusterReply n => Sys2Proof.Machine.execClusterReply n s
  | .mwldFlit n => Sys2Proof.Machine.execMwldFlit n s
  | .arrayMessage n => Sys2Proof.Machine.execArrayMessage n s
  | .arrayFiringStart cluster g => Sys2Proof.Machine.execArrayFiringStart cluster g s
  | .arrayFiringEnd cluster g => Sys2Proof.Machine.execArrayFiringEnd cluster g s
  | .mdrnDrain cluster g => Sys2Proof.Machine.execMdrnDrain cluster g s
  | .flitReceive n => Sys2Proof.Machine.execFlitReceive n s
  | .egressArbitration out => Sys2Proof.Machine.execEgressArbitration out s
  | .homeAccess elem k => Sys2Proof.Machine.execHomeAccess elem k s
  | .tlbMiss elem k => Sys2Proof.Machine.execTlbMiss elem k s
  | .pageWalk pool k => Sys2Proof.Machine.execPageWalk pool k s
  | .globalReply n => Sys2Proof.Machine.execGlobalReply n s
  | .accessAck n => Sys2Proof.Machine.execAccessAck n s
  | .engineCommand cluster k => Sys2Proof.Machine.execEngineCommand cluster k s
  | .engineCompletion cluster k => Sys2Proof.Machine.execEngineCompletion cluster k s
  | .futnApply elem k => Sys2Proof.Machine.execFutnApply elem k s
  | .fresApply elem k => Sys2Proof.Machine.execFresApply elem k s
  | .fregApply elem k => Sys2Proof.Machine.execFregApply elem k s
  | .bindApply n => Sys2Proof.Machine.execBindApply n s
  | .unbndApply n => Sys2Proof.Machine.execUnbndApply n s
  | .sectionCommit elem k => Sys2Proof.Machine.execSectionCommit elem k s
  | .kickWrite n fn q w => Sys2Proof.Machine.execKickWrite n fn q w s
  | .queueEnable fn q v => Sys2Proof.Machine.execQueueEnable fn q v s
  | .queueDisable fn q v => Sys2Proof.Machine.execQueueDisable fn q v s
  | .queueResume fn q v => Sys2Proof.Machine.execQueueResume fn q v s
  | .registerWrite fn page off size v => Sys2Proof.Machine.execRegisterWrite fn page off size v s
  | .icbMessage fn v => Sys2Proof.Machine.execIcbMessage fn v s
  | .ringSlotRead fn q => Sys2Proof.Machine.execRingSlotRead fn q s
  | .startDecision core => Sys2Proof.Machine.execStartDecision core s
  | .launch pid => Sys2Proof.Machine.execLaunch pid s
  | .copyPacket pid => Sys2Proof.Machine.execCopyPacket pid s
  | .barrierAnd pid => Sys2Proof.Machine.execBarrierAnd pid s
  | .barrierOr pid => Sys2Proof.Machine.execBarrierOr pid s
  | .barrierPoll pid => Sys2Proof.Machine.execBarrierPoll pid s
  | .signalPacket pid => Sys2Proof.Machine.execSignalPacket pid s
  | .graph pid => Sys2Proof.Machine.execGraph pid s
  | .cond pid => Sys2Proof.Machine.execCond pid s
  | .nopPacket pid => Sys2Proof.Machine.execNopPacket pid s
  | .writePacket pid => Sys2Proof.Machine.execWritePacket pid s
  | .packetComplete pid => Sys2Proof.Machine.execPacketComplete pid s
  | .lnchApply n => Sys2Proof.Machine.execLnchApply n s
  | .terminationWave slot region => Sys2Proof.Machine.execTerminationWave slot region s
  | .parkSwitch slot region => Sys2Proof.Machine.execParkSwitch slot region s
  | .parkHang slot region => Sys2Proof.Machine.execParkHang slot region s
  | .packetCoreRestart core => Sys2Proof.Machine.execPacketCoreRestart core s
  | .policyWatchdogExpiry => Sys2Proof.Machine.execPolicyWatchdogExpiry s
  | .create => Sys2Proof.Machine.execCreate s
  | .destroy => Sys2Proof.Machine.execDestroy s
  | .mapPages => Sys2Proof.Machine.execMapPages s
  | .unmapPages => Sys2Proof.Machine.execUnmapPages s
  | .service => Sys2Proof.Machine.execService s
  | .frost slot => Sys2Proof.Machine.execFrost slot s
  | .thaw => Sys2Proof.Machine.execThaw s
  | .evict => Sys2Proof.Machine.execEvict s
  | .restore => Sys2Proof.Machine.execRestore s
  | .gateThird => Sys2Proof.Machine.execGateThird s
  | .wakeThird => Sys2Proof.Machine.execWakeThird s
  | .gateWays => Sys2Proof.Machine.execGateWays s
  | .wakeWays => Sys2Proof.Machine.execWakeWays s
  | .pstate => Sys2Proof.Machine.execPstate s
  | .dieGate => Sys2Proof.Machine.execDieGate s
  | .dieWake => Sys2Proof.Machine.execDieWake s
  | .setLimits => Sys2Proof.Machine.execSetLimits s
  | .inject => Sys2Proof.Machine.execInject s
  | .meterRing => Sys2Proof.Machine.execMeterRing s
  | .harvestRead => Sys2Proof.Machine.execHarvestRead s
  | .exportWindow => Sys2Proof.Machine.execExportWindow s
  | .fabric => Sys2Proof.Machine.execFabric s
  | .meterPeriodicRecord slot => Sys2Proof.Machine.execMeterPeriodicRecord slot s
  | .hang slot region => Sys2Proof.Machine.execHang slot region s
  | .droop die => Sys2Proof.Machine.execDroop die s
  | .powerOn => Sys2Proof.Machine.execPowerOn s
  | .dieBistPass die => Sys2Proof.Machine.execDieBistPass die s
  | .atsInvalidation fn va len => Sys2Proof.Machine.execAtsInvalidation fn va len s
  | .rosgenFlitReceive port f => Sys2Proof.Machine.execRosgenFlitReceive port f s
  | .nakReceive port sn => Sys2Proof.Machine.execNakReceive port sn s
  | .replayTimeout port => Sys2Proof.Machine.execReplayTimeout port s
  | .rosgenMessageApply n => Sys2Proof.Machine.execRosgenMessageApply n s
  | .failReceive n => Sys2Proof.Machine.execFailReceive n s
  | .endToEndAck n => Sys2Proof.Machine.execEndToEndAck n s
  | .inboundAccess n => Sys2Proof.Machine.execInboundAccess n s
  | .dispAppend n => Sys2Proof.Machine.execDispAppend n s
  | .dispatchPlace n k => Sys2Proof.Machine.execDispatchPlace n k s
  | .dispatchOutcome n => Sys2Proof.Machine.execDispatchOutcome n s
  | .collMessage n => Sys2Proof.Machine.execCollMessage n s
  | .waysWakeDone kind unit group => Sys2Proof.Machine.execWaysWakeDone kind unit group s
  | .deviceReset => Sys2Proof.Machine.execDeviceReset s
  | .powerLoss => Sys2Proof.Machine.execPowerLoss s
  | .rosgenPortUp port peer => Sys2Proof.Machine.execRosgenPortUp port peer s
  | .rosgenPortDown port => Sys2Proof.Machine.execRosgenPortDown port s
  | .rosgenPortSend port => Sys2Proof.Machine.execRosgenPortSend port s
  | .droopEnd die => Sys2Proof.Machine.execDroopEnd die s
  | .tirzonMemoryUe => Sys2Proof.Machine.execTirzonMemoryUe s
  | .msixUnmask fn v => Sys2Proof.Machine.execMsixUnmask fn v s
  | .firmwareUpdate img => Sys2Proof.Machine.execFirmwareUpdate img s

end Sys2Proof.Machine
end

