-- ==== Sys2Proof/Machine/Turn.lean ====
section
/-! DEFINITION. What surrounds an instruction in a step: the clock (R297, R298, R320, R326), the word or node that an element issues next (R52, R122, R144), and
the storage errors of its fetch (R37, R124, R132). -/

namespace Sys2Proof.Machine

-- The clock -------------------------------------------------------------------------------------------------------------------------------

/-- Sevenths of a nanosecond in a clock cycle: 1.75, 1.4, 1.0 and 0.5 GHz (R313). -/
def cycle7 (pstate : Nat) : Nat := match pstate with | 0 => 4 | 1 => 5 | 2 => 7 | _ => 14

/-- Bytes of a tier that a slot maps. -/
def Part.mapped (x : Part) (t : Nat) : Nat := ((x.maps.filter fun m => m.tier == t).map fun m => m.size).sum

/-- A slot's times and integrals over a span of the wall clock (R297, R298). -/
def Part.tick (x : Part) (d7 : Nat) : Part :=
  if x.life == .free then x
  else { x with guest := x.guest + d7, run := if x.live && !x.frozen then x.run + d7 else x.run,
                gddr := x.gddr + x.mapped 0 * d7, lpddr := x.lpddr + x.mapped 1 * d7 }

/-- The cycles that a slot loses in n cycles while the clock of a die that it holds clusters of is stretched, by up to one half (R297, R314). -/
def State.stretched (s : State) (n p : Nat) : Nat :=
  if s.dev.droop.any fun d => (s.clustersOf p).any fun c => dieOfClus c == d then Config.stretch (freeIdx s.free 7 p) % (n / 3 + 1) else 0

/-- PERF 6 counts the cycles in which a request of the partition waits, stretched ones as they pass (R326); `lost` are the nominal cycles that a slot loses. -/
def State.waitTick (s : State) (n : Nat) (lost : Nat → Nat) : State :=
  { s with elems := s.elems.mapVals fun a e =>
      let ps := ((e.lists.rows.filter fun l => !l.2.isEmpty).map fun l => s.ownOf a (l.1 / 4)).eraseDups
      (ps.filter fun p => !(s.part p).frozen).foldl (fun e p => e.count p 6 (n - lost p)) e }

/-- The clock advances by n cycles; what the hardware does by itself in each cycle is done for them (R144, R169, R183). -/
def State.tick (s : State) (n : Nat) : State :=
  if n = 0 then s
  else
    let d7 := n * cycle7 s.dev.pstate
    let s1 := ((((s.wordTick n).phTick (s.cycle + n)).arrTick).waitTick n (s.stretched n)).egressTick n
    { s1 with cycle := s.cycle + n, t7 := s.t7 + d7, free := if s.dev.droop.isEmpty then s1.free else s1.free + 1
              parts := s1.parts.mapVals fun p x => { x.tick d7 with cycBase := x.cycBase + if x.live && !x.frozen then s.stretched n p else 0 } }

-- What an element issues next ------------------------------------------------------------------------------------------------------------------

/-- What a turn of an element comes to: nothing to execute, a word that no loader lets in, or an instruction on a state. -/
inductive Issue
  | stay (s : State)
  | bad (r : Reason)
  | run (i : Instr) (s : State)

namespace State

/-- A sequence slot has a word ready: it runs, is not held (R144, R319), and its partition is not frozen (R293). -/
def wordReady (s : State) (a k : Nat) : Option Act :=
  match nth (s.elem a).seqs k none with
  | some x => if x.held || x.hold != 0 || (s.part (s.ownOf a x.ctx)).frozen then none else some x
  | none => none

/-- The sequence slot whose word is issued: the one that issued less recently goes first (R144). -/
def pickSeq (s : State) (a : Nat) : Option (Nat × Act) :=
  let k := 1 - (s.elem a).lastIssued
  match s.wordReady a k with
  | some x => some (k, x)
  | none => (s.wordReady a (1 - k)).map fun x => (1 - k, x)

/-- Counts a body word, the cycle's only one of its element, and makes its activation the current one (R144, R326). -/
def issueWord (s : State) (a k : Nat) : State :=
  { s.modElem a fun e => { e.count (match nth e.seqs k none with | some y => s.ownOf a y.ctx | none => 0) 2 1 with lastIssued := k, wordNext := s.cycle + 1 } with cur := some ⟨a, k, none⟩ }

/-- The next word of an element, at most one in a cycle, or the exit of an activation whose body is over, in the cycle after its last word (R52, R144). -/
def nextWord (s : State) (a : Nat) : Issue :=
  match (if s.cycle < (s.elem a).wordNext then none else s.pickSeq a) with
  | none => .stay s
  | some (k, act) =>
    if act.len < act.pc then .stay (s.endSeq a k)
    else
      let at_ := (s.ctx a act.ctx).wbase + act.node + act.pc
      let r := s.eccFatal a act.ctx (act.org a 0) [(1, [at_])]
      if r.2 then .stay r.1
      else match checkWord ((s.elem a).nodes.get 0 at_) with
        | .ok i => .run i (r.1.issueWord a k)
        | .error e => .bad e

/-- The next node of an element to start, at most one in a cycle (R122): the reads that a start makes, then its head. -/
def nextStart (s : State) (a : Nat) : Issue :=
  match (if s.cycle < (s.elem a).startNext then none else s.chooseStart a) with
  | none => .stay s
  | some r =>
    match (s.elem a).live r.fh with
    | none => .stay s
    | some y =>
      let h := (s.elem a).readHdr y
      let at_ := (s.ctx a h.ctx).wbase + r.node
      let js : List Nat := match s.head a h.ctx r.node with
        | some (kind, o) => latched (s.elem a) y kind o
        | none => []
      let o : Org := { elem := a, ctx := h.ctx, fh := r.fh, node := r.node, tag := h.tag }
      let x := s.eccFatal a h.ctx o [(1, [at_]), (2, [hIdx r.fh]), (3, [h.ctx]), (0, frameWords y js)]
      if x.2 then .stay x.1
      else match checkWord ((s.elem a).nodes.get 0 at_) with
        | .ok i => .run i { x.1 with cur := some ⟨a, 0, some r⟩ }
        | .error e => .bad e

-- Storage that an arriving message reads (R124, R132) ----------------------------------------------------------------------------------------------

/-- Reads of the handle table, the context store and a frame's header and slot that a message makes at an element. -/
def arrivalReads (s : State) (x : Flight) : Option (Nat × Org × List (Nat × List Nat)) :=
  let tok (a : Nat) (t : Token) : Option (Nat × Org × List (Nat × List Nat)) :=
    let r := s.tokenReads a t
    some (a, { elem := a, ctx := r.1, fh := t.fh, node := t.node, tag := t.tag }, r.2.2)
  match x.msg, x.dst with
  | .tok t, .elem a => tok a t
  | .link k _, .elem a | .release k _ _ _ _, .elem a => tok a { fh := k.fh, node := k.node, port := k.port }
  | .alloc r, .elem a => some (a, { r.org with elem := a }, [(3, [r.ctx])])
  | .free o h _, .elem a | .hold o h _, .elem a | .tful o h _, .elem a => some (a, { o with elem := a }, [(2, [hIdx h])])
  | .aqry o kind h _, .elem a => some (a, { o with elem := a }, [if kind = 0 then (2, [hIdx h]) else (3, [o.ctx])])
  | _, _ => none

/-- The flight that an event delivers to an element's storage. -/
def eventFlight (i : Instr) : Option Nat :=
  match i with
  | .tokenArrival n | .allocRequestAccept n | .freeMessage n | .holdMessage n | .tfulMessage n | .aqryQuery n | .waiterLinkWrite n | .phaserRelease n => some n
  | _ => none

/-- The storage errors that an event meets before its effect; with an uncorrectable one the event does not come about. -/
def eventErrors (s : State) (i : Instr) : State × Bool :=
  match eventFlight i with
  | none => (s, false)
  | some n => match s.arrived n with
    | none => (s, false)
    | some x => match s.arrivalReads x with
      | none => (s, false)
      | some (a, o, rs) => s.eccFatal a o.ctx o rs

/-- What a turn that no instruction makes does: the host's memory, its failing ranges, stores that it completes and images, and damage to flits and replay slots (R201, R216, R295, R337). -/
def outside (s : State) (c : Choice) : State :=
  match c with
  | .hostWrite addr bs => { s with host := Memory.write s.host addr bs }
  | .hostMap bad => { s with hostBad := bad }
  | .hostDone n => match s.hostq[n]? with
    | some w => if (s.hostq.take n).any (fun v => v.meets w.at_ w.bytes.length) then s
      else ({ s with host := landStore s.host w, hostq := dropAt s.hostq n } : State).settle w.elem
    | none => s
  | .msixMask f v => s.modFn f fun x => { x with vmask := x.vmask.put v true }
  | .hostImage addr img => match img with
    | some x => s.imagePut addr x
    | none => { s with images := s.images.filter fun r => r.1 != addr }
  | .damage n mask => match s.net[n]? with
    | some f =>
      let g : Flight := { f with noise := f.noise ^^^ (mask % 2 ^ 256) }
      if f.at_ == .link && (g.noise == 0 || chkFails g) then { s with net := setAt s.net n g } else s
    | none => s
  | .spoil port q ue =>
    let x := s.ports.get {} port
    { s with ports := s.ports.put port { x with window := x.window.map fun w => if w.seq == q then { w with ce := !ue, ue := ue } else w } }
  | _ => s

-- Loading one word ------------------------------------------------------------------------------------------------------------------------------------

/-- An activation that is about to run word 1 of node 0 on the frame with handle 1. -/
def probeAct : Act :=
  { aid := 0, fh := 1, node := 0, ctx := 0, hdr := { nslot := 255 }, nin := 4, len := 1, dsta := Dst.none, dstb := Dst.none, pc := 1,
    ins := List.replicate 4 {}, temps := List.replicate 8 (List.replicate 32 Lane.zero), preds := List.replicate 3 (List.replicate 32 false),
    width := 1, e := false, xs := false, reqSet := 0 }

/-- A state in which element 0, sole in a partition of one cluster, runs a word next: a head stands at node 0 with its inputs present, another
word as word 1 of an activation of node 0. -/
def probe (s : State) (w : NWord) : State :=
  let isHead : Bool := (fld w 93 3).toNat == 0
  let o := OpN.ofWord w
  let y : HEntry := { v := true, gen := 1, cons := 1, size := 130 }
  let e0 : Elem := { s.elem 0 with
    nodes := ((s.elem 0).nodes.put 0 (if isHead then w else 0)).put 1 (if isHead then 0 else w)
    ctxs := (s.elem 0).ctxs.put 0 { wlen := 2, pv := 1, pools := [{ size := 12288 }, {}, {}, {}], live := true }
    handles := (s.elem 0).handles.put 0 y
    reqs := List.replicate 8 none
    seqs := if isHead then [none, none] else [some probeAct, none]
    ready := if isHead then [⟨1, 0, o.ch.toNat, 0⟩] else [] }
  let e1 := e0.writeHdr y { nslot := 255 }
  let e2 := (List.range (o.nin.toNat + 1)).foldl (fun e k => e.setSlot y (o.slot.toNat + k) (2 ^ 68)) e1
  let s1 := s.setElem 0 (if isHead then e2 else e1)
  { (((s1.modClus 0 fun x => { x with hedges := [{ v := true, w := 1, h := 1, shr := 3 }, {}] }).modPart 0 fun x =>
      { x with life := .live, live := true, frozen := false, w := 1, h := 1 }).modRegion 0 0 fun g =>
      { g with used := true, w := 12, h := 8, cur := some 0, run := none, parking := false }) with
    agenda := ⟨0, if isHead then .start 0 else .word 0⟩ :: s.agenda }

end State

end Sys2Proof.Machine
end

