-- ==== Sys2Proof/Machine/Step.lean ====
section
/-! DEFINITION. One step: the clock advances to the next turn of the agenda (log 1), and the agent named there moves. -/

namespace Sys2Proof.Machine

/-- What a turn's storage errors are fatal to is reset as the turn ends (R124, R132, R306). -/
def settled (o : Host.Outcome State Fault Refusal) : Host.Outcome State Fault Refusal := match o with | .next s => .next s.settleHurt | r => r

/-- The turn that is next. With no turn left, a cycle passes. -/
def State.turn (s : State) : Host.Outcome State Fault Refusal :=
  match s.agenda with
  | [] => .next (s.watch.tick 1)
  | t :: rest =>
    let s1 := { s with agenda := rest }.watch.tick t.dt
    match t.what with
    | .word a => match s1.nextWord a with
      | .stay s2 => .next s2
      | .bad r => .fault (.badFetch r)
      | .run i s2 => exec i s2
    | .start a => match s1.nextStart a with
      | .stay s2 => .next s2
      | .bad r => .fault (.badFetch r)
      | .run i s2 => exec i s2
    | .event i =>
      if i.isWord then .fault .notAnEvent
      else
        let r := s1.eventErrors i
        if r.2 then .next r.1 else exec i r.1
    | c => .next (s1.outside c)

/-- One step of the machine. -/
def step (s : State) : Host.Outcome State Fault Refusal := settled s.turn

/-- The state whose next step fetches and runs the word w. -/
def State.withFetchWord (s : State) (nbits w : Nat) : State := s.probe (BitVec.ofNat 96 (w % 2 ^ nbits))

end Sys2Proof.Machine
end

