-- ==== Sys2Proof/Safety.lean ====
section
/-! DEFINITION. What counts as a safe run: no step of it stops, and memories keep their canonical form. -/

namespace Sys2Proof.Machine

/-- Every memory of a state is in canonical form. -/
def State.memWf (s : State) : Bool :=
  Memory.wf s.phys && Memory.wf s.host && s.elems.rows.all fun r => Memory.wf r.2.mem

/-- What holds of an element in every state: its local store is in canonical form, its generator is never 0 (R67), and START_COUNT counts modulo 64
(R122). -/
def Elem.inv (e : Elem) : Prop := Memory.wf e.mem = true ∧ e.rng ≠ 0 ∧ e.startCount < 64

/-- An eviction image carries such elements. -/
def Image.inv (x : Image) : Prop := ∀ r ∈ x.elems, r.2.inv

/-- An image that the host is yet to bring carries such elements. -/
def Turn.inv (t : Turn) : Prop := ∀ a x, t.what = .hostImage a (some x) → x.inv

/-- The invariant of every step: global and host memory are in canonical form, and every element is as `Elem.inv` says, here, in the images held outside,
and in those still to come. -/
def State.inv (s : State) : Prop :=
  Memory.wf s.phys = true ∧ Memory.wf s.host = true ∧ (∀ r ∈ s.elems.rows, r.2.inv) ∧ (∀ r ∈ s.images, r.2.inv) ∧ ∀ t ∈ s.agenda, t.inv

/-- The step from a state goes on. -/
def State.goesOn (s : State) : Prop := ∃ t, step s = .next t

/-- k steps from a state all go on. -/
def State.safe : Nat → State → Prop
  | 0, _ => True
  | k + 1, s => ∃ t, step s = .next t ∧ t.safe k

end Sys2Proof.Machine
end

