-- ==== Sys2Proof/Certificates/Slice0/Obligations.lean ====
section
/-! DEFINITION. The statements about the machine, each under its name, after the words they are made of. -/

namespace Sys2Proof.Machine

-- Words of the statements ------------------------------------------------------------------------------------------------------

/-- The activation `act` is the one whose word the state runs, in the place `c`. -/
def Runs (s : State) (c : Cur) (act : Act) : Prop := s.cur = some c ∧ nth (s.elem c.elem).seqs c.seq none = some act

/-- From `s` to `t` nothing changes but the running activation, which is `act` at its next word. -/
def OnlyAct (s t : State) (c : Cur) (act : Act) : Prop :=
  t = { s with elems := t.elems } ∧ (∀ b, b ≠ c.elem → t.elem b = s.elem b) ∧
  t.elem c.elem = { s.elem c.elem with seqs := setAt (s.elem c.elem).seqs c.seq (some { act with pc := act.pc + 1 }) }

/-- The operands of a word of group 1 or 2 that changes nothing but its activation: all of them but VRND. -/
def pureWord (i : Instr) : Option OpA :=
  match i with
  | .add o | .sub o | .mul o | .mulh o | .div o | .rem o | .min o | .max o | .and o | .or o | .xor o | .andn o | .shl o | .shr o | .sar o
  | .rot o | .clz o | .popc o | .bext o | .bins o | .sel o | .cmp o | .plog o | .mov o | .lit o | .lith o | .lea o | .tagr o | .idr o
  | .vadd o | .vsub o | .vmul o | .vfma o | .vdiv o | .vsqrt o | .vrcp o | .vrsq o | .vexp o | .vlog o | .vtanh o | .vmin o | .vmax o
  | .vabs o | .vneg o | .vcmp o | .vsel o | .vcvt o | .vtail o | .vshuf o | .vtrn o | .vred o | .vscan o | .vbcst o | .viota o | .vpack o
  | .vunpk o | .colr o | .vscl o | .vmov o | .vbit o => some o
  | _ => none

/-- The words whose destination is a predicate (R94, R95, R104). -/
def writesPred (i : Instr) : Bool := match i with | .cmp _ | .plog _ | .vcmp _ => true | _ => false

/-- The numbers of an integer type (R30). -/
def InRange (t : Ty) (x : Int) : Prop := if t.isSigned then -(2 ^ (t.bits - 1)) ≤ x ∧ x < 2 ^ (t.bits - 1) else 0 ≤ x ∧ x < 2 ^ t.bits

/-- The number `x` is `y` wrapped to the type (R64). -/
def WrapsTo (t : Ty) (y x : Int) : Prop := InRange t x ∧ (2 : Int) ^ t.bits ∣ x - y

/-- The exact result of an integer word of group 1 on an activation, and whether it divides by zero (R85, R86, R88 to R90, R98): `x` and `y` are the values of
A and B, `p` and `q` their patterns, `n` the width and `k` the count of a shift. -/
def intResult (i : Instr) (a : Act) : Option (OpA × Int × Bool) :=
  let x (o : OpA) : Int := a.ival o o.a
  let y (o : OpA) : Int := a.ival o o.b
  let p (o : OpA) : Nat := ((a.ival o o.a) % 2 ^ o.ty.bits).toNat
  let q (o : OpA) : Nat := ((a.ival o o.b) % 2 ^ o.ty.bits).toNat
  let k (o : OpA) : Nat := (a.src o.ty o.lit o.b 0).v.toNat
  let n (o : OpA) : Nat := o.ty.bits
  match i with
  | .add o => some (o, x o + y o, false)
  | .sub o => some (o, x o - y o, false)
  | .mul o => some (o, x o * y o, false)
  | .mulh o => some (o, x o * y o / 2 ^ n o, false)
  | .div o => some (o, if y o = 0 then -1 else (x o).tdiv (y o), y o == 0)
  | .rem o => some (o, if y o = 0 then x o else (x o).tmod (y o), y o == 0)
  | .and o => some (o, (p o &&& q o : Nat), false)
  | .or o => some (o, (p o ||| q o : Nat), false)
  | .xor o => some (o, (p o ^^^ q o : Nat), false)
  | .andn o => some (o, (p o &&& (2 ^ n o - 1 - q o) : Nat), false)
  | .shl o => some (o, (p o * 2 ^ k o : Nat), false)
  | .shr o => some (o, (p o / 2 ^ k o : Nat), false)
  | .sar o => some (o, (if 2 ^ (n o - 1) ≤ p o then (p o : Int) - 2 ^ n o else p o) / 2 ^ k o, false)
  | .rot o => some (o, (p o * 2 ^ (k o % n o) + p o / 2 ^ (n o - k o % n o) : Nat), false)
  | .clz o => some (o, ((List.range (n o)).takeWhile fun j => !(p o).testBit (n o - 1 - j)).length, false)
  | .popc o => some (o, ((List.range (n o)).filter fun j => (p o).testBit j).length, false)
  | .lea o => if o.fn = 0 then some (o, x o + y o * 2 ^ o.ka.toNat + o.lit.toInt, false) else none
  | _ => none

/-- The lane pair that holds a number of an integer type: the number extended to 32 bits, to 64 over both lanes for 64-bit types, with zero tails (R57). -/
def intLanes (t : Ty) (x : Int) : Lane × Lane :=
  (Lane.ofWord (BitVec.ofInt 32 x), if t.is64 then Lane.ofWord (BitVec.ofInt 32 (x / 2 ^ 32)) else Lane.zero)

/-- The word `i` completes with a number that meets `r` in temporary `k` as the scalar result of a type (R83): lane 0 or the lane pair holds it, extended and with zero
tails, and every other lane is zero. -/
def ScalarGives (i : Instr) (o : OpA) (k : Fin 8) (s : State) (c : Cur) (act : Act) (xs : Bool) (r : Int → Prop) : Prop :=
  ∃ t act', exec i s = .next t ∧ OnlyAct s t c act' ∧ act' = { act with temps := act'.temps, wrote := act'.wrote, xs := act.xs || xs } ∧
    ∃ x, r x ∧ (act'.temp k.val 0, act'.temp k.val 1) = intLanes o.ty x ∧ ∀ j, 2 ≤ j → act'.temp k.val j = Lane.zero

/-- The lane that a word of group 1 copies, by the selector of its source (R87, R93, R96, R97); MIN and MAX order integers by value and then tail, floats by
the places of R71. -/
def copiedFrom (i : Instr) (a : Act) : Option (OpA × Sel) :=
  let ext (o : OpA) (x : Sel) : Int := 4 * a.ival o x + 2 * (a.src o.ty o.lit x 0).g.toNat + (a.src o.ty o.lit x 0).s.toNat
  match i with
  | .mov o => some (o, o.a)
  | .lit o => some (o, .lit)
  | .sel o => some (o, if a.pred o.ka.toNat 0 then o.a else o.b)
  | .min o => some (o, if o.ty.code < 8 then (if ext o o.b < ext o o.a then o.b else o.a)
      else if ordLane o.ty (a.src o.ty o.lit o.a 0) (a.src o.ty o.lit o.b 0) = .gt then o.b else o.a)
  | .max o => some (o, if o.ty.code < 8 then (if ext o o.a < ext o o.b then o.b else o.a)
      else if ordLane o.ty (a.src o.ty o.lit o.a 0) (a.src o.ty o.lit o.b 0) = .lt then o.b else o.a)
  | _ => none

/-- The exact result in lane `j` of an integer word of group 2 (R102, R111); `x`, `y` and `z` are lane `j` of A, B and C. -/
def vecResult (i : Instr) (a : Act) (j : Nat) : Option (OpA × Int) :=
  let x (o : OpA) : Int := intOf o.ty (a.src o.ty o.lit o.a j).v
  let y (o : OpA) : Int := intOf o.ty (a.src o.ty o.lit o.b j).v
  let z (o : OpA) : Int := intOf o.ty (a.src o.ty o.lit o.c j).v
  match i with
  | .vadd o => some (o, x o + y o)
  | .vsub o => some (o, x o - y o)
  | .vmul o => some (o, x o * y o)
  | .vfma o => some (o, x o * y o + z o)
  | .vdiv o => some (o, if y o = 0 then -1 else (x o).tdiv (y o))
  | .vabs o => some (o, ((x o).natAbs : Int))
  | .vneg o => some (o, -(x o))
  | .viota o => some (o, intOf o.ty (a.src o.ty o.lit o.a 0).v + j * o.ka.toInt)
  | _ => none

/-- The lane that a word of group 2 copies into lane `j`, container and tail (R102, R105, R109, R111, R114). -/
def vecCopy (i : Instr) (a : Act) (j : Nat) : Option (OpA × Lane) :=
  let x (o : OpA) (k : Nat) : Lane := a.src o.ty o.lit o.a k
  let y (o : OpA) (k : Nat) : Lane := a.src o.ty o.lit o.b k
  let ext (o : OpA) (l : Lane) : Int := 4 * intOf o.ty l.v + 2 * l.g.toNat + l.s.toNat
  match i with
  | .vmov o => some (o, x o j)
  | .vsel o => some (o, if a.pred o.ka.toNat j then x o j else y o j)
  | .vbcst o => some (o, x o o.ka.toNat)
  | .vmin o => some (o, if o.ty.isFlt then (if ordLane o.ty (x o j) (y o j) = .gt then y o j else x o j)
      else if ext o (y o j) < ext o (x o j) then y o j else x o j)
  | .vmax o => some (o, if o.ty.isFlt then (if ordLane o.ty (x o j) (y o j) = .lt then y o j else x o j)
      else if ext o (x o j) < ext o (y o j) then y o j else x o j)
  | .vshuf o =>
    let k : Nat := if o.fn = 0 then (y o j).v.toNat else if o.fn = 1 then (j + o.ka.toNat) % a.width else if o.fn = 2 then j ^^^ o.ka.toNat else a.width - 1 - j
    some (o, if k < a.width then x o k else Lane.zero)
  | .vpack o => some (o, if a.width = 1 then x o 0 else if j < a.width / 2 then x o j else y o (j - a.width / 2))
  | .vunpk o => some (o, if a.width = 1 then x o 0 else if a.width / 2 ≤ j then Lane.zero else if o.fn = 0 then x o j else x o (j + a.width / 2))
  | _ => none

/-- What a condition of CMP and VCMP says of two ordered things (R94, R104). -/
def Meets (fn : Nat) (x y : Int) : Prop :=
  match fn with
  | 0 => x = y
  | 1 => x ≠ y
  | 2 => x < y
  | 3 => x ≤ y
  | 4 => y < x
  | _ => y ≤ x

/-- The outcome `r` of a condition of CMP or VCMP on two lanes whose integers are `x` and `y`: integers are ordered by ext, tails and all, floats by the places of
R71 (R71, R94, R104). -/
def CondHolds (t : Ty) (fn : Nat) (a b : Lane) (x y : Int) (r : Bool) : Prop :=
  if t.isFlt then r = condOk fn (ordLane t a b)
  else (r = true ↔ Meets fn (4 * x + 2 * a.g.toNat + a.s.toNat) (4 * y + 2 * b.g.toNat + b.s.toNat))

/-- From `s` to `t` nothing changes but element `a`, which becomes `e`. -/
def OnlyElem (s t : State) (a : Nat) (e : Elem) : Prop := t = { s with elems := t.elems } ∧ (∀ b, b ≠ a → t.elem b = s.elem b) ∧ t.elem a = e

/-- Slot `j` is the lowest free request slot of the activation's tenant, and one is set aside for the activation or free for all (R121, R291). That it is the lowest is the model's
reading (log 42, DEDUCED). -/
def FreeSlot (s : State) (a : Nat) (act : Act) (j : Nat) : Prop :=
  (act.reqSet ≠ 0 ∨ s.freeSlots a act.ctx ≠ 0) ∧ j ∈ s.slotRange a act.ctx ∧ nth (s.elem a).reqs j none = none ∧
  ∀ i ∈ s.slotRange a act.ctx, i < j → nth (s.elem a).reqs i none ≠ none

/-- What a word comes to when it is not turned away: the request slot it takes, its continuation, its activation (next word and set-aside slots apart), and, from the
origin that names it, the state with everything it changes outside its element and what it changes in that. -/
structure Effect where
  slot : Option Req := none
  cont : Option Cont := none
  act : Act
  base : Org → State
  own : Org → Elem → Elem := fun _ e => e

/-- The word `i` completes with an effect: its slot is taken, its place in the issue order used, its continuation counted as sent, and its activation goes to its
next word; besides this and the effect nothing changes (R121, R279). -/
def Completes (i : Instr) (s : State) (c : Cur) (act : Act) (x : Effect) : Prop :=
  ∀ j, (∀ r, x.slot = some r → FreeSlot s c.elem act j) →
    let org : Org := { x.act.org c.elem (s.elem c.elem).seqNext with slot := x.slot.map fun _ => j, cont := x.cont }
    let e := (x.base org).elem c.elem
    ∃ t, exec i s = .next t ∧ OnlyElem (x.base org) t c.elem (x.own org { e with
      reqs := match x.slot with | some r => setAt e.reqs j (some r) | none => e.reqs
      seqNext := (s.elem c.elem).seqNext + 1
      sent := ((s.countCont c.elem act.ctx x.cont).elem c.elem).sent
      seqs := setAt e.seqs c.seq (some { x.act with pc := act.pc + 1, reqSet := if x.slot.isSome then act.reqSet - 1 else act.reqSet }) })

/-- The effect of handing a message to the element's send queue. -/
def Effect.queue (s : State) (act : Act) (m : Org → Msg) (scope : Option Nat) (otok : Bool) : Effect :=
  { act := act, base := fun _ => s, own := fun g e => { e with sendq := e.sendq ++ [⟨g, m g, scope, otok, false⟩] } }

/-- An effect that takes a slot of a kind for the continuation of a destination; none for the null handle. -/
def Effect.onSlot (x : Effect) (a : Nat) (k : ReqKind) (d : Dst) : Option Effect :=
  (x.act.cont d).map fun c => { x with slot := some { kind := k, target := a, ctx := x.act.ctx }, cont := c }

/-- The effect of an access joining the element's memory queue. -/
def Effect.access (s : State) (act : Act) (x : Org → Acc) : Effect := { act := act, base := fun _ => s, own := fun g e => { e with memq := e.memq ++ [x g] } }

/-- Lane 0 of a source as a word. -/
def Act.word (act : Act) (x : Sel) (l : Word) : Word := (act.src .n32 l x 0).v

/-- The effect of a FREE or TFUL on the allocation of `h`: its message joins the send queue, and until it is applied it stands in the memory queue as a store to the
allocation's element (R135). -/
def Effect.freed (s : State) (a : Nat) (act : Act) (h : Word) (m : Org → Msg) : Effect :=
  { act := act, base := fun _ => s, own := fun g e => { e with
      sendq := e.sendq ++ [⟨g, m g, none, false, false⟩]
      memq := e.memq ++ match s.absOf a act.ctx (hElem h) with | some d => [{ org := g, kind := .freed d }] | none => [] } }

/-- FREE, HOLD and TFUL (R135, R138); SEND, SENDC and EMIT with what they send (R145, R146); OTOK (R233); KICK (R329), DISP (R345) and SYSC (R324). -/
def sendEffect (i : Instr) (s : State) (a : Nat) (act : Act) : Option Effect :=
  let on (pr : BitVec 2) (pn : Bool) (x : Effect) : Option Effect := if act.guard pr pn 0 then some x else none
  match i with
  | .free o => on o.pr o.pn (.freed s a act (act.word o.a o.lit) fun g => .free g (act.word o.a o.lit) (o.n9.toNat % 256))
  | .hold o => on o.pr o.pn (.queue s act (fun g => .hold g (act.word o.a o.lit) (o.n9.toNat % 256)) none false)
  | .tful o => on o.pr o.pn (.freed s a act (act.word o.a o.lit) fun g => .tful g (act.word o.a o.lit) (o.n9.getLsbD 0))
  | .send o =>
    let w := (act.word o.c o.lit).toNat
    if isNull (act.word o.a o.lit) then none
    else on o.pr o.pn (.queue s act (fun _ => .tok { act.sendTok o o.b with fh := act.word o.a o.lit, node := w / 16 % 4096, port := w / 4 % 4 }) none false)
  | .sendc o =>
    if isNull (act.word o.a o.lit) then none
    else on o.pr o.pn (.queue s act (fun _ => .tok { act.sendTok o o.b with fh := act.word o.a o.lit, port := o.ops.toNat % 4, handler := true }) none false)
  | .emit o =>
    let d := if o.ops.getLsbD 0 then act.dstb else act.dsta
    if d.mode = 0 then none
    else (act.dstHandle d.mode).bind fun h => on o.pr o.pn (.queue s act (fun _ => .tok { act.sendTok o o.a with fh := h, node := d.node.toNat, port := d.port.toNat }) none false)
  | .otok o =>
    (act.dstHandle o.dst.mode).bind fun h => on o.pr o.pn (.queue s act (fun _ => .tok
      { tag := act.hdr.tag, fill := act.hdr.fill, fh := h, node := o.dst.node.toNat, port := o.dst.port.toNat, col := Nat.log2 act.width, e := act.e || act.xs })
      (some o.scope.toNat) true)
  | .kick o => on o.pr o.pn (.queue s act (fun g => .kick g (s.ringFn a act.ctx) (o.ops.toNat % 16) (act.word o.a o.lit)) (some 4) false)
  | .disp o =>
    let h (k : Nat) : Nat := (act.src .n32 o.lit o.a k).v.toNat
    if (act.pair .n32 o.lit o.b).toNat % 16 = 0 ∧ (act.pair .n32 o.lit o.c).toNat % 64 = 0 then
      let d : DispCmd := ⟨h 0 + h 1 * 2 ^ 32 + h 2 * 2 ^ 64, (act.pair .n32 o.lit o.b).toNat, (act.pair .n32 o.lit o.c).toNat, o.ops.getLsbD 13⟩
      on o.pr o.pn (.queue s act (fun g => .disp g d (o.ops.toNat / 512 % 8)) (some (o.ops.toNat / 512 % 8)) false)
    else none
  | .sysc o => on o.pr o.pn (.queue s act (fun g => .sysc g o.fn.toNat (act.pair .n32 o.lit o.a)) (some 4) false)
  | _ => none

/-- The phaser words (R168, R190), with BIND and UNBND, which travel with them (R246). -/
def phaserEffect (i : Instr) (s : State) (a : Nat) (act : Act) : Option Effect :=
  let on (pr : BitVec 2) (pn : Bool) (x : Option Effect) : Option Effect := if act.guard pr pn 0 then x else none
  let id (o : OpS) : Nat := (act.word o.a o.lit).toNat % 2 ^ 26
  let m (o : OpS) : DWord := act.pair o.ty o.lit o.a
  let member (o : OpS) (ok : Bool) (x : Option Effect) : Option Effect :=
    if (s.phaserAt a act.ctx (mwId (m o))).isSome ∧ (m o).toNat / 2 ^ 58 % 16 = 0 ∧ mwMode (m o) ≠ 0 ∧ ok = true then on o.pr o.pn x else none
  let bound (o : OpS) (undo : Bool) : Option Effect :=
    let x : Effect := .queue s act (fun g => .bind g (id o) (act.pair o.ty o.lit o.b) ((act.word o.c o.lit).setWidth 64) undo) none false
    if (s.phaserAt a act.ctx (id o)).isNone then none else on o.pr o.pn (if o.dst.mode = 0 then some x else x.onSlot a .phaser o.dst)
  match i with
  | .phreg o =>
    if (s.phaserAt a act.ctx (id o)).isNone then none
    else on o.pr o.pn (Effect.onSlot (.queue s act (fun g => .ph g (id o) (.reg o.fn.toNat) false 0) none false) a .phaser o.dst)
  | .phdrp o => member o (o.dst.mode == 0) (some (.queue s act (fun g => .ph g (mwId (m o)) (.drop (mwMode (m o)) (mwSp (m o))) o.rl o.scope.toNat) none false))
  | .phsig o => member o (o.dst.mode == 0 && (mwMode (m o) == 1 || mwMode (m o) == 3))
      (some (.queue s (act.setPair o.d (mwWith (m o) (mwSp (m o) + 1))) (fun g => .ph g (mwId (m o)) (.sig (mwSp (m o))) o.rl o.scope.toNat) none false))
  | .phwt o => member o (mwMode (m o) == 2 || mwMode (m o) == 3) ((act.cont o.dst).map fun k =>
      let q : Word := if mwMode (m o) = 2 then mwSp (m o) else mwSp (m o) - 1
      let v : DWord := if mwMode (m o) = 2 then mwWith (m o) (mwSp (m o) + 1) else m o
      { Effect.queue s (act.setPair o.d v) (fun g => .ph g (mwId (m o)) (.wait q (k.getD ⟨0, 0, 0⟩) o.aq) o.rl o.scope.toNat) none false with cont := k })
  | .phsw o => member o (mwMode (m o) == 3) ((act.cont o.dst).map fun k =>
      { Effect.queue s (act.setPair o.d (mwWith (m o) (mwSp (m o) + 1)))
          (fun g => .ph g (mwId (m o)) (.sigWait (mwSp (m o)) (mwSp (m o)) (k.getD ⟨0, 0, 0⟩) o.aq) o.rl o.scope.toNat) none false with cont := k })
  | .bind o => bound o false
  | .unbnd o => bound o true
  | _ => none

/-- COPY, GATH and SCAT (R239 to R241), the commands LNCH, DFLSH and COLL (R330, R348, R350), and FRZR with a continuation (R328). -/
def commandEffect (i : Instr) (s : State) (a : Nat) (act : Act) : Option Effect :=
  let on (pr : BitVec 2) (pn : Bool) (x : Option Effect) : Option Effect := if act.guard pr pn 0 then x else none
  let engine (o : OpM) (b : State) (act : Act) (k : EngKind) : Option Effect :=
    Effect.onSlot (.queue b act (fun g => .engine { org := g, kind := k, aq := o.aq, rl := o.rl, scope := o.scope.toNat }) (some o.scope.toNat) false) a .engine o.dst
  match i with
  | .copy o =>
    let ts : Ty := if o.n9.getLsbD 8 then Ty.ofCode (o.n9.setWidth 4) else .n8
    let n := (act.word o.c o.lit).toNat
    let end_ (loc : Bool) (x : Sel) : DWord := if loc then BitVec.ofNat 64 ((act.pair o.ty o.lit x).toNat % 2 ^ 19) else act.pair o.ty o.lit x
    let dst := end_ (o.n9.getLsbD 5) o.a
    let src := end_ (o.n9.getLsbD 6) o.b
    if n * (ts.bits / 8) ≤ 2 ^ 28 ∧ n * (o.ty.bits / 8) ≤ 2 ^ 28 ∧ dst.toNat % (o.ty.bits / 8) = 0 ∧ src.toNat % (ts.bits / 8) = 0 ∧
        (o.n9.getLsbD 5 = true → s.rangeCheck a act.ctx dst.toNat (n * (o.ty.bits / 8)) = none) ∧
        (o.n9.getLsbD 6 = true → s.rangeCheck a act.ctx src.toNat (n * (ts.bits / 8)) = none) then
      on o.pr o.pn (engine o (s.srAdvance a o.rm.toNat) act
        (.copy (o.n9.getLsbD 5) (o.n9.getLsbD 6) (o.n9.getLsbD 8) ts o.ty o.rm.toNat dst src n (s.elem a).rng))
    else none
  | .gath o =>
    let lanes := act.active o.ty o.pr o.pn
    let adr (k : Nat) : Nat := act.addr64 o.ty o.lit o.a o.b k (o.n9.toNat % 8)
    let pcs (d : Nat) : List Piece := lanes.flatMap fun k => elemPieces o.ty (adr k) (d + k * (o.ty.bits / 8)) 0 0
    if lanes ≠ [] ∧ ∀ k ∈ lanes, adr k % (o.ty.bits / 8) = 0 then
      match localDest s a act o.ty o.lit o.c fun d => (pcs d).map fun p => p.la with
      | .ok d => engine o s act (.gath d (pcs (d.getD 0)))
      | .error _ => none
    else none
  | .scat o =>
    let lanes := act.active o.ty o.pr o.pn
    let adr (k : Nat) : Nat := act.addr64 o.ty o.lit o.a o.b k (o.n9.toNat % 8)
    let st := storeLanes act o.ty o.rm.toNat (s.elem a).rng o.lit o.c lanes
    if lanes ≠ [] ∧ ∀ k ∈ lanes, adr k % (o.ty.bits / 8) = 0 then
      engine o ((s.srAdvance a o.rm.toNat).fpxIf a (act.raise st.2) true) (act.raise st.2) (.scat (st.1.map fun x => elemPieces o.ty (adr x.1) 0 0 x.2))
    else none
  | .lnch o =>
    let adr := (act.word o.a o.lit).toNat
    let x := (Memory.get (s.elem a).mem adr).toNat
    if x ≤ 3 ∧ adr % 64 = 0 ∧ s.rangeCheck a act.ctx adr (64 * (1 + x)) = none ∧ (s.elem a).ecc = [] then
      on o.pr o.pn (Effect.onSlot (.queue s act (fun g => .lnch g (o.ops.toNat % 16) (act.word o.b o.lit).toNat
        ((List.range (1 + x)).map fun k => Memory.read (s.elem a).mem (adr + 64 * k) 64)) none false) a .command o.dst)
    else none
  | .dflsh o => on o.pr o.pn (Effect.onSlot (.queue s act (fun g => .dflsh g (o.ops.toNat % 64) (o.ops.getLsbD 6)) (some 3) false) a .command o.dst)
  | .coll o =>
    let ty := Ty.ofCode (BitVec.ofNat 4 (o.ops.toNat % 16))
    let p (x : Sel) : Nat := (act.pair .n32 o.lit x).toNat
    if p o.a % 64 = 0 ∧ p o.b % (ty.bits / 8) = 0 ∧ p o.c % (ty.bits / 8) = 0 then
      let d : CollCmd := ⟨o.ops.toNat / 16 % 4, ty, o.ops.toNat / 64 % 8, o.ops.getLsbD 13, o.ops.getLsbD 12, p o.a, p o.b, p o.c, o.lit.toNat⟩
      on o.pr o.pn (Effect.onSlot (.queue s act (fun g => .coll g d (o.ops.toNat / 512 % 8)) (some (o.ops.toNat / 512 % 8)) false) a .command o.dst)
    else none
  | .frzr o =>
    let p := s.ownOf a act.ctx
    let go (g : Org) : State := ((s.ringPush 128 (s.faultRec g 0x8A)).askFrost p).modPart p fun x => { x with frz := x.frz ++ [g] }
    if o.dst.mode = 0 then none else on o.pr o.pn (Effect.onSlot { act := act, base := go } a .command o.dst)
  | _ => none

/-- The accesses of groups 4 and 6 to global memory (R237, R238, R242 to R244, R248). -/
def accessEffect (i : Instr) (s : State) (a : Nat) (act : Act) : Option Effect :=
  let on (pr : BitVec 2) (pn : Bool) (x : Option Effect) : Option Effect := if act.guard pr pn 0 then x else none
  let atom (o : OpS) (idx : Sel) (fetch : Bool) (cas : Option DWord) : Option Effect :=
    let adr := act.addr64 o.ty o.lit o.a idx 0 0
    if adr % (o.ty.bits / 8) = 0 then
      let op : AtomOp := ⟨o.fn.toNat, o.ty, act.operand o.ty o.lit o.c, if o.ty = .f32 then (act.src o.ty o.lit o.c 0).tail else 0, cas, fetch⟩
      let pcs := wordPieces adr (o.ty.bits / 8)
      on o.pr o.pn (Effect.onSlot (.access s act fun g => { org := g, kind := .atomic op, aq := o.aq, rl := o.rl, scope := o.scope.toNat, pcs := pcs }) a .global o.dst)
    else none
  let future (o : OpS) (k : Org → AccKind) (told : Bool) : Option Effect :=
    let adr := act.addr64 o.ty o.lit o.a o.b 0 0
    if adr % 8 = 0 then
      let told_ (g : Org) : Org := if told then g else { g with cont := none }
      on o.pr o.pn (Effect.onSlot (.access s act fun g => { org := told_ g, kind := k g, aq := o.aq, rl := o.rl, scope := o.scope.toNat, pcs := wordPieces adr 8 }) a .global o.dst)
    else none
  match i with
  | .ldg o =>
    let lanes := act.active o.ty o.pr o.pn
    let adr := act.addr64 o.ty o.lit o.a o.b 0 0
    let pcs (d : Nat) : List Piece := lanes.flatMap fun k => elemPieces o.ty adr d k 0
    if lanes ≠ [] ∧ adr % alignOf o.ty = 0 then
      match localDest s a act o.ty o.lit o.c fun d => (pcs d).map fun p => p.la with
      | .ok d => Effect.onSlot (.access s act fun g => { org := g, kind := .load d, aq := o.aq, rl := o.rl, scope := o.scope.toNat, pcs := pcs (d.getD 0) }) a .global o.dst
      | .error _ => none
    else none
  | .stg o =>
    let lanes := act.active o.ty o.pr o.pn
    let adr := act.addr64 o.ty o.lit o.a o.b 0 0
    let st := storeLanes act o.ty o.rm.toNat (s.elem a).rng o.lit o.c lanes
    if lanes ≠ [] ∧ adr % alignOf o.ty = 0 then
      Effect.onSlot (.access ((s.srAdvance a o.rm.toNat).fpxIf a (act.raise st.2) true) (act.raise st.2) fun g =>
        { org := g, kind := .store, rl := o.rl, scope := o.scope.toNat, pcs := st.1.flatMap fun x => elemPieces o.ty adr 0 x.1 x.2 }) a .global o.dst
    else none
  | .amo o => atom o o.b false none
  | .famo o => atom o o.b true none
  | .cas o => atom o .z true (some (act.operand o.ty o.lit o.b))
  | .futn o => future o (fun _ => .futn) true
  | .fres o => future o (fun _ => .fres (act.word o.c o.lit)) true
  | .freg o => future o (fun g => .freg (g.cont.getD ⟨0, 0, 0⟩)) false
  | .pref o =>
    let adr := act.addr64 o.ty o.lit o.a o.b 0 0
    let pcs : List Piece := (List.range (o.n9.toNat % 32 + 1)).map fun k => { va := (adr / 128 + k) * 128 }
    on o.pr o.pn (some (.access s act fun g => { org := g, kind := .pref (o.n9.getLsbD 8), pcs := pcs }))
  | .clean o => on o.pr o.pn (Effect.onSlot (.access s act fun g => { org := g, kind := .clean (act.addr64 o.ty o.lit o.a o.b 0 0) (act.word o.c o.lit).toNat }) a .global o.dst)
  | _ => none

/-- ALLOC and AQRY (R136, R140), WALK, SPLIT and WSTAT (R188, R189, R196), RSTAT (R352): each sends a message at once. The message of ALLOC and of AQRY waits in the send
queue behind an earlier storage message of its activation to the same owner (R135). -/
def unitEffect (i : Instr) (s : State) (c : Cur) (act : Act) : Option Effect :=
  let a := c.elem
  let on (pr : BitVec 2) (pn : Bool) (x : Option Effect) : Option Effect := if act.guard pr pn 0 then x else none
  let own := s.ownOf a act.ctx
  let here : Place := .clus (clusNo a)
  let storage (d : Nat) (m : Org → Msg) (x : Effect) : Effect :=
    if (s.elem a).sendq.any fun q => match s.storageMsg q.msg with | some (e, p) => e == d && p.aid == act.aid | none => false then
      { x with base := fun _ => s, own := fun g e => let e1 := x.own g e; { e1 with sendq := e1.sendq ++ [⟨g, m g, none, false, false⟩] } }
    else { x with base := fun g => s.post (.elem a) (.elem d) 0 0 own false (m g) }
  match i with
  | .alloc o =>
    let frame : Bool := o.n9.getLsbD 8
    let q : Nat := o.lit.toNat % 2 ^ 19 + (if o.b = .z then 0 else (act.word o.b o.lit).toNat)
    let pool := o.lit.toNat / 2 ^ 23 % 4
    let key := act.word o.c o.lit
    if 1 ≤ q ∧ q ≤ (if frame then 256 else 0x60000) then
      (s.absOf a act.ctx ((act.word o.a o.lit).toNat % 2 ^ 18)).bind fun d => on o.pr o.pn <| (act.cont o.dst).map fun k =>
        let hdr : FrameHdr := { tag := act.hdr.tag, fill := act.hdr.fill, widths := act.hdr.widths, nslot := q - 1, ctx := act.ctx }
        let req (g : Org) : AllocReq := ⟨g, d, none, false, act.ctx, pool, ((if frame then 64 + 16 * q else q) + 31) / 32, o.lit.toNat / 2 ^ 19 % 16, o.n9.toNat % 256,
          key, if frame then some hdr else none, none, 0⟩
        let told (g : Org) (e : Elem) : Elem :=
          let v : Nat := g.slot.getD 0
          let f (x : Act) : Act := x.setTemp o.d (lane0 (Lane.ofWord (BitVec.ofNat 32 v)))
          { e with seqs := setAt e.seqs c.seq ((nth e.seqs c.seq none).map f) }
        storage d (fun g => .alloc (req g)) { slot := some ⟨.alloc, d, act.ctx, pool, key⟩, cont := k, act := act, base := fun _ => s, own := told }
    else none
  | .aqry o =>
    let arg := act.word o.a o.lit
    (s.absOf a act.ctx (if o.n9 = 0 then hElem arg else arg.toNat % 2 ^ 18)).bind fun d => on o.pr o.pn <| (act.cont o.dst).map fun k =>
      storage d (fun g => .aqry g o.n9.toNat arg (o.lit.toNat % 4)) { slot := some ⟨.query, d, act.ctx, 0, 0⟩, cont := k, act := act, base := fun _ => s }
  | .walk o =>
    let adr := (act.word o.a o.lit).toNat
    let x := Memory.readN (s.elem a).mem adr 64
    let j : Nat := match s.regionOf a act.ctx with | some (_, j) => j | none => 8
    let r := LaunchRec.ofNat x
    let go (g : Org) : State := match s.freeUnit (clusNo a) act.ctx with
      | none => s.replyFrom here g 2
      | some u =>
        let s1 := s.armUnit (clusNo a) u r 0 r.space (elemIdx a)
        (match s1.regionOf a act.ctx with | some (p, j) => s1.addRecord p j r | none => s1).replyFrom here g (BitVec.ofNat 64 (256 * u))
    if adr % 64 = 0 ∧ s.rangeCheck a act.ctx adr 64 = none ∧ (s.elem a).ecc = [] ∧ recordFault x (fun k => k == act.ctx) j (s.head a act.ctx) (s.ctx a act.ctx) = none then
      on o.pr o.pn (Effect.onSlot { act := act, base := go } a .walker o.dst)
    else none
  | .split o =>
    let near : Bool := o.ops.getLsbD 3
    (if near then some a else s.absOf a act.ctx ((act.word o.a o.lit).toNat % 2 ^ 18)).bind fun d =>
      let j : Nat := match s.regionOf a act.ctx with | some (_, j) => j | none => 8
      on o.pr o.pn (Effect.onSlot
        { act := act, base := fun g => s.post (.elem a) here 0 0 own true (.splitReq g d (o.ops.toNat % 8) near act.ctx j s.cycle) } a .walker o.dst)
  | .wstat o =>
    (s.absOf a act.ctx ((act.word o.a o.lit).toNat % 2 ^ 18)).bind fun d =>
      on o.pr o.pn (Effect.onSlot { act := act, base := fun g => s.post here (.clus (clusNo d)) 3 0 own false (.wstat g (o.ops.toNat % 8)) } a .walker o.dst)
  | .rstat o =>
    let kind := o.ops.toNat % 4
    let k := o.ops.toNat / 4 % 64
    if kind = 2 ∧ (s.ctx a act.ctx).service = false then none
    else on o.pr o.pn (Effect.onSlot
      { act := act, base := fun g => s.replyFrom (.disp (dieFor a)) g (BitVec.ofNat 64 (s.fabricStatus (dieFor a) own kind k)) } a .command o.dst)
  | _ => none

/-- The message of an array instruction to the controller of its cluster (R176). -/
def arrayMsg (i : Instr) (act : Act) : Option (OpY × ArrOp) :=
  match i with
  | .mcfg o => some (o, .mcfg (o.lit.toNat / 2 ^ 16 % 16) o.ka.toNat o.kb.toNat (16 * o.nq.toNat) (32 * 2 ^ o.ms.toNat) o.af o.wf o.f)
  | .mbindOp o => some (o, .mbind (act.word o.a o.lit) (act.word o.b o.lit))
  | .mfreeOp o => some (o, .mfreeOp)
  | .mfreeCfg o => some (o, .mfreeCfg)
  | .mdrn o => some (o, .mdrn (o.ka.toNat % 8) (o.kb.getLsbD 0))
  | .mstat o => some (o, .mstat)
  | .scsnd o => some (o, .scsnd (act.word o.a o.lit))
  | .scpr o => some (o, .scpr o.ka.toNat)
  | .zskp o => some (o, .zskp o.ka.toNat)
  | _ => none

/-- An array instruction on the buses, with a request slot where it names a completion destination (R176), and MWLD's flits, one per 32 bytes: the first leaves at once,
the others follow one in a cycle, and the slot is held for as many cycles (R179). -/
def arrayEffect (i : Instr) (s : State) (a : Nat) (act : Act) : Option Effect :=
  let own := s.ownOf a act.ctx
  match i with
  | .mwld o =>
    let src := (act.word o.a o.lit).toNat
    let n := (act.word o.b o.lit).toNat
    let flit (g : Org) (j : Nat) : Msg :=
      .mwld g o.ka.toNat o.kb.toNat (o.lit.toNat % 2 ^ 17 + 32 * j) (Memory.read (s.elem a).mem (src + 32 * j) 32) (j + 1 == n / 32) (o.lit.getLsbD 31)
    let rest (g : Org) : List Msg := (List.range (n / 32 - 1)).map fun j => flit g (j + 1)
    if n % 32 = 0 ∧ 32 ≤ n ∧ n ≤ 0x20000 ∧ src % 32 = 0 ∧ s.rangeCheck a act.ctx src n = none ∧ (s.elem a).ecc = [] then
      some { act := { act with hold := n / 32 }, base := fun g => s.post (.elem a) (.clus (clusNo a)) 0 0 own true (flit g 0),
             own := fun g e => { e with sending := if n = 32 then e.sending else e.sending ++ [{ aid := act.aid, flits := rest g }] } }
    else none
  | _ => (arrayMsg i act).bind fun (o, op) =>
    let x : Effect := { act := act, base := fun g => s.post (.elem a) (.clus (clusNo a)) 3 0 own true (.arr g op) }
    if o.cdst.mode = 0 then some x else x.onSlot a .array o.cdst

/-- The markers FENCE, ACQ, REL and INVAL on an empty memory queue, where their turn comes at once: no store of the activation is on its way to the host, for a release
part at system scope, and no BIND of the element on its way to the phaser, for ACQ. An acquire part drops lines of the issuer's cluster read cache (R225, R242, R245).
INVAL without a continuation. -/
def markEffect (i : Instr) (s : State) (a : Nat) (act : Act) : Option Effect :=
  let on (pr : BitVec 2) (pn : Bool) (x : Effect) : Option Effect := if act.guard pr pn 0 then some x else none
  let c := clusNo a
  let ts := s.tslotOf c act.ctx
  let id (o : OpS) : Nat := (act.word o.a o.lit).toNat % 2 ^ 26
  match i with
  | .fence o =>
    if o.rl = true ∧ o.scope = 4 ∧ s.hostPending (act.org a (s.elem a).seqNext) = true then none
    else on o.pr o.pn { act := act, base := fun _ => if (o.aq = true ∨ o.rl = false) ∧ o.scope ≠ 0 then s.rcDrop c ts (fun _ => true) else s }
  | .acq o => (s.phaserAt a act.ctx (id o)).bind fun (pc, n) =>
      let regs := s.boundOf pc (s.tslotOf pc act.ctx) n
      if s.bindAhead a (s.elem a).seqNext pc then none
      else on o.pr o.pn { act := act, base := fun _ => s.rcDrop c ts fun l => regs.any fun r => r.1 ≤ l && l < r.1 + r.2 }
  | .rel o => (s.phaserAt a act.ctx (id o)).bind fun _ =>
      if o.scope = 4 ∧ s.hostPending (act.org a (s.elem a).seqNext) = true then none else on o.pr o.pn { act := act, base := fun _ => s }
  | .inval o =>
    let va := act.addr64 o.ty o.lit o.a o.b 0 0
    let len := (act.word o.c o.lit).toNat
    if o.dst.mode = 0 then on o.pr o.pn { act := act, base := fun _ => if len = 0 then s else s.rcDrop c ts fun l => va / 128 ≤ l && l ≤ (va + len - 1) / 128 }
    else none
  | _ => none

/-- LDC and STC outside an ordered section on an empty memory queue: the access leaves on the buses at once (R154, R187). -/
def clusterEffect (i : Instr) (s : State) (a : Nat) (act : Act) : Option Effect :=
  let own := s.ownOf a act.ctx
  let target (adr : Nat) : Nat := idOfClus (clusNo a) (adr / 2 ^ 19)
  let go (b : State) (act : Act) (o : OpM) (t : Nat) (k : AccKind) (x : ClusAcc) : Option Effect :=
    (act.cont o.dst).map fun r =>
      { slot := some { kind := .cluster, target := t }, cont := r, act := act, base := fun g => b.post (.elem a) (.elem t) 0 0 own true (.clusAcc g x),
        own := fun g e => { e with memq := [{ org := g, kind := k, pcs := x.pcs, out := true }] } }
  match i with
  | .ldc o =>
    let adr := act.addr32 o
    let d := (act.word o.c o.lit).toNat
    let lanes := act.active o.ty o.pr o.pn
    let ps := lanes.flatMap fun k => elemPieces o.ty (adr % 2 ^ 19) d k 0
    if lanes ≠ [] ∧ clusCheck adr (ps.map fun p => p.va) = none ∧ adr % alignOf o.ty = 0 ∧ d % alignOf o.ty = 0 ∧ s.localCheck a act.ctx (ps.map fun p => p.la) = none then
      go s act o (target adr) (.ldc (target adr) d) ⟨target adr, false, ps, d⟩
    else none
  | .stc o =>
    let adr := act.addr32 o
    let lanes := act.active o.ty o.pr o.pn
    let st := storeLanes act o.ty o.rm.toNat (s.elem a).rng o.lit o.c lanes
    let ps := st.1.flatMap fun x => elemPieces o.ty 0 (adr % 2 ^ 19) x.1 x.2
    if lanes ≠ [] ∧ clusCheck adr (ps.map fun p => p.la) = none ∧ adr % alignOf o.ty = 0 then
      go ((s.srAdvance a o.rm.toNat).fpxIf a (act.raise st.2) true) (act.raise st.2) o (target adr) (.stc (target adr)) ⟨target adr, true, ps, 0⟩
    else none
  | _ => none

/-- The word `i` completes with its activation at its next word as `act'`, its element as `own` makes it, and everything else as in `base`. -/
def Leaves (i : Instr) (s : State) (c : Cur) (act : Act) (x : Effect) : Prop :=
  let e := x.own (act.org c.elem 0) ((x.base (act.org c.elem 0)).elem c.elem)
  ∃ t, exec i s = .next t ∧ OnlyElem (x.base (act.org c.elem 0)) t c.elem { e with seqs := setAt e.seqs c.seq (some { x.act with pc := act.pc + 1 }) }

/-- Words of groups 3 and 5 to 7 that take their effect in their own element at once, or leave it there for the next cycle (`Elem.late`): MASK and UNMSK (R147); MODE, MBIND w and MFREE w (R177, R180, R182); OSEC
and OEND (R231, R247); NOP, BRK, TIME, RTIME, CSRW, RSEED, PERF, ERRI, METR, CSRR and FRZR without a continuation (R319 to R328). -/
def localEffect (i : Instr) (s : State) (a : Nat) (act : Act) : Option Effect :=
  let on (pr : BitVec 2) (pn : Bool) (x : Effect) : Option Effect := if act.guard pr pn 0 then some x else none
  let e := s.elem a
  let p := s.ownOf a act.ctx
  let later (l : Late) : Effect := { act := act, base := fun _ => s, own := fun _ e => { e with late := e.late ++ [l] } }
  let reads (o : OpX) (v : Nat) : Option Effect := on o.pr o.pn { act := act.setTemp o.d (lanePair (BitVec.ofNat 64 v) false false), base := fun _ => s }
  let v (o : OpX) : DWord := act.pair .n32 o.lit o.a
  match i with
  | .mask o => on o.pr o.pn (later (.mask act.ctx ((act.word o.a o.lit).setWidth 16) true))
  | .unmsk o => on o.pr o.pn (later (.mask act.ctx ((act.word o.a o.lit).setWidth 16) false))
  | .mode o =>
    if o.ka = 1 ∨ s.arrayOf (clusNo a) (elemIdx a) = none then
      some { act := act, base := fun _ => s, own := fun _ e => { e with sysMode := o.ka == 1 } }
    else none
  | .mbindW o =>
    let h := act.word o.a o.lit
    match s.handleAt a act.ctx h with
    | some (d, y) =>
      if (s.arrayOf (clusNo a) (elemIdx a)).isSome ∧ d = a ∧ y.size ≤ 4096 ∧ e.wbuf = none then
        some { act := act, base := fun _ => s.tagTouched a, own := fun _ e => { e with wbuf := some h, wdirty := false } }
      else none
    | none => none
  | .mfreeW _ =>
    let firing : Bool := match s.arrayOf (clusNo a) (elemIdx a) with | some (_, x) => x.fir | none => false
    some { act := act, base := fun _ => s, own := fun _ e => if firing && e.wbuf.isSome then { e with wdrop := true } else { e with wbuf := none } }
  | .osec o =>
    let n := o.k8.toNat
    let key : Word := act.hdr.tag.setWidth 32
    let opened := match s.regionOf a act.ctx with | some (p, j) => s.openSects p j act.ctx n | none => []
    if e.inSection act.fh ∨ (e.sects.any fun x => x.fh == act.fh && x.num == n && x.wait) ∨ key < s.cursorOf a act.ctx n ∨ (opened.any fun x => x.key == key) then none
    else
      let x : Sect := { num := n, ctx := act.ctx, fh := act.fh, key := key, node := act.node, ins := act.ins, from_ := e.seqNext }
      some { act := act, base := fun _ => s, own := fun _ e => { e with sects := e.sects ++ [x] } }
  | .oend _ => (e.sects.find? fun x => x.fh == act.fh && !x.closed && !x.wait).map fun x =>
      { act := act, base := fun _ => s, own := fun _ e => e.setSect { x with closed := true } }
  | .nop _ => some { act := act, base := fun _ => s }
  | .brk o =>
    if e.brkEn then on o.pr o.pn { act := { act with held := true }, base := fun g => (s.ringPush 128 (s.faultRec g 0x27)).askFrost p }
    else some { act := act, base := fun _ => s }
  | .time o => reads o ((s.part p).guest / 7)
  | .rtime o => reads o ((s.part p).run / 7)
  | .perf o =>
    if o.fn = 7 then on o.pr o.pn { act := act.setTemp o.d (lanePair (((s.stalled a p).elem a).perfOf p 7) false false), base := fun _ => s.stalled a p }
    else reads o (if o.fn = 0 then s.cyclesOf p % 2 ^ 64 else (e.perfOf p o.fn.toNat).toNat)
  | .metr o => on o.pr o.pn { act := act.setTemp o.d (lanePair (BitVec.ofNat 64 (((s.sample p).part p).counter o.fn.toNat)) false false), base := fun _ => s.sample p }
  | .csrr o =>
    if o.csr = 0x108 then
      (if (s.ctx a act.ctx).service then
        on o.pr o.pn { act := act.setTemp o.d (lanePair (BitVec.ofNat 64 (s.csr a act 0x108)) false false), base := fun _ => s, own := fun _ e => { e with errlog := e.errlog.drop 1 } }
      else none)
    else reads o (s.csr a act o.csr.toNat)
  | .csrw o =>
    let bus (l : Late) : Option Effect :=
      if (s.arrayOf (clusNo a) (elemIdx a)).isSome then none else on o.pr o.pn (if (v o).setWidth 8 = 0xFF#8 then { act := act, base := fun _ => s } else later l)
    if o.csr = 0x101 then on o.pr o.pn (later (.bypl act.ctx ((v o).toNat % 16)))
    else if o.csr = 0x102 then on o.pr o.pn (later (.idleCycles ((v o).setWidth 16)))
    else if o.csr = 0x110 then bus (.busRow ((v o).setWidth 8))
    else if o.csr = 0x111 then bus (.busCol ((v o).setWidth 8))
    else if o.csr = 0x120 ∧ (s.ctx a act.ctx).service = true then on o.pr o.pn (later (.brkEn ((v o).getLsbD 0)))
    else none
  | .erri o => on o.pr o.pn { act := act, base := fun g => s.ringPush (s.ringFn a act.ctx) (s.faultRec { g with tag := 0, fh := 0 } 0x88 + (v o).toNat) }
  | .rseed o => on o.pr o.pn { act := act, base := fun _ => s, own := fun _ e => { e with rng := if act.word o.a o.lit = 0 then 1 else act.word o.a o.lit } }
  | .frzr o => if o.dst.mode = 0 then on o.pr o.pn { act := act, base := fun g => (s.ringPush 128 (s.faultRec g 0x8A)).askFrost p } else none
  | _ => none

/-- Element `j` of an access of type `t` at address `a`, by the table of R141. -/
def placed (m : List Host.Cell) (t : Ty) (a j : Nat) : Nat :=
  match t with
  | .w4 => (Memory.get m (a + j / 2)).toNat / 16 ^ (j % 2) % 16
  | .w3 => Memory.readN m (a + 4 * (j / 10)) 4 / 8 ^ (j % 10) % 8
  | _ => Memory.readN m (a + t.bits / 8 * j) (t.bits / 8)

/-- The synchronous fault that turns a word away (R56). -/
def faultOf (i : Instr) (s : State) (a : Nat) (act : Act) : Option Nat :=
  let on (pr : BitVec 2) (pn : Bool) (c : Nat) : Option Nat := if act.guard pr pn 0 then some c else none
  let lanes (o : OpM) : List Nat := act.active o.ty o.pr o.pn
  let section_ (pr : BitVec 2) (pn : Bool) : Option Nat := if (s.elem a).inSection act.fh then on pr pn 0x5E else none
  let inSect : Bool := (s.elem a).inSection act.fh
  let perLane (o : OpM) (bad : Prop) [Decidable bad] (code : Nat) : Option Nat :=
    if lanes o = [] then none else if inSect then some 0x5E else if bad then some code else none
  let once (pr : BitVec 2) (pn : Bool) (bad : Prop) [Decidable bad] (code : Nat) : Option Nat :=
    if act.guard pr pn 0 = false then none else if inSect then some 0x5E else if bad then some code else none
  match i with
  | .trap o => on o.pr o.pn 0x26
  | .ldl o | .stl o => if lanes o ≠ [] ∧ act.addr32 o % alignOf o.ty ≠ 0 then some 0x3C else none
  | .ldg o | .stg o => perLane o (act.addr64 o.ty o.lit o.a o.b 0 0 % alignOf o.ty ≠ 0) 0x61
  | .gath o | .scat o => perLane o (∃ k ∈ lanes o, act.addr64 o.ty o.lit o.a o.b k (o.n9.toNat % 8) % (o.ty.bits / 8) ≠ 0) 0x61
  | .amo o | .famo o => once o.pr o.pn (act.addr64 o.ty o.lit o.a o.b 0 0 % (o.ty.bits / 8) ≠ 0) 0x61
  | .cas o => once o.pr o.pn (act.addr64 o.ty o.lit o.a .z 0 0 % (o.ty.bits / 8) ≠ 0) 0x61
  | .futn o | .fres o | .freg o => once o.pr o.pn (act.addr64 o.ty o.lit o.a o.b 0 0 % 8 ≠ 0) 0x5D
  | .walk o => once o.pr o.pn ((act.word o.a o.lit).toNat % 64 ≠ 0) 0x3C
  | .kick o | .disp o | .lnch o | .coll o | .split o => section_ o.pr o.pn
  | .fence o | .acq o | .rel o | .phreg o | .phdrp o | .phsig o | .phwt o | .phsw o | .bind o | .unbnd o => section_ o.pr o.pn
  | .alloc o | .aqry o | .free o | .hold o | .tful o | .copy o | .pref o | .clean o | .inval o => section_ o.pr o.pn
  | .osec _ => if (s.elem a).inSection act.fh then some 0x5F else none
  | .oend _ => if (s.elem a).inSection act.fh then none else some 0x5F
  | .send o => if isNull (act.word o.a o.lit) then on o.pr o.pn 0x24 else none
  | .sendc o => if isNull (act.word o.a o.lit) then on o.pr o.pn 0x24 else none
  | .csrr o => if o.csr = 0x108 ∧ (s.ctx a act.ctx).service = false then on o.pr o.pn 0x28 else none
  | .csrw o => if o.csr = 0x120 ∧ (s.ctx a act.ctx).service = false then on o.pr o.pn 0x28 else none
  | _ => none

/-- The kind index and the operands of a head (R33, R50). -/
def headOp (i : Instr) : Option (Nat × OpN) :=
  match i with
  | .seq o => some (0, o) | .steer o => some (1, o) | .merge o => some (2, o) | .gate o => some (3, o) | .loop o => some (4, o) | .next o => some (5, o)
  | .exit o => some (6, o) | .call o => some (7, o) | .retn o => some (8, o) | .join o => some (9, o) | .sink o => some (10, o) | .const o => some (11, o)
  | .prune o => some (12, o)
  | _ => none

/-- The state in which the chosen node `r` of element `a` has started (R47, R122, R326): the latched slots are empty, its entry has left its list, which is threaded
anew, the start is counted, and the node is ready again where its condition still holds. -/
def started (s : State) (a : Nat) (r : ReadyEntry) (y : HEntry) (kind : Nat) (o : OpN) : State :=
  let e := clearSlots (s.elem a) y (latched (s.elem a) y kind o)
  let g := ((s.elem a).readHdr y).ctx
  let e1 : Elem := { e with
    ready := e.ready.filter fun x => !(x.fh == r.fh && x.node == r.node)
    startCount := (e.startCount + 1) % 64
    startNext := s.cycle + 1
    lastBusy := s.cycle
    aidNext := e.aidNext + 1 }
  (((s.setElem a (e1.count (s.ownOf a g) 1 1)).relink a r.ch).noteReady a r.fh r.node r.ch).progress a g

/-- What the chosen node starts with (R47, R48). -/
def startOf (s : State) (a : Nat) (r : ReadyEntry) (y : HEntry) (kind : Nat) (o : OpN) : Start :=
  let e := s.elem a
  ⟨a, r, y, e.readHdr y, o, kind, (latched e y kind o).map fun j => slotIn (e.slot y j), e.aidNext⟩

/-- The tokens of a control node and their destinations, by the tables of R50 and R81; none where R82 names a fault. -/
def headSends (i : Instr) (x : Start) : Option (List (Dst × Token)) :=
  let ok (l : List (Dst × Token)) : Option (List (Dst × Token)) := if (x.o.dsta.mode = 2 ∨ x.o.dstb.mode = 2) ∧ isNull x.h.parent = true then none else some l
  let popped (f : FrameHdr → List (Dst × Token)) : Option (List (Dst × Token)) :=
    match x.h.widths with
    | w :: _ => if w = x.o.lit.toNat ∧ isNull x.h.parent = false then some (f { x.h with tag := x.h.tag >>> w, fill := x.h.fill - w }) else none
    | [] => none
  match i with
  | .steer o => ok [(if ((nth x.ins 1 {}).payload.toNat % 2 ^ 32 ≠ 0) ↔ o.kf.getLsbD 0 = false then o.dsta else o.dstb, x.tok 0)]
  | .merge o | .gate o | .join o | .prune o => ok [(o.dsta, x.tok 0)]
  | .const o => ok [(o.dsta, { x.tok 0 with payload := o.lit.setWidth 64, tail := 0, col := 0 }), (o.dstb, { x.tok 0 with payload := o.lit.setWidth 64, tail := 0, col := 0 })]
  | .exit o => popped fun h => [(o.dsta, { x.tok 0 with tag := h.tag, fill := h.fill })]
  | .retn _ => if x.h.ret.mode = 0 then none else popped fun h => [({ x.h.ret with mode := 2 }, { x.tok 0 with tag := h.tag, fill := h.fill })]
  | _ => none

/-- The header of the frame that LOOP, NEXT and CALL ask for, by R41 and R50; none where R82 names a fault. -/
def newHeader (i : Instr) (x : Start) : Option FrameHdr :=
  let w : Nat := x.o.lit.toNat
  let pushed : Option FrameHdr :=
    if x.h.fill + w ≤ 64 ∧ x.h.widths.length ≠ 16 then some { x.h with tag := x.h.tag <<< w, fill := x.h.fill + w, widths := w :: x.h.widths, parent := x.r.fh } else none
  match i with
  | .loop _ => pushed
  | .call o => pushed.map fun h => { h with ret := { o.dstb with mode := 2 } }
  | .next _ => match x.h.widths with
    | k :: _ => if k = w ∧ x.h.tag.toNat % 2 ^ w ≠ 2 ^ w - 1 then some { x.h with tag := x.h.tag + 1 } else none
    | [] => none
  | _ => none

/-- The event `i` comes about at `s`, leaves `t`, and `t` is as `p` says. -/
def Gives (i : Instr) (s : State) (p : State → Prop) : Prop := ∃ t, exec i s = .next t ∧ p t

/-- Message `n` has arrived at `a` with content `m` for partition `p`, may be taken, and does not overtake a storage message of its activation (R135, R199). -/
def Arrives (s : State) (n : Nat) (dst : Place) (m : Msg) (p : Nat) : Prop :=
  ∃ x, s.arrived n = some x ∧ x.dst = dst ∧ x.msg = m ∧ x.own = p ∧ (s.dropFlight n).inOrder x = true

/-- The mask of a write of ranges of bytes, each a first byte and a length. -/
def writes (l : List (Nat × Nat)) (b : Nat) : Byte := if ∃ r ∈ l, r.1 ≤ b ∧ b < r.1 + r.2 then 0xFF else 0

/-- The lists that an allocator visits, in order (R128). -/
def visitOrder (e : Elem) : List Nat :=
  let busy := (e.lists.rows.filter fun r => !r.2.isEmpty).map fun r => r.1
  (busy.filter fun l => e.lastList < l) ++ busy.filter fun l => l ≤ e.lastList

/-- What the allocator of element `a` serves first from list `l` (R128): its head in the ordinary part of its pool, else, where the head's key is at or below the horizon, in
the reserve, else, while the head's bypass count is below the limit, the first of the window's entries after it that fits the ordinary part. The answer gives the place in the list, the
request, its first granule and whether the reserve serves it. -/
def served (s : State) (a l : Nat) : Option (Nat × AllocReq × Nat × Bool) :=
  match (s.elem a).lists.get [] l with
  | [] => none
  | h :: t =>
    let window := t.take (min 5 ((s.elem a).win.get 0 l) - 1)
    match s.fits a h false, if s.keyAtHorizon a h.ctx h.key then s.fits a h true else none with
    | some g, _ => some (0, h, g, false)
    | none, some g => some (0, h, g, true)
    | none, none =>
      if h.bypass < (s.ctx a h.ctx).bypl then window.zipIdx.findSome? fun r => (s.fits a r.1 false).map fun g => (r.2 + 1, r.1, g, false) else none

/-- A phaser after its completion check passes (R168, R169). -/
def Phaser.advanced (x : Phaser) : Phaser := { x with phase := x.phase + 1, exp := x.exp + x.adj, adj := 0, arr := x.arrn, arrn := 0, hv := false, head := 0, acq := [] }

/-- The flights of `t` are those of `s` and then one with destination `d` and content `m`. -/
def Sends1 (s t : State) (d : Place) (m : Msg) : Prop := ∃ f, t.net = s.net ++ [f] ∧ f.dst = d ∧ f.msg = m

/-- Access `y` is all that element `a` has in its memory queue, has the translations `xl`, and no storage error is injected. -/
def Sole (s : State) (a : Nat) (y : Acc) (xl : List Leaf) : Prop := (s.elem a).memq = [y] ∧ y.joined = [] ∧ s.translated a y = .ok xl ∧ s.dev.inject = []

/-- The access may go on and has no request under way. -/
def Going (s : State) (a : Nat) (y : Acc) : Prop := s.accGo a y = true ∧ s.reqFlit a y = none

/-- Flight `n` is the access's request, which a home slice takes next. -/
def AtHome (s : State) (a : Nat) (y : Acc) (n : Nat) : Prop := s.reqFlit a y = some n ∧ s.landed n = true

/-- Every piece of an access lies in one line that it has not performed, on a page of module memory whose leaf is `l`. -/
def OneLine (y : Acc) (xl : List Leaf) (line : Nat) (l : Leaf) : Prop :=
  y.pcs ≠ [] ∧ y.done = [] ∧ (∀ q ∈ y.pcs, q.va / 128 = line) ∧ l = State.leafOf xl (nth y.pcs 0 { va := 0 }).va ∧ l.tier ≠ 2 ∧ l.va ≤ 128 * line

/-- The memory that a leaf maps: the host's, with the stores that its link has accepted, or the module's. -/
def State.bytesOf (s : State) (l : Leaf) : List Host.Cell := if l.tier = 2 then s.hostNow else s.phys

/-- The state with other bytes in the memory that a leaf maps. -/
def State.withBytes (s : State) (l : Leaf) (m : List Host.Cell) : State := if l.tier = 2 then { s with host := m } else { s with phys := m }

/-- n bytes of slot p at `va` lie in one page, under leaf `l`, and can be read, and no memory error is injected. -/
def ReadsAt (s : State) (p va n : Nat) (l : Leaf) : Prop :=
  s.xlate p va = .ok l ∧ va % 2 ^ 16 + n ≤ 2 ^ 16 ∧ s.poison = [] ∧ s.dev.inject = [] ∧ (l.tier = 2 → s.hostFails (State.leafAddr l va) n = false)

/-- The bytes can be written for slot p at `va`: in one page, under leaf `l` all the while they are being written, with no store on its way to the host, and no memory error is injected. -/
def WritesAt (s : State) (p va : Nat) (bs : List Byte) (l : Leaf) : Prop :=
  s.memWf = true ∧ l.nw = false ∧ l.va ≤ va ∧ va % 2 ^ 16 + bs.length ≤ 2 ^ 16 ∧ s.poison = [] ∧ s.dev.inject = [] ∧ s.hostq = [] ∧
  (l.tier = 2 → s.hostFails (State.leafAddr l va) bs.length = false) ∧
  ∀ k < bs.length, (s.withBytes l (Memory.write (s.bytesOf l) (State.leafAddr l va) (bs.take k))).xlate p (va + k) = .ok l

/-- The bytes that a write at `va` under leaf `l` puts leave the `n` bytes at `a` under leaf `r` as they are, and readable there, all the while (R265). -/
def Apart (s : State) (p va : Nat) (bs : List Byte) (l : Leaf) (a n : Nat) (r : Leaf) : Prop :=
  ((l.tier = 2 ↔ r.tier = 2) → State.leafAddr l va + bs.length ≤ State.leafAddr r a ∨ State.leafAddr r a + n ≤ State.leafAddr l va) ∧ r.va ≤ a ∧
  ∀ k < bs.length, (s.withBytes l (Memory.write (s.bytesOf l) (State.leafAddr l va) (bs.take k))).xlate p (a + k) = .ok r

/-- From `s` to `t` the bytes at `a` of a leaf's memory become `bs`, and no other byte of module or host memory changes. -/
def Wrote (s t : State) (l : Leaf) (a : Nat) (bs : List Byte) : Prop :=
  Memory.read (t.bytesOf l) a bs.length = bs ∧ (∀ b, (b < a ∨ a + bs.length ≤ b) → Memory.get (t.bytesOf l) b = Memory.get (s.bytesOf l) b) ∧
  (if l.tier = 2 then t.phys = s.phys else t.host = s.host) ∧ t.hostq = s.hostq

/-- Packet `pid`, which was `x`, has done its own work, with a fault's code or none. -/
def Ended (t : State) (pid : Nat) (x : Pkt) (code : Option Nat) : Prop := t.pkts.find? pid = some { x with done := true, fault := code, detail := 0 }

/-- What a start decision of a core for queue q of function f notes before the packet starts (R277): the core's turn, and that no queue was passed over. -/
def State.decided (s : State) (core f : Nat) : State :=
  let c := nth s.cores core {}
  { s.modFn f fun x => { x with queues := x.queues.mapVals fun _ y => { y with passed := 0 } } with
    cores := setAt s.cores core { fn := f, credit := if f = c.fn ∧ 0 < c.credit then c.credit - 1 else Config.startWeight f % 255 } }

/-- Partition p has been reset (R290 step 5, R306): its regions, packets and flights are gone, its own elements are empty, and its status says so. -/
def ResetOf (s t : State) (p : Nat) : Prop :=
  (∀ j < 8, t.region p j = {}) ∧ (∀ r ∈ t.pkts.rows, r.2.slot ≠ p) ∧ (∀ f ∈ t.net, f.own ≠ p) ∧ (t.fn p).vuesta.getLsbD 0 = true ∧
  ∀ a, s.inRect p (clusNo a) = true → s.shared (clusNo a) = false → (t.elem a).mem = [] ∧ (t.elem a).ready = [] ∧ (t.elem a).memq = [] ∧ ∀ k, nth (t.elem a).seqs k none = none

/-- The device runs the admin command of a code for slot p, with the words `w`, in a mode that serves it. -/
def Asked (s : State) (code p : Nat) (w : List Nat) : Prop :=
  s.dev.admin.busy = true ∧ s.dev.admin.run.map BitVec.toNat = w ∧ nth w 0 0 = code + 256 * p ∧ p < 128 ∧ (s.dev.mode = .service ∨ s.dev.mode = .seedling)

/-- The admin command has ended with a result. -/
def Answered (t : State) (result : Nat) : Prop := t.dev.admin.busy = false ∧ t.dev.admin.run = [] ∧ t.dev.admin.result = result

/-- The words of group 1 that admit the integer types alone, with their opcodes (R86, R88 to R90). -/
def intWord (i : Instr) : Option (Nat × OpA) :=
  match i with
  | .div o => some (0x24, o) | .rem o => some (0x25, o)
  | .and o => some (0x28, o) | .or o => some (0x29, o) | .xor o => some (0x2A, o) | .andn o => some (0x2B, o)
  | .shl o => some (0x2C, o) | .shr o => some (0x2D, o) | .sar o => some (0x2E, o) | .rot o => some (0x2F, o)
  | .clz o => some (0x30, o) | .popc o => some (0x31, o)
  | _ => none

/-- The state of an element's next turn: the clock of `s` has advanced to the turn that leaves the agenda. -/
def State.atTurn (s : State) (dt : Nat) (rest : List Turn) : State := { s with agenda := rest }.watch.tick dt

end Sys2Proof.Machine

open Sys2Proof Sys2Proof.Machine

/-- Every word of groups 1 and 2 but VRND completes on every running activation, whatever its operands, and changes that activation alone: of its
temporaries only the destination (VTRN: all eight), with the note of the lanes that were written (log 4), of its predicates only the destination of CMP, PLOG and VCMP,
XS, W for COLR alone, and the word number (R29, R78, R83, R101, R113). -/
def Obligations.PureWordsComplete : Prop :=
  ∀ (i : Instr) (o : OpA) (s : State) (c : Cur) (act : Act), pureWord i = some o → Runs s c act →
    ∃ t act', exec i s = .next t ∧ OnlyAct s t c act' ∧
      act' = { act with temps := act'.temps, wrote := act'.wrote, preds := act'.preds, xs := act'.xs, width := act'.width } ∧ act.wrote <+: act'.wrote ∧
      (∀ r : Fin 8, o.d ≠ .t r ∨ writesPred i = true → (∀ x, i ≠ .vtrn x) → nth act'.temps r.val [] = nth act.temps r.val []) ∧
      (∀ p, p ≤ 3 → writesPred i = false ∨ p ≠ o.d.code → act'.pred p = act.pred p) ∧
      ((∀ x, i ≠ .colr x) → act'.width = act.width) ∧
      (act.xs = true → act'.xs = true)

/-- Integer words of group 1 with a true guard write their exact result wrapped to the type and extended to the lane's 32 bits, or to the pair's 64, with zero tails and every
other lane zero; DIV and REM by zero give all ones and the dividend, and set XS, which they do with D = z as well, where nothing else changes (R57, R64, R83, R85, R86, R88, R89, R90,
R98). DIV, REM, the logic words, the shifts, CLZ and POPC have the opcodes of their entries and admit the integer types alone. -/
def Obligations.ScalarIntegers : Prop :=
  (∀ (i : Instr) (o : OpA) (y : Int) (z : Bool) (k : Fin 8) (s : State) (c : Cur) (act : Act),
    intResult i act = some (o, y, z) → o.ty.code < 8 → o.d = .t k → act.guard o.pr o.pn 0 = true → Runs s c act →
    ScalarGives i o k s c act z (WrapsTo o.ty y)) ∧
  (∀ (i : Instr) (o : OpA) (y : Int) (z : Bool) (s : State) (c : Cur) (act : Act),
    intResult i act = some (o, y, z) → o.ty.code < 8 → o.d = .z → act.guard o.pr o.pn 0 = true → Runs s c act →
    ∃ t, exec i s = .next t ∧ OnlyAct s t c { act with xs := act.xs || z }) ∧
  ∀ (i : Instr) (o : OpA) (n : Nat), intWord i = some (n, o) → i.wellFormed = true → o.ty.code < 8 ∧ ∃ w, encode i = some w ∧ (fld w 88 8).toNat = n

/-- MOV, LIT, SEL, MIN and MAX write the lane of the source they select, or its lane pair for 64-bit types, container and tail unchanged (a pair's tail is lane 0's, R57),
and zero every other lane; LITH writes lane 0 of A and the literal. None of them raises (R71, R83, R87, R93, R96, R97). That integer MIN and MAX order by value and then tail
is the model's reading (log 25, DEDUCED): R64 and R71 say so, R87 names the values alone. MOV and SEL have the opcodes of their
entries and admit every type, and SEL's predicate is one of four. -/
def Obligations.ScalarMoves : Prop :=
  (∀ (i : Instr) (o : OpA) (k : Fin 8) (s : State) (c : Cur) (act : Act), o.d = .t k → act.guard o.pr o.pn 0 = true → Runs s c act →
    (∀ x, copiedFrom i act = some (o, x) → ∃ t act', exec i s = .next t ∧ OnlyAct s t c act' ∧ act' = { act with temps := act'.temps, wrote := act'.wrote } ∧
      act'.temp k.val 0 = act.src o.ty o.lit x 0 ∧ act'.temp k.val 1 = (if o.ty.is64 then Lane.ofWord (act.src o.ty o.lit x 1).v else Lane.zero) ∧
      ∀ j, 2 ≤ j → act'.temp k.val j = Lane.zero) ∧
    (i = .lith o → ∃ t act', exec i s = .next t ∧ OnlyAct s t c act' ∧ act' = { act with temps := act'.temps, wrote := act'.wrote } ∧
      act'.temp k.val 0 = act.src o.ty o.lit o.a 0 ∧ act'.temp k.val 1 = Lane.ofWord o.lit ∧ ∀ j, 2 ≤ j → act'.temp k.val j = Lane.zero)) ∧
  ∀ (o : OpA) (ty : Ty),
    ((Instr.mov o).wellFormed = true → o.a ≠ .lit → (Instr.mov { o with ty := ty }).wellFormed = true) ∧
    ((Instr.sel o).wellFormed = true → o.a ≠ .lit → o.b ≠ .lit → (Instr.sel { o with ty := ty }).wellFormed = true) ∧
    (3 < o.ka.toNat → (Instr.sel o).wellFormed = false) ∧ (∃ w, encode (.mov o) = some w ∧ (fld w 88 8).toNat = 0x37) ∧
    ∃ w, encode (.sel o) = some w ∧ (fld w 88 8).toNat = 0x34

/-- CMP orders integers by value and then tail, which is the model's reading (log 25, DEDUCED: R64 and R71 say so, R94 names the values alone), floats by the places of R71, and writes the result into all 32 lanes of its predicate; VCMP writes lane by lane, false
from W upward, and leaves guard-false lanes; PLOG combines two predicates under its guard. None of them changes a temporary or raises, and a write to pt
changes nothing (R29, R71, R94, R95, R104). -/
def Obligations.PredicateWords : Prop :=
  ∀ (i : Instr) (o : OpA) (s : State) (c : Cur) (act : Act), (i = .cmp o ∨ i = .vcmp o ∨ i = .plog o) → o.d.code ≤ 3 → Runs s c act →
    ∃ t act', exec i s = .next t ∧ OnlyAct s t c act' ∧ act' = { act with preds := act'.preds } ∧ (o.d.code = 0 → act' = act) ∧
      (o.d.code ≠ 0 → ∀ j < 32,
        (i = .cmp o → act.guard o.pr o.pn 0 = true → CondHolds o.ty o.fn.toNat (act.src o.ty o.lit o.a 0) (act.src o.ty o.lit o.b 0)
          (act.ival o o.a) (act.ival o o.b) (act'.pred o.d.code j)) ∧
        (i = .cmp o → act.guard o.pr o.pn 0 = false → act'.pred o.d.code j = act.pred o.d.code j) ∧
        (i = .vcmp o → j < act.width → act.guard o.pr o.pn j = true → CondHolds o.ty o.fn.toNat (act.src o.ty o.lit o.a j) (act.src o.ty o.lit o.b j)
          (intOf o.ty (act.src o.ty o.lit o.a j).v) (intOf o.ty (act.src o.ty o.lit o.b j).v) (act'.pred o.d.code j)) ∧
        (i = .vcmp o → j < act.width → act.guard o.pr o.pn j = false → act'.pred o.d.code j = act.pred o.d.code j) ∧
        (i = .vcmp o → act.width ≤ j → act'.pred o.d.code j = false) ∧
        (i = .plog o → act.guard o.pr o.pn j = false → act'.pred o.d.code j = act.pred o.d.code j) ∧
        (i = .plog o → act.guard o.pr o.pn j = true →
          (o.fn = 0 → act'.pred o.d.code j = (act.pred o.a.code j && act.pred o.b.code j)) ∧
          (o.fn = 1 → act'.pred o.d.code j = (act.pred o.a.code j || act.pred o.b.code j)) ∧
          (o.fn = 2 → act'.pred o.d.code j = (act.pred o.a.code j ^^ act.pred o.b.code j)) ∧
          (o.fn = 3 → act'.pred o.d.code j = (act.pred o.a.code j && !act.pred o.b.code j)) ∧
          (o.fn = 4 → act'.pred o.d.code j = !act.pred o.a.code j) ∧
          (o.fn = 5 → (act'.pred o.d.code j = true ↔ ∃ l < act.width, act.pred o.a.code l = true)) ∧
          (o.fn = 6 → (act'.pred o.d.code j = true ↔ ∀ l < act.width, act.pred o.a.code l = true))))

/-- The lanes of a vector word: from W upward zero whatever the guard, below W the result where the guard is true and the old lane where it is false. The result is
the exact one wrapped to the type and extended to 32 bits with a zero tail for integer arithmetic, and the copied lane for moves; integer VMIN and VMAX order by value and then tail, the model's reading (log 25, DEDUCED)
(R57, R64, R71, R101, R102, R105, R109, R111, R114). -/
def Obligations.VectorLanes : Prop :=
  ∀ (i : Instr) (o : OpA) (k : Fin 8) (s : State) (c : Cur) (act : Act), o.d = .t k → Runs s c act →
    (∃ j y, vecResult i act j = some (o, y) ∧ o.ty.code < 8 ∧ o.ty.is64 = false) ∨ (∃ j l, vecCopy i act j = some (o, l)) →
    ∃ t act', exec i s = .next t ∧ OnlyAct s t c act' ∧ act' = { act with temps := act'.temps, wrote := act'.wrote, xs := act'.xs } ∧
      ∀ j < 32, (act.width ≤ j → act'.temp k.val j = Lane.zero) ∧
        (j < act.width → act.guard o.pr o.pn j = false → act'.temp k.val j = act.temp k.val j) ∧
        (j < act.width → act.guard o.pr o.pn j = true →
          (∀ y, vecResult i act j = some (o, y) → ∃ x, WrapsTo o.ty y x ∧ act'.temp k.val j = (intLanes o.ty x).1) ∧
          (∀ l, vecCopy i act j = some (o, l) → act'.temp k.val j = l))

/-- COLR grants the greatest power of two that neither the request, at least 1, nor 32 nor the context's limit is below, writes it to lane 0 of its destination
and makes it W; a false guard leaves everything (R113). -/
def Obligations.ColrGrantsWidth : Prop :=
  ∀ (o : OpA) (k : Fin 8) (s : State) (c : Cur) (act : Act), o.d = .t k → Runs s c act →
    ∃ t act', exec (.colr o) s = .next t ∧ OnlyAct s t c act' ∧ (act.guard o.pr o.pn 0 = false → act' = act) ∧
      (act.guard o.pr o.pn 0 = true → act' = { act with temps := act'.temps, wrote := act'.wrote, width := act'.width } ∧
        (∃ b, act'.width = 2 ^ b) ∧ act'.width ≤ max 1 (act.src o.ty o.lit o.a 0).v.toNat ∧ act'.width ≤ 32 ∧
        act'.width ≤ 2 ^ (s.ctx c.elem act.ctx).lmax ∧
        (∀ b, 2 ^ b ≤ max 1 (act.src o.ty o.lit o.a 0).v.toNat → 2 ^ b ≤ 32 → 2 ^ b ≤ 2 ^ (s.ctx c.elem act.ctx).lmax → 2 ^ b ≤ act'.width) ∧
        act'.temp k.val 0 = Lane.ofWord (BitVec.ofNat 32 act'.width) ∧ ∀ j, 1 ≤ j → act'.temp k.val j = Lane.zero)

/-- FREE, HOLD, TFUL, SEND, SENDC, EMIT to a used destination, OTOK, KICK, DISP and SYSC complete outside an ordered section under a true guard: their message, with
its operands, joins the send queue's end and nothing else changes (R138, R145, R146, R233, R324, R329, R345). -/
def Obligations.SendingWords : Prop :=
  ∀ (i : Instr) (s : State) (c : Cur) (act : Act) (x : Effect), Runs s c act → (s.elem c.elem).inSection act.fh = false →
    sendEffect i s c.elem act = some x → Completes i s c act x

/-- The phaser words, BIND and UNBND complete outside an ordered section on an admissible membership word: their message joins the send queue, D gets the word that
R190 states, and PHREG and a BIND or UNBND that names a continuation hold a request slot, the lowest free one (log 42, DEDUCED: no rule says which)
(R168, R190, R246). -/
def Obligations.PhaserWords : Prop :=
  ∀ (i : Instr) (s : State) (c : Cur) (act : Act) (x : Effect), Runs s c act → (s.elem c.elem).inSection act.fh = false →
    phaserEffect i s c.elem act = some x → Completes i s c act x

/-- COPY, GATH, SCAT, LNCH, DFLSH and COLL complete outside an ordered section on aligned operands with a free request slot, the lowest free one (log 42, DEDUCED: no rule says which): their command joins the send queue; a
COPY or SCAT with RM = SR advances the generator, and a SCAT under E or XS writes its FPX record. A FRZR that names a continuation writes its record, asks for the
frost and waits in its slot's list (R239 to R241, R328, R330, R348, R350). -/
def Obligations.CommandWords : Prop :=
  ∀ (i : Instr) (s : State) (c : Cur) (act : Act) (x : Effect), Runs s c act → (s.elem c.elem).inSection act.fh = false →
    commandEffect i s c.elem act = some x → Completes i s c act x

/-- LDG, STG, AMO, FAMO, CAS, FUTN, FRES, FREG, PREF and CLEAN complete outside an ordered section on aligned addresses with a free request slot, the lowest free one (log 42, DEDUCED: no rule says which): where nothing in
the element's memory queue can move, their access joins that queue's end and nothing else changes (R237, R238, R242 to R244, R248). -/
def Obligations.AccessWords : Prop :=
  ∀ (i : Instr) (s : State) (c : Cur) (act : Act) (x : Effect), Runs s c act → (s.elem c.elem).inSection act.fh = false → settleOne s c.elem = none →
    accessEffect i s c.elem act = some x → Completes i s c act x

/-- MCAST under a true lane 0 sends one token per active lane whose handle is not null, in ascending lane order: two join the send queue at once and two in each
cycle after it, and its sequence slot is held for half their number of cycles, rounded up (R145, R146). -/
def Obligations.McastTokens : Prop :=
  let queued (e : Elem) (a : Nat) (act : Act) (ts : List Token) : Elem :=
    { e with seqNext := e.seqNext + ts.length, sendq := e.sendq ++ ts.mapIdx fun n t => ⟨act.org a (e.seqNext + n), .tok t, none, false, false⟩ }
  (∀ (o : OpK) (s : State) (c : Cur) (act : Act), Runs s c act → (s.elem c.elem).inSection act.fh = false → act.guard o.pr o.pn 0 = true →
    let e := s.elem c.elem
    let w := (act.word o.c o.lit).toNat
    let h (k : Nat) : Word := (act.src .n32 o.lit o.a k).v
    let lanes := (List.range act.width).filter fun k => act.guard o.pr o.pn k && !isNull (h k)
    let ts : List Token := lanes.map fun k => { act.sendTok o o.b with fh := h k, node := w / 16 % 4096, port := w / 4 % 4 }
    let later : List Sending := if ts.length ≤ 2 then [] else [{ aid := act.aid, toks := (ts.drop 2).map fun t => (act.org c.elem 0, t) }]
    let seqs := setAt e.seqs c.seq (some { act with pc := act.pc + 1, hold := (ts.length + 1) / 2 })
    ∃ t, exec (.mcast o) s = .next t ∧ OnlyElem s t c.elem { queued e c.elem act (ts.take 2) with seqs := seqs, sending := e.sending ++ later }) ∧
  ∀ (s : State) (a : Nat) (act : Act) (x : Sending), let e := s.elem a
    e.seqs = [some act, none] → e.sending = [x] → x.aid = act.aid → x.flits = [] → (s.part (s.ownOf a act.ctx)).frozen = false →
      OnlyElem s (s.holdTick a) a { queued e a act ((x.toks.take 2).map fun r => r.2) with
        seqs := [some { act with hold := act.hold - 1 }, none], sending := if x.toks.length ≤ 2 then [] else [{ x with toks := x.toks.drop 2 }] }

/-- ALLOC, AQRY, WALK, SPLIT, WSTAT and RSTAT complete outside an ordered section on admissible operands with a free request slot, the lowest free one (log 42, DEDUCED: no rule says which): they send their message, WALK arms a
free unit or answers 2, SPLIT sends its request to its own cluster, and ALLOC gives the number of its slot in D (R135 to R137, R140, R164, R188, R189, R196, R352). -/
def Obligations.UnitWords : Prop :=
  ∀ (i : Instr) (s : State) (c : Cur) (act : Act) (x : Effect), Runs s c act → (s.elem c.elem).inSection act.fh = false →
    unitEffect i s c act = some x → Completes i s c act x

/-- Every array instruction completes on every running activation, with a free request slot where it names a completion destination, the lowest free one (log 42, DEDUCED: no rule says which): its message goes out on the
cluster's buses, and MWLD sends one flit per 32 bytes in ascending order (R176, R178 to R180, R182 to R185). Where its completion destination lies on a null handle
it faults with BAD_DEST instead (R39). -/
def Obligations.ArrayWords : Prop :=
  (∀ (i : Instr) (s : State) (c : Cur) (act : Act) (x : Effect), Runs s c act → arrayEffect i s c.elem act = some x → Completes i s c act x) ∧
  ∀ (i : Instr) (o : OpY) (op : ArrOp) (s : State) (c : Cur) (act : Act) (j : Nat), Runs s c act → arrayMsg i act = some (o, op) → o.cdst.mode ≠ 0 →
    act.cont o.cdst = none → FreeSlot s c.elem act j → exec i s = .next (s.syncFault c.elem c.seq act 0x24)

/-- FENCE, ACQ, REL and INVAL on an empty memory queue of a tenant that is not frozen take effect at once: an acquire part at a scope above element drops every line of the tenant from the cluster
read cache, ACQ the lines of the phaser's regions, INVAL those of its range, and REL nothing (R225, R242, R245). -/
def Obligations.MarkerWords : Prop :=
  ∀ (i : Instr) (s : State) (c : Cur) (act : Act) (x : Effect), Runs s c act → (s.elem c.elem).inSection act.fh = false → (s.elem c.elem).memq = [] →
    (s.part (s.ownOf c.elem act.ctx)).frozen = false → markEffect i s c.elem act = some x → Completes i s c act x

/-- LDC and STC on an empty memory queue of a tenant that is not frozen, outside an ordered section, on an admissible address with a free request slot, the lowest free one (log 42, DEDUCED: no rule says which): the access leaves on the
buses at once and stays in the queue until its reply (R154, R187). -/
def Obligations.ClusterWords : Prop :=
  ∀ (i : Instr) (s : State) (c : Cur) (act : Act) (x : Effect), Runs s c act → (s.elem c.elem).inSection act.fh = false → (s.elem c.elem).memq = [] →
    (s.part (s.ownOf c.elem act.ctx)).frozen = false → clusterEffect i s c.elem act = some x → Completes i s c act x

/-- The words that take their effect in their own element at once, or leave it there for the next cycle, complete, and change what R147, R177, R180, R182, R231 and R319 to R328
say and nothing else. What is left comes about as the next cycle begins: MASK := MASK OR set for MASK, MASK AND NOT set for UNMSK, and the new value of the CSR
(R147, R323); a faulting word's sequence slot is freed then too (R56). The free number that PERF 7 is brought up by is log 55 (DESIGN CHOICE), METR's sample log 16, and that a write
to BUS_ROW or BUS_COL is refused in array mode before 0xFF is ignored, and what REQ_FREE counts, log 57 (DEDUCED). -/
def Obligations.LocalWords : Prop :=
  (∀ (i : Instr) (s : State) (c : Cur) (act : Act) (x : Effect), Runs s c act → localEffect i s c.elem act = some x → Leaves i s c act x) ∧
  ∀ (e : Elem) (l : Late), e.late = [l] → let f := e.lateTick
    let ctx (k : Nat) (g : CtxEntry → CtxEntry) : Prop := f = { e with late := [], ctxs := f.ctxs, ecc := f.ecc } ∧ f.ctxs.get {} k = g (e.ctxs.get {} k) ∧
      ∀ j, j ≠ k → f.ctxs.get {} j = e.ctxs.get {} j
    (∀ k m, l = .mask k m true → ctx k fun c => { c with mask := c.mask ||| m }) ∧ (∀ k m, l = .mask k m false → ctx k fun c => { c with mask := c.mask &&& ~~~m }) ∧
    (∀ k v, l = .bypl k v → ctx k fun c => { c with bypl := v }) ∧ (∀ v, l = .idleCycles v → f = { e with late := [], idleCycles := v }) ∧
    (∀ v, l = .busRow v → f = { e with late := [], busRow := v }) ∧ (∀ v, l = .busCol v → f = { e with late := [], busCol := v }) ∧
    (∀ v, l = .brkEn v → f = { e with late := [], brkEn := v }) ∧ ∀ k n v x, l = .ended k n v → nth e.seqs k none = some x → x.aid = n → f = { e.endSeq k v with late := [] }

/-- LDL on admissible bytes gives every active lane its element, at the place of the table of R141, expanded exactly; inactive lanes below W keep their value, lanes from W are zero, and z discards the value. It changes its activation alone (R141 to R143). -/
def Obligations.LdlReads : Prop :=
  ∀ (o : OpM) (s : State) (c : Cur) (act : Act), Runs s c act →
    let e := s.elem c.elem
    let adr := act.addr32 o
    let lanes := act.active o.ty o.pr o.pn
    (lanes ≠ [] → adr % alignOf o.ty = 0 ∧ e.ecc = [] ∧ e.buffered act.fh = none ∧
      s.localCheck c.elem act.ctx (lanes.flatMap fun i => (elemPieces o.ty 0 adr i 0).map fun p => p.la) = none) →
    ∃ t act', exec (.ldl o) s = .next t ∧ OnlyAct s t c act' ∧ act' = { act with temps := act'.temps, wrote := act'.wrote } ∧ ((∀ k, o.d ≠ .t k) → act' = act) ∧
      ∀ k : Fin 8, o.d = .t k → ∀ j < 32,
        (o.ty.is64 = false → j ∈ lanes → act'.temp k.val j = loadLane o.ty (placed e.mem o.ty adr j)) ∧
        (o.ty.is64 = true → lanes ≠ [] → j < 2 → act'.temp k.val j = Lane.ofWord (BitVec.ofNat 32 (Memory.readN e.mem adr 8 / 2 ^ (32 * j)))) ∧
        (j ∉ lanes → j < act.width → (o.ty.is64 = false ∨ lanes = [] ∨ 2 ≤ j) → act'.temp k.val j = act.temp k.val j) ∧
        (act.width ≤ j → (o.ty.is64 = false ∨ lanes = [] ∨ 2 ≤ j) → act'.temp k.val j = Lane.zero)

/-- STL on admissible bytes outside an ordered section stores every active lane's pattern of its final rounding at its place and leaves every other byte, and the other
bits of shared bytes; the generator advances for RM = SR, one FPX record is written under E or XS, and XS takes the exceptions (R79, R141 to R144, R171, R219, R225). Where an earlier
access of its activation holds it back, the element's own loads see it all the same, and every other element still sees the old bytes; that it waits for this in the memory queue, with
what it replaced, and later local stores behind it, is the model's reading (log 44, DEDUCED). -/
def Obligations.StlStores : Prop :=
  ∀ (o : OpM) (s : State) (c : Cur) (act : Act), Runs s c act → s.memWf = true →
    let e := s.elem c.elem
    let adr := act.addr32 o
    let lanes := act.active o.ty o.pr o.pn
    let st := storeLanes act o.ty o.rm.toNat e.rng o.lit o.c lanes
    let ps := st.1.flatMap fun x => elemPieces o.ty 0 adr x.1 x.2
    let act1 : Act := if lanes = [] then act else { act with xs := act.xs || st.2.any }
    let b := if lanes ≠ [] ∧ (act1.e || act1.xs) = true then (s.srAdvance c.elem o.rm.toNat).fpx (act1.org c.elem 0) else s.srAdvance c.elem o.rm.toNat
    let e1 : Elem := if lanes = [] then b.elem c.elem else (b.elem c.elem).markStore act.fh c.elem (ps.map fun p => p.la)
    let e2 : Elem := { e1 with seqs := setAt e.seqs c.seq (some { act1 with pc := act.pc + 1 }) }
    let y : Acc := { org := act.org c.elem e.seqNext, kind := .stl, pcs := oldPieces e.mem ps }
    let stores (m : List Host.Cell) (dirty : Bool) (ecc : List Flip) : Prop :=
      (∀ x ∈ st.1, x.1 ∈ lanes ∧ placed m o.ty adr x.1 = x.2 % 2 ^ o.ty.bits) ∧ (∀ j ∈ lanes, ∃ x ∈ st.1, x.1 = j) ∧
      (∀ j < 32, j ∉ lanes → o.ty.is64 = false → placed m o.ty adr j = placed e.mem o.ty adr j) ∧
      (∀ a, (∀ p ∈ ps, p.la ≠ a) → Memory.get m a = Memory.get e.mem a) ∧
      (e.wdirty = true → dirty = true) ∧ (e.wbuf = none → dirty = e.wdirty) ∧ (e.ecc = [] → ecc = [])
    (lanes ≠ [] → adr % alignOf o.ty = 0 ∧ e.buffered act.fh = none ∧ s.localCheck c.elem act.ctx (ps.map fun p => p.la) = none) →
    (lanes = [] ∨ accReady e1.memq y = true → ∃ t m dirty ecc, exec (.stl o) s = .next t ∧ stores m dirty ecc ∧
      OnlyElem b t c.elem { e2 with mem := m, wdirty := dirty, ecc := ecc, memq := e1.memq.map (Elem.passed (pieceMask ps)) }) ∧
    (lanes ≠ [] → accReady e1.memq y = false → settleOne b c.elem = none → ∃ t m dirty ecc, exec (.stl o) s = .next t ∧ stores m dirty ecc ∧
      OnlyElem b t c.elem { e2 with mem := m, wdirty := dirty, ecc := ecc, memq := e1.memq ++ [y], seqNext := e.seqNext + 1 } ∧
      (t.elem c.elem).farMem = e.farMem)

/-- VRND gives every active lane the final rounding of its source lane with its own draw, keeps inactive lanes below W and clears the lanes from W; the generator advances
for RM = SR, one FPX record is written under E or XS when a lane is written, and XS takes the exceptions (R67, R79, R107). -/
def Obligations.VrndRounds : Prop :=
  ∀ (o : OpA) (k : Fin 8) (s : State) (c : Cur) (act : Act), o.d = .t k → Runs s c act →
    let x (j : Nat) : Lane × Exc := finalLane o.ts o.ty o.fn.toNat (act.src o.ts o.lit o.a j) (srDraw (s.elem c.elem).rng j)
    let on (j : Nat) : Prop := j < act.width ∧ j < 32 ∧ act.guard o.pr o.pn j = true
    let b := s.srAdvance c.elem o.fn.toNat
    ∃ t act', exec (.vrnd o) s = .next t ∧ act' = { act with temps := act'.temps, wrote := act'.wrote, xs := act'.xs } ∧
      (act'.xs = true ↔ act.xs = true ∨ ∃ j, on j ∧ (x j).2.any = true) ∧
      ((∃ j, on j) → (act.e || act'.xs) = true → OnlyAct (b.fpx (act'.org c.elem 0)) t c act') ∧
      ((¬∃ j, on j) ∨ (act.e || act'.xs) = false → OnlyAct b t c act') ∧
      ∀ j < 32, (on j → act'.temp k.val j = (x j).1) ∧ (j < act.width → ¬on j → act'.temp k.val j = act.temp k.val j) ∧
        (act.width ≤ j → act'.temp k.val j = Lane.zero)

/-- In an open buffered section instance STL and STC put their bytes into the instance's buffer while it holds at most 64 entries: no byte of any local store changes,
and STC holds its request slot, with its completion noted for the commit (R187, R232). That STC holds the slot till then is log 71, that it is the lowest free one log 42 (both
DEDUCED). -/
def Obligations.SectionStores : Prop :=
  ∀ (o : OpM) (s : State) (c : Cur) (act : Act) (x : Sect), Runs s c act → (s.elem c.elem).buffered act.fh = some x →
    let e := s.elem c.elem
    let adr := act.addr32 o
    let lanes := act.active o.ty o.pr o.pn
    let st := storeLanes act o.ty o.rm.toNat e.rng o.lit o.c lanes
    let act1 := act.raise st.2
    let b := (s.srAdvance c.elem o.rm.toNat).fpxIf c.elem act1 true
    let entries (ps : List Piece) (d : Nat) : List (Nat × Byte × Byte) := x.buf ++ ps.map fun p => (d * 2 ^ 19 + p.la, p.mask, p.val)
    let full (ps : List Piece) (d : Nat) : Prop := 64 < (((entries ps d).map fun r => r.1 / 32).eraseDups).length
    let el (ps : List Piece) (d : Nat) : Elem := (b.elem c.elem).setSect { x with buf := entries ps d }
    lanes ≠ [] → adr % alignOf o.ty = 0 →
    (let ps := st.1.flatMap fun y => elemPieces o.ty 0 adr y.1 y.2
     s.localCheck c.elem act.ctx (ps.map fun p => p.la) = none → ¬full ps c.elem →
      ∃ t, exec (.stl o) s = .next t ∧ OnlyElem b t c.elem { el ps c.elem with seqs := setAt e.seqs c.seq (some { act1 with pc := act.pc + 1 }) }) ∧
    (let d := idOfClus (clusNo c.elem) (adr / 2 ^ 19)
     let ps := st.1.flatMap fun y => elemPieces o.ty 0 (adr % 2 ^ 19) y.1 y.2
     ∀ k, clusCheck adr (ps.map fun p => p.la) = none → ¬full ps d → act.cont o.dst = some k →
      Completes (.stc o) s c act { slot := some { kind := .cluster, target := d }, cont := k, act := act1, base := fun _ => b,
                                   own := fun g e => e.setSect { x with buf := entries ps d, stcs := x.stcs ++ [(g, d, x.buf.length, ps.length)] } })

/-- INVAL that names a continuation, on an empty memory queue: with the lowest free slot (log 42, DEDUCED) taken and its continuation counted, the lines of its range leave the read cache, the
slot is freed and the completion token with payload 0 delivered (R242). -/
def Obligations.InvalTells : Prop :=
  ∀ (o : OpM) (s : State) (c : Cur) (act : Act) (j : Nat) (k : Cont), Runs s c act → (s.elem c.elem).inSection act.fh = false → (s.elem c.elem).memq = [] →
    (s.part (s.ownOf c.elem act.ctx)).frozen = false → o.dst.mode ≠ 0 → act.guard o.pr o.pn 0 = true → FreeSlot s c.elem act j → act.cont o.dst = some (some k) →
    let a := c.elem
    let va := act.addr64 o.ty o.lit o.a o.b 0 0
    let len := (act.word o.c o.lit).toNat
    let e := s.elem a
    let s1 := (s.setElem a { e with reqs := setAt e.reqs j (some { kind := .global, target := a, ctx := act.ctx }), seqNext := e.seqNext + 1 }).countCont a act.ctx (some k)
    let s2 := if len = 0 then s1 else s1.rcDrop (clusNo a) (s1.tslotOf (clusNo a) act.ctx) fun l => va / 128 ≤ l && l ≤ (va + len - 1) / 128
    ∃ t, exec (.inval o) s = .next t ∧
      t = (s2.replyTo { act.org a e.seqNext with slot := some j, cont := some k } 0 (act.e || act.xs)).putAct a c.seq { act with reqSet := act.reqSet - 1 }

/-- Misaligned accesses, null handles, words that an ordered section does not permit, a section opened in a section or closed outside one, CSRs without the
privilege and TRAP end their activation with the synchronous fault of their code (R56, R142, R146, R231, R235, R247, R319, R322). -/
def Obligations.SynchronousFaults : Prop :=
  ∀ (i : Instr) (s : State) (c : Cur) (act : Act) (code : Nat), Runs s c act → faultOf i s c.elem act = some code →
    exec i s = .next (s.syncFault c.elem c.seq act code)

/-- What TRAP leaves: its activation's slot is free in the next cycle and the other slot runs on, no byte of a local store changes, and where the
frame is live and its trap slot empty a token with the code, the word, the node and the frame goes to the context's trap destination (R55, R56, R319). That it leaves at once, ahead of the
element's send queue, is the model's choice (log 109, DESIGN CHOICE). -/
def Obligations.TrapEnds : Prop :=
  ∀ (o : OpX) (s : State) (c : Cur) (act : Act), act.guard o.pr o.pn 0 = true → Runs s c act → c.seq < (s.elem c.elem).seqs.length → (s.elem c.elem).late = [] →
    ∃ t, exec (.trap o) s = .next t ∧ nth (t.elem c.elem).lateTick.seqs c.seq none = none ∧
      (∀ j, j ≠ c.seq → nth (t.elem c.elem).lateTick.seqs j none = nth (s.elem c.elem).seqs j none) ∧
      (∀ b, (t.elem b).mem = (s.elem b).mem ∧ (t.elem b).handles = (s.elem b).handles ∧ (t.elem b).seqs = (s.elem b).seqs ∧ (b ≠ c.elem → (t.elem b).late = (s.elem b).late)) ∧
      (∀ y d, (s.elem c.elem).live act.fh = some y →
        let h := (s.elem c.elem).readHdr y
        let k := (s.ctx c.elem h.ctx).trap
        k.mode ≠ 0 → (∀ q n, s.head c.elem h.ctx k.node.toNat = some (n, q) → slotP ((s.elem c.elem).slot y q.slot.toNat) = false) →
        s.absOf c.elem act.ctx (hElem act.fh) = some d →
        ∃ f, t.net = s.net ++ [f] ∧ f.dst = .elem d ∧ ∃ tok, f.msg = .tok tok ∧ tok.fh = act.fh ∧ tok.node = k.node.toNat ∧ tok.port = 0 ∧ tok.e = true ∧
          tok.tag = h.tag ∧ tok.payload = BitVec.ofNat 64 (0x26 * 2 ^ 56 + act.pc % 128 * 2 ^ 44 + act.node % 4096 * 2 ^ 32 + act.fh.toNat))

/-- HALT in a stack that runs: the stack is marked halted, its unarmed records are dropped, its walkers in the clusters of the partition are disarmed with their index space used up, in
every element of the region the ready entries of its contexts leave, and no byte of memory changes. A HALT in a halted stack, in another context or in no region changes its activation
alone (R327). That the ready entries leave with the word, where R327 removes them in the cycle after it, is the model's reading (log 77, DEDUCED). -/
def Obligations.HaltEndsStack : Prop :=
  ∀ (o : OpX) (s : State) (c : Cur) (act : Act), Runs s c act → act.guard o.pr o.pn 0 = true →
    ∃ t, exec (.halt o) s = .next t ∧ t.phys = s.phys ∧ t.host = s.host ∧ t.net = s.net ∧
      (∀ b, (t.elem b).mem = (s.elem b).mem ∧ (t.elem b).handles = (s.elem b).handles ∧ (t.elem b).sendq = (s.elem b).sendq) ∧
      (∀ p j x, s.regionOf c.elem act.ctx = some (p, j) → (s.region p j).run = some x →
        (x.halted = true ∨ act.ctx ∉ x.ctxs → OnlyAct s t c act) ∧
        (x.halted = false → act.ctx ∈ x.ctxs → t.region p j = { s.region p j with run := some { x with halted := true, arm := [] } } ∧
          (∀ n u w, s.inRect p n = true → (s.clus n).walkers.find? u = some w → (t.clus n).walkers.find? u =
            some (if w.lr.region = j ∧ w.lr.ctx ∈ x.ctxs then { w with v := false, cursor := w.hi } else w)) ∧
          ∀ b ∈ s.regionElems p j, ∀ r, r ∈ (t.elem b).ready ↔
            r ∈ (s.elem b).ready ∧ ∀ y, (s.elem b).live r.fh = some y → ((s.elem b).readHdr y).ctx ∉ x.ctxs)) ∧
      ((∀ p j, s.regionOf c.elem act.ctx = some (p, j) → (s.region p j).run = none) → OnlyAct s t c act)

/-- A record goes into the slot that WR names and WR goes up; where the ring is disabled or full or the host fails the record is lost, OVF goes up to its limit and no byte of memory
changes. For the PF's ring, which lies in host memory (R302). -/
def Obligations.RingTakesRecords : Prop :=
  ∀ (s : State) (x : Nat), s.memWf = true →
    let r := (s.fn 128).ering
    let a := r.base + 16 * (r.wr.toNat % 2 ^ (r.sz + 8))
    let t := s.ringPush 128 x
    (r.en = false ∨ (r.wr - r.rd).toNat = 2 ^ (r.sz + 8) ∨ s.hostFails a 16 = true →
      (t.fn 128).ering = { r with ovf := if r.ovf = 0xFFFFFFFF then r.ovf else r.ovf + 1 } ∧ t.host = s.host) ∧
    (r.en = true → (r.wr - r.rd).toNat ≠ 2 ^ (r.sz + 8) → s.hostFails a 16 = false →
      (t.fn 128).ering = { r with wr := r.wr + 1 } ∧ Memory.readN t.host a 16 = x % 2 ^ 128 ∧
      ∀ b, (b < a ∨ a + 16 ≤ b) → Memory.get t.host b = Memory.get s.host b) ∧
    t.phys = s.phys ∧ t.elems = s.elems ∧ t.net = s.net

/-- A STEER, MERGE, GATE, JOIN, CONST, PRUNE, EXIT or RETN that starts puts the tokens of its kind on the send queue, in order, none for an unused destination, and changes
nothing beyond its start: STEER by lane 0 of its second input and KF, CONST with its literal, EXIT and RETN with the popped tag (R41, R47, R50, R81). -/
def Obligations.ControlHeads : Prop :=
  ∀ (i : Instr) (kind : Nat) (o : OpN) (s : State) (c : Cur) (r : ReadyEntry) (y : HEntry) (l : List (Dst × Token)),
    headOp i = some (kind, o) → s.cur = some c → c.rdy = some r → (s.elem c.elem).live r.fh = some y →
    let x := startOf s c.elem r y kind o
    let s1 := started s c.elem r y kind o
    let e := s1.elem c.elem
    headSends i x = some l →
    let used := l.filter fun d => d.1.mode != 0
    let item (n : Nat) (d : Dst × Token) : SendItem :=
      ⟨{ x.org with seq := e.seqNext + n }, .tok { d.2 with fh := if d.1.mode = 2 then x.h.parent else r.fh, node := d.1.node.toNat, port := d.1.port.toNat }, none, false, false⟩
    ∃ t, exec i s = .next t ∧ OnlyElem s1 t c.elem { e with sendq := e.sendq ++ used.mapIdx item, seqNext := e.seqNext + used.length }

/-- A SEQ that starts with a free sequence slot gives it an activation: word 1, the latched inputs, W from the color and the context's limit, E of its inputs, XS 0, its
predicates false, and in every lane of its temporaries zero or a lane that its partition wrote to a temporary earlier; which one is open (R48, R52, log 4). -/
def Obligations.SeqStarts : Prop :=
  ∀ (o : OpN) (s : State) (c : Cur) (r : ReadyEntry) (y : HEntry) (k : Nat), s.cur = some c → c.rdy = some r → (s.elem c.elem).live r.fh = some y →
    let x := startOf s c.elem r y 0 o
    let s1 := started s c.elem r y 0 o
    s1.seqFree c.elem x.h.ctx = some k →
    ∃ t temps, exec (.seq o) s = .next t ∧ temps.length = 8 ∧ (∀ l ∈ temps, l.length = 32 ∧ ∀ v ∈ l, v = Lane.zero ∨ v ∈ s1.written c.elem x.h.ctx) ∧
      OnlyElem { s1 with free := s1.free + 1 } t c.elem { s1.elem c.elem with
        seqs := setAt (s1.elem c.elem).seqs k (some
          { aid := x.aid, fh := r.fh, node := r.node, ctx := x.h.ctx, hdr := x.h, nin := o.nin.toNat + 1, len := o.lit.toNat, dsta := o.dsta, dstb := o.dstb, pc := 1,
            ins := x.ins, temps := temps, preds := List.replicate 3 (List.replicate 32 false),
            width := 2 ^ min (nth x.ins 0 {}).col (s1.ctx c.elem x.h.ctx).lmax, e := x.ins.any fun j => j.e, xs := false, reqSet := o.req.toNat }) }

/-- A SINK that starts consumes its inputs, and writes one FPX record, for its header's tag, when one of them carries E (R50, R79). The tag of the record is the model's reading
(log 23). -/
def Obligations.SinkConsumes : Prop :=
  ∀ (o : OpN) (s : State) (c : Cur) (r : ReadyEntry) (y : HEntry), s.cur = some c → c.rdy = some r → (s.elem c.elem).live r.fh = some y →
    let x := startOf s c.elem r y 10 o
    let s1 := started s c.elem r y 10 o
    exec (.sink o) s = .next (if x.ins.any fun j => j.e then s1.fpx x.org else s1)

/-- A LOOP, NEXT or CALL that starts with a free request slot takes the lowest (log 42, DEDUCED) and asks its own element for a frame with the new header, in pool 0, keyed by the new tag, with
one consumer, and with port 0's token for DSTA to be delivered in it; the request counts as sent (R41, R50, R51, R279). -/
def Obligations.FrameHeads : Prop :=
  ∀ (i : Instr) (kind : Nat) (o : OpN) (s : State) (c : Cur) (r : ReadyEntry) (y : HEntry) (h : FrameHdr) (j : Nat),
    headOp i = some (kind, o) → s.cur = some c → c.rdy = some r → (s.elem c.elem).live r.fh = some y →
    let a := c.elem
    let x := startOf s a r y kind o
    let s1 := started s a r y kind o
    let e := s1.elem a
    let g := x.h.ctx
    newHeader i x = some h → j ∈ s1.slotRange a g → nth e.reqs j none = none → (∀ n ∈ s1.slotRange a g, n < j → nth e.reqs n none ≠ none) →
    let key : Word := h.tag.setWidth 32
    let tok : Token := { x.tok 0 with tag := h.tag, fill := h.fill, node := o.dsta.node.toNat, port := o.dsta.port.toNat }
    let org : Org := { x.org with seq := e.seqNext, slot := some j, cont := some ⟨r.fh, tok.node, tok.port⟩ }
    let req : AllocReq := ⟨org, a, none, false, g, 0, (64 + 16 * (x.h.nslot + 1) + 31) / 32, 0, 1, key, some { h with nslot := x.h.nslot, ctx := g, comp := 0 }, some tok, 0⟩
    ∃ t, exec i s = .next t ∧ OnlyElem (s1.post (.elem a) (.elem a) 0 0 (s1.ownOf a g) false (.alloc req)) t a { e with
      reqs := setAt e.reqs j (some ⟨.frame, a, g, 0, key⟩)
      seqNext := e.seqNext + 1
      sent := ((s1.countSent a g a).elem a).sent }

/-- Requests at an allocator: one for an undefined pool or one that could never fit is refused; any other joins the tail of its list. A grant takes the first list in visiting
order that can be served: its head, in the ordinary part or at the horizon in the reserve, or a window entry behind a head whose bypass count then goes up; the entry leaves its list, the lowest free
handle entry describes the run, a new frame has its header and empty slots, whose reserved bits are zero, and the answer goes out. Where no list can be served only the visit is noted. A window
refill sends a CTL message to the request slot of the first entry that the window does not hold, which is answered with the entry's copy, and the window takes it if that entry is still
the next (R44, R119, R120, R126 to R128, R196). Stated where no storage error is met (what the allocator reads is log 110, DESIGN CHOICE). -/
def Obligations.AllocatorEvents : Prop :=
  (∀ s n a r p, Arrives s n (.elem a) (.alloc r) p →
    let s1 := s.dropFlight n
    let l := 4 * r.ctx + r.pool
    let e := s.elem a
    let q := e.lists.get [] l
    (s1.poolPart a r.ctx r.pool false = none → exec (.allocRequestAccept n) s = .next (s1.post (.elem a) r.home 1 0 p false (.refuse r 0x37))) ∧
    (s1.poolPart a r.ctx r.pool false ≠ none → s1.couldFit a r = false → exec (.allocRequestAccept n) s = .next (s1.post (.elem a) r.home 1 0 p false (.refuse r 0x30))) ∧
    (s1.poolPart a r.ctx r.pool false ≠ none → s1.couldFit a r = true → Gives (.allocRequestAccept n) s fun t => OnlyElem s1 t a { e with
      lists := e.lists.put l (q ++ [{ r with bypass := 0 }])
      win := if e.win.get 0 l = q.length ∧ q.length < 5 then e.win.put l (q.length + 1) else e.win
      allocNext := s.cycle + 1 })) ∧
  (∀ s a, s.cycle < (s.elem a).allocNext → exec (.allocatorGrant a) s = .next s) ∧
  (∀ s a, (s.elem a).allocNext ≤ s.cycle → (s.elem a).ecc = [] → (∀ l ∈ visitOrder (s.elem a), served s a l = none) → visitOrder (s.elem a) ≠ [] → Gives (.allocatorGrant a) s fun t =>
    OnlyElem s t a { s.elem a with lastList := ((visitOrder (s.elem a)).getLast?).getD 0 }) ∧
  (∀ s a pre l post i r g esc j, s.memWf = true → ((s.elem a).lists.rows.map fun r => r.1).Nodup → (s.elem a).allocNext ≤ s.cycle → (s.elem a).ecc = [] →
    visitOrder (s.elem a) = pre ++ l :: post → (∀ k ∈ pre, served s a k = none) → served s a l = some (i, r, g, esc) →
    freeEntry (s.elem a) (s.handleRange a r.ctx).2 (s.handleRange a r.ctx).1 = some j →
    let e := s.elem a
    let gen := (e.handles.get {} j).gen
    let y : HEntry := ⟨true, r.pool, r.ctx, gen, r.cons, false, esc, g, r.gran⟩
    let h := mkHandle (s.rel a r.ctx) j gen
    Gives (.allocatorGrant a) s fun t => ∃ u : State, let f := u.elem a
      t = ((match r.put with | some k => u.applyToken a { k with fh := h } | none => u).post (.elem a) r.home 1 0 (s.ownOf a r.ctx) false (.grant r h g)).modElem a
        (fun e => { e with lastList := l }) ∧
      u = { s with elems := u.elems, regions := u.regions } ∧ (∀ b, b ≠ a → u.elem b = s.elem b) ∧
      f = { e with lists := f.lists, win := f.win, lastList := f.lastList, handles := e.handles.put j y, perf := f.perf, mem := f.mem, memq := f.memq, ecc := f.ecc, wdirty := f.wdirty, allocNext := s.cycle + 1 } ∧
      (∀ k, k ≠ l → f.lists.get [] k = e.lists.get [] k) ∧ f.win.get 0 l = e.win.get 0 l - 1 ∧ f.perfOf (s.ownOf a r.ctx) 5 = e.perfOf (s.ownOf a r.ctx) 5 + 1 ∧
      (i = 0 → f.lists.get [] l = match (e.lists.get [] l).drop 1 with | x :: xs => { x with bypass := 0 } :: xs | [] => []) ∧
      (i ≠ 0 → ∀ x xs, e.lists.get [] l = x :: xs → f.lists.get [] l = { x with bypass := x.bypass + 1 } :: xs.eraseIdx (i - 1)) ∧
      (r.hdr = none → f.mem = e.mem ∧ f.memq = e.memq) ∧
      ∀ d, r.hdr = some d → Memory.readN f.mem y.addr 64 = d.toNat % 2 ^ 512 ∧
        (∀ k ≤ d.nslot, bitsOf (f.slot y k) 68 2 = 0 ∧ bitsOf (f.slot y k) 77 51 = 0 ∧ bitsOf (f.slot y k) 0 68 = bitsOf (e.slot y k) 0 68) ∧
        f.memq = e.memq.map (Elem.passed (writes [(y.addr, 64 + 16 * (d.nslot + 1))])) ∧
        ∀ b, (b < y.addr ∨ y.addr + 64 + 16 * (d.nslot + 1) ≤ b) → Memory.get f.mem b = Memory.get e.mem b) ∧
  ∀ s a l, let n := (s.elem a).win.get 0 l
    let q := (s.elem a).lists.get [] l
    (s.refillAt a l = none → (5 ≤ n ∨ q.length ≤ n → exec (.windowRefill a l) s = .next s) ∧
      ∀ r, n < 5 → q[n]? = some r → exec (.windowRefill a l) s = .next (s.post (.elem a) r.place 3 0 (s.ownOf a (l / 4)) false (.refill a l r.org false))) ∧
    ∀ k x o back, s.refillAt a l = some k → s.net[k]? = some x → x.msg = .refill a l o back →
      (s.arrived k = none → exec (.windowRefill a l) s = .next s) ∧
      (s.arrived k = some x → back = false → exec (.windowRefill a l) s = .next ((s.dropFlight k).post x.dst (.elem a) 3 0 x.own false (.refill a l o true))) ∧
      (s.arrived k = some x → back = true → (n < 5 ∧ q[n]?.map (fun r => r.org) = some o → Gives (.windowRefill a l) s fun t =>
          OnlyElem (s.dropFlight k) t a { s.elem a with win := (s.elem a).win.put l (n + 1), allocNext := s.cycle + 1 }) ∧
        (¬(n < 5 ∧ q[n]?.map (fun r => r.org) = some o) → exec (.windowRefill a l) s = .next (s.dropFlight k)))

/-- FREE, HOLD and TFUL at the owner: CONS goes down, at 0 the handle is stale from then on, CONS goes up, FE takes the bit; an underflow, an overflow and a stale handle change nothing but
the error ring. A FREE and a TFUL that have been applied no longer hold back their issuer's later accesses (R135). AQRY is answered with the entry's counts and size, with the pool's free granules in ON
thirds, of its ordinary part and of its reserve, or with the length of its waiting list, the bypass count of the list's head and whether that has reached the limit; an undefined pool is refused
with BAD_POOL (R120, R126, R128, R138, R140). -/
def Obligations.OwnerMessages : Prop :=
  (∀ s n a o h k p y, Arrives s n (.elem a) (.free o h k) p → (s.elem a).live h = some y →
    let s1 := s.dropFlight n
    let e := s.elem a
    (y.cons < k → exec (.freeMessage n) s = .next ((s1.errorOnly o 0x3B).freedDone o)) ∧
    (k < y.cons → Gives (.freeMessage n) s fun t => ∃ u : State, t = u.freedDone o ∧
      OnlyElem s1 u a { e with handles := e.handles.put (hIdx h) { y with cons := y.cons - k }, allocNext := s.cycle + 1 }) ∧
    (k = y.cons → Gives (.freeMessage n) s fun t => ∃ u : State, t = u.freedDone o ∧ (u.elem a).live h = none ∧ (∀ r ∈ (u.elem a).ready, r.fh ≠ h) ∧
      (u.elem a).handles.get {} (hIdx h) = { y with v := false, fe := false, cons := 0, gen := if y.gen = 15 then 1 else y.gen + 1 } ∧
      (∀ b, b ≠ a → u.elem b = s.elem b) ∧ u = { s1 with elems := u.elems })) ∧
  (∀ s n a o h k p y, Arrives s n (.elem a) (.hold o h k) p → (s.elem a).live h = some y →
    let s1 := s.dropFlight n
    let e := s.elem a
    (255 < y.cons + k → exec (.holdMessage n) s = .next (s1.errorOnly o 0x35)) ∧
    (y.cons + k ≤ 255 → Gives (.holdMessage n) s fun t => OnlyElem s1 t a { e with handles := e.handles.put (hIdx h) { y with cons := y.cons + k }, allocNext := s.cycle + 1 })) ∧
  (∀ s n a o h b p y, Arrives s n (.elem a) (.tful o h b) p → (s.elem a).live h = some y → Gives (.tfulMessage n) s fun t => ∃ u : State, t = u.freedDone o ∧
    OnlyElem ((s.dropFlight n).tagTouched a) u a { s.elem a with handles := (s.elem a).handles.put (hIdx h) { y with fe := b }, allocNext := s.cycle + 1 }) ∧
  (∀ s n a o h k p, (s.elem a).live h = none →
    (Arrives s n (.elem a) (.free o h k) p → exec (.freeMessage n) s = .next (((s.dropFlight n).errorOnly o 0x23).freedDone o)) ∧
    (∀ b, Arrives s n (.elem a) (.tful o h b) p → exec (.tfulMessage n) s = .next (((s.dropFlight n).errorOnly o 0x23).freedDone o)) ∧
    (Arrives s n (.elem a) (.hold o h k) p → exec (.holdMessage n) s = .next ((s.dropFlight n).errorOnly o 0x23))) ∧
  (∀ s n a o h pool p y, Arrives s n (.elem a) (.aqry o 0 h pool) p → (s.elem a).allocNext ≤ s.cycle → (s.elem a).live h = some y →
    exec (.aqryQuery n) s = .next ((s.dropFlight n).replyFrom (.elem a) o
      (BitVec.ofNat 64 (y.size % 2 ^ 32 * 2 ^ 32 + (y.cons + y.fe.toNat * 256 + y.esc.toNat * 512) % 2 ^ 32)))) ∧
  (∀ s n a o h pool p, Arrives s n (.elem a) (.aqry o 0 h pool) p → (s.elem a).allocNext ≤ s.cycle → (s.elem a).live h = none →
    exec (.aqryQuery n) s = .next ((s.dropFlight n).replyFrom (.elem a) o (BitVec.ofNat 64 0xFFFFFFFF))) ∧
  ∀ s n a o kind w pool p, Arrives s n (.elem a) (.aqry o kind w pool) p → (s.elem a).allocNext ≤ s.cycle → kind = 1 ∨ kind = 2 →
    let k := s.ctx a o.ctx
    let x := nth k.pools pool {}
    let free (lo hi : Nat) : Nat := ((List.range hi).filter fun g => decide (lo ≤ g) && runFree (s.elem a) g 1).length
    let q := (s.elem a).lists.get [] (4 * o.ctx + pool)
    let answer (lo hi : Nat) : Prop := exec (.aqryQuery n) s = .next ((s.dropFlight n).replyFrom (.elem a) o (BitVec.ofNat 64 (hi % 2 ^ 32 * 2 ^ 32 + lo % 2 ^ 32)))
    (k.pv.getLsbD pool = false → exec (.aqryQuery n) s = .next ((s.dropFlight n).post (.elem a) (.elem o.elem) 1 0 p false (.refused o 0x37))) ∧
    (k.pv.getLsbD pool = true → kind = 1 → answer (free x.base (x.base + x.size - x.esc)) (free (x.base + x.size - x.esc) (x.base + x.size))) ∧
    (k.pv.getLsbD pool = true → kind = 2 → answer q.length (match q with
      | h :: _ => h.bypass % 16 + (if k.bypl ≤ h.bypass then 2 ^ 31 else 0)
      | [] => 0))

/-- A token that arrives counts as received and as applied. It is the fault STALE_HANDLE at a stale frame, BAD_DEST for a handler or a class other than 0 that the receiver's class table does not declare, at a
node that is no head and at a port or slot the head does not have, SLOT_BUSY at a present slot and JOIN_UNDERFLOW at a JOIN that expects no token, and then no byte of a local store is written by it. At an
empty slot it is stored there with P and no other byte of the local store changes, and its node joins its channel's ready list where its firing condition now holds; a JOIN takes one from COMP, ORs
E, and stores the last of its tokens alone (R44, R46, R47, R49, R55, R279). That a slot above NSLOT is BAD_DEST and that class 0 needs no entry are the model's readings (log 39 and log 104,
DEDUCED). -/
def Obligations.TokensLand : Prop :=
  ∀ (s : State) (n a p : Nat) (t : Token), Arrives s n (.elem a) (.tok t) p → s.memWf = true →
    let s0 := s.dropFlight n
    let s1 := match (if t.acq then (s.elem a).live t.fh else none) with
      | some y => s0.rcDrop (clusNo a) (s.tslotOf (clusNo a) ((s.elem a).readHdr y).ctx) fun _ => true
      | none => s0
    let heard (k : Nat) : State := (s1.modElem a fun e => e.count (s.ownOf a (s.ctxOfHandle a t.fh)) 4 1).countRecv a k a
    let fails (k : Nat) (t : Token) (code : Nat) : Prop := exec (.tokenArrival n) s = .next ((heard k).arriveFault a k t code)
    ((s.elem a).live t.fh = none → fails (s.ctxOfHandle a t.fh) t 0x23) ∧
    ∀ y, (s.elem a).live t.fh = some y →
      let h := (s.elem a).readHdr y
      let k := h.ctx
      let ce := (s.elem a).classes.get {} (16 * s.tslotOf (clusNo a) k + t.cls)
      let declared : Prop := (t.handler = false ∧ t.cls = 0) ∨ ce.valid = true
      let u : Token := { t with node := if t.handler then ce.node else t.node }
      (¬declared → fails k u 0x24) ∧
      (declared → s.head a k u.node = none → fails k u 0x24) ∧
      ∀ kind o, declared → s.head a k u.node = some (kind, o) →
        let j := o.slot.toNat + t.port
        let v := (s.elem a).slot y j
        let ch : Nat := if t.handler then ce.ch else o.ch.toNat
        (o.nin.toNat < t.port ∨ h.nslot < j → fails k u 0x24) ∧
        (t.port ≤ o.nin.toNat → j ≤ h.nslot →
          (slotP v = true → fails k u 0x22) ∧
          (slotP v = false → kind = 9 → h.comp = 0 → fails k u 0x25) ∧
          (slotP v = false → kind ≠ 9 ∨ h.comp = 1 → Gives (.tokenArrival n) s fun x => ∃ w : State, x = w.noteReady a t.fh u.node ch ∧
            let e := (heard k).elem a
            let f := w.elem a
            OnlyElem (heard k) w a { e with mem := f.mem, ecc := f.ecc, wdirty := f.wdirty,
                                            memq := e.memq.map (Elem.passed (writes ((Elem.slotAddr y j, 16) :: if kind = 9 then [(y.addr, 64)] else []))) } ∧ slotP (f.slot y j) = true ∧
            slotIn (f.slot y j) = ⟨t.payload, t.tail, t.e || (kind == 9 && bitsOf v 69 1 == 1), t.col % 8, t.cls % 16⟩ ∧
            (∀ b, (b < Elem.slotAddr y j ∨ Elem.slotAddr y j + 16 ≤ b) → (kind ≠ 9 ∨ b < y.addr ∨ y.addr + 64 ≤ b) → Memory.get f.mem b = Memory.get e.mem b) ∧
            (kind = 9 → Memory.readN f.mem y.addr 64 = ({ h with comp := 0 } : FrameHdr).toNat % 2 ^ 512) ∧
            (x.elem a).ready = (s.elem a).ready ++
              (if State.fires f y kind o = true ∧ ∀ r ∈ (s.elem a).ready, r.fh ≠ t.fh ∨ r.node ≠ u.node then [⟨t.fh, u.node, ch, s.cycle⟩] else [])) ∧
          (slotP v = false → kind = 9 → 1 < h.comp → Gives (.tokenArrival n) s fun x =>
            let e := (heard k).elem a
            let f := x.elem a
            OnlyElem (heard k) x a { e with mem := f.mem, ecc := f.ecc, wdirty := f.wdirty, memq := e.memq.map (Elem.passed (writes [(Elem.slotAddr y j, 16), (y.addr, 64)])) } ∧
            Memory.readN f.mem y.addr 64 = ({ h with comp := h.comp - 1 } : FrameHdr).toNat % 2 ^ 512 ∧
            slotP (f.slot y j) = false ∧ bitsOf (f.slot y j) 69 1 = (t.e || bitsOf v 69 1 == 1).toNat ∧ bitsOf (f.slot y j) 0 68 = bitsOf v 0 68 ∧
            ∀ b, (b < Elem.slotAddr y j ∨ Elem.slotAddr y j + 16 ≤ b) → (b < y.addr ∨ y.addr + 64 ≤ b) → Memory.get f.mem b = Memory.get e.mem b))

/-- What comes back to an issuer: a grant frees the slot and gives the continuation base and handle, an idle frame is noted, a query's reply is delivered, a refusal is the fault of its code, a
promotion moves the entry with its slot and key, with its bypass count, to its list's head and moves nothing where that request has left the list, and answers to walkers free the unit's slot (R126, R129, R137, R140, R162, R164). -/
def Obligations.AnswersArrive : Prop :=
  (∀ s n a r h g p, Arrives s n (.elem a) (.grant r h g) p →
    let s1 := s.dropFlight n
    (r.idle = false → r.put = none → exec (.grantDelivery n) s = .next (s1.replyTo r.org (BitVec.ofNat 64 (32 * g * 2 ^ 32 + h.toNat)) r.org.e)) ∧
    (r.idle = false → r.put ≠ none → exec (.grantDelivery n) s = .next (s1.freeReq a r.org.slot)) ∧
    (r.idle = true → exec (.grantDelivery n) s = .next ((s1.freeReq a r.org.slot).modElem a fun e => { e with idle := e.idle ++ [h], lastBusy := s.cycle }))) ∧
  (∀ s n a o t p, Arrives s n (.elem a) (.reply o t) p → s.reqKind o = some .query → exec (.grantDelivery n) s = .next ((s.dropFlight n).takeReply o t)) ∧
  (∀ s n d r c u p h g, Arrives s n (.clus d) (.grant r h g) p → r.unit = some (c, u) → exec (.walkerGrantDelivery n) s = .next ((s.dropFlight n).unitAnswered c u r.org.slot)) ∧
  (∀ s n d r c p, Arrives s n d (.refuse r c) p →
    let s1 := s.dropFlight n
    (r.unit = none → exec (.allocRefusalArrival n) s = .next (((s1.freeReq r.org.elem r.org.slot).countRefused r.org).fault r.org c)) ∧
    (∀ k u, r.unit = some (k, u) → exec (.allocRefusalArrival n) s = .next (((s1.unitAnswered k u r.org.slot).countRefused r.org).errorOnly r.org c))) ∧
  (∀ s n d o c p, Arrives s n d (.refused o c) p → exec (.allocRefusalArrival n) s = .next ((((s.dropFlight n).freeReq o.elem o.slot).countRefused o).fault o c)) ∧
  (∀ s n d o p, Arrives s n d (.notice o) p → exec (.allocRefusalArrival n) s = .next ((s.dropFlight n).countRefused o)) ∧
  (∀ s n d k p pool unit i a key m r, Arrives s n (.elem d) (.promote a i unit k pool key) p → ((s.elem d).lists.get [] (4 * k + pool))[m]? = some r → 0 < m →
    (((s.elem d).lists.get [] (4 * k + pool)).findIdx? fun r => r.org.elem == a && r.org.slot == some i && r.unit == unit && r.key == key) = some m →
    Gives (.promotion n) s fun t => (t.elem d).lists.get [] (4 * k + pool) = r :: ((s.elem d).lists.get [] (4 * k + pool)).eraseIdx m ∧
      (t.elem d).mem = (s.elem d).mem ∧ ∀ b, b ≠ d → t.elem b = s.elem b) ∧
  (∀ s n d k p pool unit i a key, Arrives s n (.elem d) (.promote a i unit k pool key) p →
    (∀ r ∈ (s.elem d).lists.get [] (4 * k + pool), r.org.elem ≠ a ∨ r.org.slot ≠ some i ∨ r.unit ≠ unit ∨ r.key ≠ key) → exec (.promotion n) s = .next (s.dropFlight n)) ∧
  (∀ s n c o code res r lo hi pid p, Arrives s n (.clus c) (.splitRes o code res r lo hi pid) p →
    let s1 := s.dropFlight n
    (code = 0 → exec (.splitResult n) s = .next ((s1.armUnit c res r lo hi (elemIdx o.elem)).replyTo o (BitVec.ofNat 64 (res * 256 + (hi - lo) * 2 ^ 32)) o.e)) ∧
    (code ≠ 0 → exec (.splitResult n) s = .next (((s1.modWalker c res fun w => { w with res := false }).restUnit c res).replyTo o (BitVec.ofNat 64 code) o.e)))

/-- Walker units: an emission gives the next index's element a request for its seed frame and counts it, a skipped index costs the cursor one step, an idle element asks for its idle frame. A split
request of an earlier cycle, the first of its cycle by element, reserves a unit at the thief's cluster; a split of a unit that has made its emission of the cycle takes the upper half of its
range, or each is answered with its code; WSTAT gets the unit's state before the cycle's emission (R158, R159, R162 to R164, R189). -/
def Obligations.WalkerEvents : Prop :=
  (∀ s c u, let w := s.walker c u
    let home := idOfClus c w.home
    s.emits home w = true →
    (w.lr.index w.cursor = none → exec (.walkerEmit c u) s = .next ((s.modWalker c u fun w => { w with cursor := w.cursor + 1, next := s.cycle + 1 }).restUnit c u)) ∧
    ∀ cs is p j k, w.lr.index w.cursor = some is → cs = w.lr.coords is → s.regionOf home w.lr.ctx = some (p, j) → (w.reqs.findIdx? fun q => q.isNone) = some k →
      let g := s.region p j
      let q := w.lr.placeOf w.cursor cs (g.w * g.h)
      let d := elemAt (s.hedge c w.lr.ctx) (g.x0 + q % g.w) (g.y0 + q / g.w)
      Gives (.walkerEmit c u) s fun t => (t.walker c u).cursor = w.cursor + 1 ∧ (t.walker c u).out = w.out + 1 ∧ (t.walker c u).hi = w.hi ∧ (t.walker c u).next = s.cycle + 1 ∧
        ∃ f r, t.net = s.net ++ [f] ∧ f.dst = .elem d ∧ f.msg = .alloc r ∧ r.target = d ∧ r.unit = some (c, u) ∧ r.cons = 1 ∧ r.pool = 0 ∧
          r.put = some (w.lr.seed cs (s.ctx d w.lr.ctx).lmax) ∧ r.hdr = some { seedHdr cs with nslot := w.lr.nslot, ctx := w.lr.ctx }) ∧
  (∀ s a hd j k o kind slot, (s.clus (clusNo a)).hedges = [hd, {}] → hd.v = true → s.regionAt hd.own hd a = some j → (s.elem a).reqs.length = 8 →
    (s.region hd.own j).cur = some k → s.head a k (s.ctx a k).idle.node.toNat = some (kind, o) → ((s.slotRange a k).find? fun i => (nth (s.elem a).reqs i none).isNone) = some slot →
    (s.ctx a k).idle.mode ≠ 0 → (s.elem a).ready = [] → (s.elem a).seqs = [none, none] → (s.elem a).lastBusy + (s.elem a).idleCycles.toNat ≤ s.cycle → (s.elem a).idle = [] →
    (∀ q ∈ (s.elem a).reqs, ∀ r, q = some r → r.kind ≠ .idle) → s.walkersLive hd.own j = true → (s.part hd.own).frozen = false →
    Gives (.idleFire a 0) s fun t => nth (t.elem a).reqs slot none = some ⟨.idle, a, k, 0, 0xFFFFFFFF⟩ ∧
      ∃ f r, t.net = s.net ++ [f] ∧ f.msg = .alloc r ∧ r.target = a ∧ r.idle = true ∧ r.key = 0xFFFFFFFF ∧ r.pool = 0 ∧ r.cons = 1) ∧
  (∀ s n c o d u near k j at_ x, s.arrived n = some x → x.dst = .clus c → x.msg = .splitReq o d u near k j at_ → at_ < s.cycle →
    let s1 := s.dropFlight n
    s1.requestAhead c at_ o.elem = false →
    (s.freeUnit c k = none → exec (.splitApply n) s = .next (s1.replyFrom (.clus c) o 2)) ∧
    ∀ res, s.freeUnit c k = some res → (near = true → s.nearest c k j = none → exec (.splitApply n) s = .next (s1.replyFrom (.clus c) o 1)) ∧
      ∀ v, (if near then s.nearest c k j else some u) = some v → Gives (.splitApply n) s fun t => t.walker c res = { s.walker c res with res := true } ∧ t.elems = s.elems ∧
        Sends1 s1 t (.clus (clusNo d)) (.split o v (some (elemIdx o.elem)) res k j)) ∧
  (∀ s n c o u th res k j x, s.arrived n = some x → x.dst = .clus c → x.msg = .split o u th res k j →
    let s1 := s.dropFlight n
    let w := s.walker c u
    let half := (w.hi - w.cursor) / 2
    s1.splitAhead c u x.since x.port = false → s.emits (idOfClus c w.home) w = false →
    let here : Prop := u ∈ s.unitRange c k ∧ w.v = true ∧ w.lr.ctx = k ∧ w.lr.region = j
    (here → w.lr.split = true → 2 ≤ w.hi - w.cursor → Gives (.splitApply n) s fun t => t.walker c u = { w with hi := w.hi - half, next := s.cycle + 1 } ∧
      Sends1 s1 t x.src (.splitRes o 0 res w.lr (w.hi - half) w.hi 0)) ∧
    (¬here ∨ (w.lr.split = true ∧ w.hi - w.cursor < 2) → Gives (.splitApply n) s fun t => t.clusters = s.clusters ∧ Sends1 s1 t x.src (.splitRes o 1 res w.lr 0 0 0)) ∧
    (here → w.lr.split = false → Gives (.splitApply n) s fun t => t.clusters = s.clusters ∧ Sends1 s1 t x.src (.splitRes o 3 res w.lr 0 0 0))) ∧
  (∀ s n c o u p, Arrives s n (.clus c) (.wstat o u) p → (s.walker c u).next ≤ s.cycle →
    exec (.splitApply n) s = .next ((s.dropFlight n).replyFrom (.clus c) o (BitVec.ofNat 64 (s.walker c u).status)))

/-- A cycle of a phaser with one message. A registration raises EXP, for all modes but wait-only, and answers with the membership word; a signal of the phase counts as
arrived and of the next phase as early; a drop takes back its registration; after these, where arrivals reach EXP, the phase advances and the waiter list is released; a wait of the phase heads the waiter list
and links the former head, a wait of an earlier phase is released at once. A signal, a drop and a wait beyond what R168 admits are the fault PH_PHASE, a registration beyond 65,535 members is PH_OVERFLOW and is
answered with mode 0. A second message of the cycle is taken with the first, by the steps of R169 (R166 to R169). For phasers with no check due. That a wait of an earlier phase is sent
the regions bound when it arrives is the model's choice (log 118, DESIGN CHOICE). -/
def Obligations.PhaserEvents : Prop :=
  ∀ (s : State) (n c p id : Nat) (o : Org) (op : PhOp) (rl : Bool) (sc : Nat), Arrives s n (.clus c) (.ph o id op rl sc) p →
    let num := id % 256
    let x := s.phaser c num
    let s1 := s.dropFlight n
    let calm (u : State) : State := u.modPhaser c num fun x => { x with due := none }
    let dest (k : Cont) : Option Nat := s.absId (s.hedgeOf p) (hElem k.fh)
    let regs := s.phRegions c p num
    -- the phaser is `z` after the cycle, and nothing but it and the messages changes
    let ends (t : State) (z : Phaser) : Prop := t = { s1 with clusters := t.clusters, net := t.net, hops := t.hops } ∧
      t.phaser c num = { z with due := if z.ripe false then some (s.cycle + 1) else none } ∧ ∀ d k, (d, k) ≠ (c, num) → t.phaser d k = s.phaser d k
    -- `y` has had its completion check
    let checked (t : State) (y : Phaser) (dropped : Bool) : Prop :=
      (y.ripe dropped = false → ends t y ∧ t.net = s1.net) ∧
      (y.ripe dropped = true → ends t y.advanced ∧ (x.hv = false → t.net = s1.net) ∧
        (x.hv = true → let k := contOf (x.head.setWidth 64)
          (dest k = none → t.net = s1.net) ∧ ∀ d, dest k = some d → Sends1 s1 t (.elem d) (.release k x.phase regs x.acq true)))
    let listed (y : Phaser) (k : Cont) (aq : Bool) : Phaser :=
      { y with hv := true, head := (linkOf k false).setWidth 47, acq := if aq then linkOf k true :: y.acq else y.acq }
    x.ripe false = false →
    (∀ mode, op = .reg mode → mode = 2 ∨ x.exp ≠ 65535 → Gives (.phaserRegister n none) s fun t => ends t { x with exp := if mode = 2 then x.exp else x.exp + 1 } ∧
      Sends1 s1 t (.elem o.elem) (.reply o (o.cont.map fun k => State.grantTok o k (mwMake mode id x.phase) o.e))) ∧
    (∀ mode, op = .reg mode → mode ≠ 2 → x.exp = 65535 → exec (.phaserRegister n none) s = .next (calm ((s1.errorOnly o 0x44).replyFrom (.clus c) o (mwMake 0 id x.phase)))) ∧
    (∀ sp, op = .sig sp →
      (sp = x.phase → Gives (.phaserSignal n none) s fun t => checked t { x with arr := x.arr + 1 } false) ∧
      (sp = x.phase + 1 → Gives (.phaserSignal n none) s fun t => checked t { x with arrn := x.arrn + 1 } false) ∧
      (sp ≠ x.phase → sp ≠ x.phase + 1 → exec (.phaserSignal n none) s = .next (calm (s1.errorOnly o 0x42)))) ∧
    (∀ mode sp, op = .drop mode sp →
      (mode = 2 → exec (.phaserDrop n none) s = .next (calm s1)) ∧
      (mode ≠ 2 → sp = x.phase → Gives (.phaserDrop n none) s fun t => checked t { x with exp := x.exp - 1 } true) ∧
      (mode ≠ 2 → sp = x.phase + 1 → Gives (.phaserDrop n none) s fun t => checked t { x with adj := x.adj - 1 } true) ∧
      (mode ≠ 2 → sp ≠ x.phase → sp ≠ x.phase + 1 → exec (.phaserDrop n none) s = .next (calm (s1.errorOnly o 0x42)))) ∧
    (∀ q k aq, op = .wait q k aq →
      (q = x.phase → Gives (.phaserWait n none) s fun t => ends t (listed x k aq) ∧
        (dest k = none → t.net = s1.net) ∧ ∀ d, dest k = some d → Sends1 s1 t (.elem d) (.link k (if x.hv then x.head.setWidth 64 else 1))) ∧
      (q ≠ x.phase → (q - x.phase).msb = true → Gives (.phaserWait n none) s fun t => ends t x ∧
        (dest k = none → t.net = s1.net) ∧ ∀ d, dest k = some d → Sends1 s1 t (.elem d) (.release k q regs (if aq then [linkOf k true] else []) false)) ∧
      (q ≠ x.phase → (q - x.phase).msb = false →
        exec (.phaserWait n none) s = .next (calm ((s1.errorOnly o 0x42).post (.clus c) (.elem o.elem) 3 0 p false (.notice o))))) ∧
    (∀ q k aq, op = .sigWait q q k aq → q = x.phase → let y : Phaser := { x with arr := x.arr + 1 }
      (y.ripe false = false → Gives (.phaserSignalWait n none) s fun t => ends t (listed y k aq) ∧
        (dest k = none → t.net = s1.net) ∧ ∀ d, dest k = some d → Sends1 s1 t (.elem d) (.link k (if x.hv then x.head.setWidth 64 else 1))) ∧
      (y.ripe false = true → x.hv = false → Gives (.phaserSignalWait n none) s fun t => ends t y.advanced ∧
        (dest k = none → t.net = s1.net) ∧ ∀ d, dest k = some d → Sends1 s1 t (.elem d) (.release k q regs (if aq then [linkOf k true] else []) false))) ∧
    ∀ m z o2 id2 op2 rl2 sc2, m ≠ n → s1.arrived (if n < m then m - 1 else m) = some z → z.dst = .clus c → z.msg = .ph o2 id2 op2 rl2 sc2 → id2 % 256 = num →
      let both := phCycle c p num [(o, id, op), (o2, id2, op2)] (s1.dropFlight (if n < m then m - 1 else m))
      (∀ mode, op = .reg mode → exec (.phaserRegister n (some m)) s = .next both) ∧ (∀ sp, op = .sig sp → exec (.phaserSignal n (some m)) s = .next both) ∧
      (∀ mode sp, op = .drop mode sp → exec (.phaserDrop n (some m)) s = .next both) ∧ (∀ q k aq, op = .wait q k aq → exec (.phaserWait n (some m)) s = .next both) ∧
      ∀ sp q k aq, op = .sigWait sp q k aq → exec (.phaserSignalWait n (some m)) s = .next both

/-- Waiter links and releases: a link replaces the payload bits of its slot and leaves P; a release drops the bound regions' lines where the waiter acquires, stores the phase as a token for the frame's
tag, by R46, and passes on to the next waiter unless the slot's link says END. A binding joins the cluster's list, or is refused with its error record; an unbinding takes the entry that matches exactly,
if there is one; each is answered where a continuation asks, and releases what its issuer holds back for it (R167, R168, R222, R224, R246). That a link to a waiter whose frame is gone is dropped is the model's reading (log 38, DEDUCED). -/
def Obligations.LinksAndBindings : Prop :=
  (∀ s n a p k w, Arrives s n (.elem a) (.link k w) p → s.memWf = true →
    (s.contSlot a k = none → exec (.waiterLinkWrite n) s = .next (s.dropFlight n)) ∧
    ∀ y h j, s.contSlot a k = some (y, h, j) → Gives (.waiterLinkWrite n) s fun t =>
      let e := s.elem a
      let f := t.elem a
      OnlyElem (s.dropFlight n) t a { e with mem := f.mem, ecc := f.ecc, wdirty := f.wdirty, memq := e.memq.map (Elem.passed (writes [(Elem.slotAddr y j, 16)])) } ∧
      f.slot y j % 2 ^ 64 = w.toNat ∧ f.slot y j / 2 ^ 64 = e.slot y j / 2 ^ 64 ∧
      ∀ b, (b < Elem.slotAddr y j ∨ Elem.slotAddr y j + 8 ≤ b) → Memory.get f.mem b = Memory.get e.mem b) ∧
  (∀ s n a p k phase regs acq chain, Arrives s n (.elem a) (.release k phase regs acq chain) p →
    let s1 := s.dropFlight n
    let tok : Token := { payload := phase.setWidth 64, fh := k.fh, node := k.node, port := k.port }
    (s.contSlot a k = none → exec (.phaserRelease n) s = .next (s1.applyToken a tok)) ∧
    ∀ y h j, s.contSlot a k = some (y, h, j) →
      let s2 := if linkOf k true ∈ acq then s1.rcDrop (clusNo a) (s.tslotOf (clusNo a) h.ctx) fun z => regs.any fun r => r.1 ≤ z && z < r.1 + r.2 else s1
      let s3 := s2.applyToken a { tok with tag := h.tag, fill := h.fill }
      let l : DWord := BitVec.ofNat 64 ((s.elem a).slot y j % 2 ^ 64)
      exec (.phaserRelease n) s = .next (if chain = true ∧ l.getLsbD 0 = false then s3.toWaiter (.elem a) p (contOf l) (.release (contOf l) phase regs acq true) else s3)) ∧
  (∀ s n c p o id base len, Arrives s n (.clus c) (.bind o id base len false) p →
    let s1 := s.dropFlight n
    let code := bindCode (s.clus c).binds (s.tsOf c p) (id % 256) base.toNat len.toNat
    let told (u : State) (v : Nat) : State := if o.slot.isSome then u.replyFrom (.clus c) o (BitVec.ofNat 64 v) else u
    (code = 0 → Gives (.bindApply n) s fun t => ∃ u : State, t = (told u 0).settle o.elem ∧ u = { s1 with clusters := u.clusters } ∧ (∀ d, d ≠ c → u.clus d = s.clus d) ∧
      u.clus c = { s.clus c with binds := (s.clus c).binds ++ [⟨id % 256, s.tsOf c p, base.toNat / 128, len.toNat / 128⟩] }) ∧
    (code ≠ 0 → exec (.bindApply n) s = .next ((told (s1.errorOnly o code) code).settle o.elem))) ∧
  (∀ s n c p o id base len, Arrives s n (.clus c) (.bind o id base len true) p →
    let told (u : State) : State := if o.slot.isSome then u.replyFrom (.clus c) o 0 else u
    let b : BindEnt := ⟨id % 256, s.tsOf c p, base.toNat / 128, len.toNat / 128⟩
    let exact : Prop := base.toNat % 128 = 0 ∧ len.toNat % 128 = 0
    Gives (.unbndApply n) s fun t => ∃ u : State, t = (told u).settle o.elem ∧ u = { s.dropFlight n with clusters := u.clusters } ∧ (∀ d, d ≠ c → u.clus d = s.clus d) ∧
      (exact → u.clus c = { s.clus c with binds := (s.clus c).binds.erase b }) ∧ (¬exact → u.clus c = s.clus c))

/-- What leaves a send queue and arrives over the partition plane, the buses and the memory plane: the first entry of a tenant that is not frozen leaves when the causal token rule lets it, a token counts
as sent; an output lets its best candidates cross, as many as its link takes in a cycle; on the memory plane those of one partition are chosen among as on the partition plane and the partitions take
turns by their weights, behind saturated flits, and two atomics that may merge do so where they meet; a router takes a flit in, discards it for good where its check word does not match, and breaks its owner's
hedge where no entry of the partition plane admits it; LDC and STC act on their target, and each reply frees its slot and gives the continuation its token, the bytes of an LDC that a section's instance
issued landing in its buffer, which may overflow, and a token for another frame waiting for the commit (R137, R145, R154, R187, R199 to R202, R206, R207, R220, R232, R289, R293). The ties that R200 leaves open,
PRIO at a gateway and the rate of a chain link are the model's choices (log 115 and log 113, DESIGN CHOICE). -/
def Obligations.TransportEvents : Prop :=
  (∀ s a pre i rest, (s.elem a).sendq = pre ++ i :: rest → (∀ q ∈ pre, (s.part (s.ownOf a q.org.ctx)).frozen = true) → i.org.elem = a → (s.part (s.ownOf a i.org.ctx)).frozen = false →
    (s.mayLeave i = false → exec (.tokenLeave a) s = .next s) ∧ (s.mayLeave i = true →
      exec (.tokenLeave a) s = .next ((s.modElem a fun e => { e with sendq := pre ++ rest }).letGo i) ∧
      ∀ tok d, i.msg = .tok tok → s.absOf a i.org.ctx (hElem tok.fh) = some d → Gives (.tokenLeave a) s fun t =>
        (t.elem a).sendq = pre ++ rest ∧ (t.elem a).mem = (s.elem a).mem ∧ Sends1 s t (.elem d) (.tok tok))) ∧
  (∀ s n x, s.net[n]? = some x → x.at_ = .link → (∀ y ∈ s.net, y.at_ = .link → y.port = x.port → y.vn = x.vn → x.stamp ≤ y.stamp) →
    (x.noise = 0 → 4 ≤ x.vn ∨ s.admits (State.landing x) x.own = true → Gives (.flitReceive n) s fun t =>
      t = { s with net := s.net.set n { x with at_ := if x.route = [] then .here else .cand, since := s.cycle, age := 0, sat := none } }) ∧
    (x.noise = 0 → x.vn < 4 → s.admits (State.landing x) x.own = false → exec (.flitReceive n) s = .next ((s.dropFlight n).hedgeBreach x.own)) ∧
    (let w := (State.flitBits x + x.chk) ^^^ x.noise
     x.noise ≠ 0 → w % 2 ^ 32 ≠ State.crc32c (w / 2 ^ 32) 224 → exec (.flitReceive n) s = .next (((s.dropFlight n).lostReq x).linkChk (State.landing x)))) ∧
  (∀ s out, out < 2 ^ 20 → out ∈ s.egress → exec (.egressArbitration out) s = .next s) ∧
  (∀ s out, out < 2 ^ 20 → out ∉ s.egress → Gives (.egressArbitration out) s fun t => t.net.length = s.net.length ∧ t.elems = s.elems ∧
    ∃ win : List Nat, win.Nodup ∧ win.length = min (outWidth out) (s.net.filter fun x => s.isCand x out).length ∧ ∀ n x, s.net[n]? = some x →
      (n ∈ win → s.isCand x out = true ∧ ∃ i < win.length, t.net[n]? = some { x with
        at_ := .link, route := x.route.drop 1, port := out, vc := State.hopVc x out, stamp := s.hops + i, age := 0, sat := none
        longs := x.longs + (longHop (State.placeClus x.dst) out).toNat }) ∧
      (n ∉ win → t.net[n]? = some x ∧ (s.isCand x out = true → ∀ m ∈ win, ∀ y, s.net[m]? = some y → s.beats out x y = false))) ∧
  (∀ s out, 2 ^ 20 ≤ out → out ∈ s.egress ∨ (∀ x ∈ s.net, s.isCand x out = false) → exec (.egressArbitration out) s = .next s) ∧
  (∀ s out, 2 ^ 20 ≤ out → out ∉ s.egress → (∃ x ∈ s.net, s.isCand x out = true) → (∀ x ∈ s.net, x.own < 128) → (∀ x ∈ s.net, ∀ y ∈ s.net, s.flitsAlike x y = false) → Gives (.egressArbitration out) s fun t =>
    t.net.length = s.net.length ∧ t.elems = s.elems ∧ ∃ win : List Nat, win.Nodup ∧ win.length = min (outWidth out) (s.net.filter fun x => s.isCand x out).length ∧
      (∀ n x, s.net[n]? = some x →
        (n ∈ win → s.isCand x out = true ∧ ∃ i < win.length, t.net[n]? = some { x with
          at_ := .link, route := x.route.drop 1, port := out, vc := State.hopVc x out, stamp := s.hops + i, age := 0, sat := none }) ∧
        (n ∉ win → t.net[n]? = some x ∧ (s.isCand x out = true → ∀ m ∈ win, ∀ y, s.net[m]? = some y →
          (x.sat.isSome = true → y.sat.isSome = true ∧ s.beats out x y = false) ∧ (x.own = y.own → s.beats out x y = false)))) ∧
      -- deficit round-robin among partitions: who has the turn goes on for its weight of flits, then the next with a candidate
      let turn := s.drr.get (127, 0) out
      let cands (p : Nat) : Nat := (s.net.filter fun x => s.isCand x out && x.own == p).length
      (∀ x ∈ s.net, s.isCand x out = true → x.sat = none) →
        (∀ p, turn.1 = p → outWidth out ≤ min turn.2 (cands p) → (∀ n ∈ win, ∀ x, s.net[n]? = some x → x.own = p) ∧ t.drr = s.drr.put out (p, turn.2 - outWidth out)) ∧
        ∀ p k, p = (turn.1 + 1 + k) % 128 → k < 128 → (∀ i < k, cands ((turn.1 + 1 + i) % 128) = 0) → turn.2 = 0 ∨ cands turn.1 = 0 → outWidth out ≤ min (s.part p).weight (cands p) →
          (∀ n ∈ win, ∀ x, s.net[n]? = some x → x.own = p) ∧ t.drr = s.drr.put out (p, (s.part p).weight - outWidth out)) ∧
  (∀ s out n m x z a b y u op q, 2 ^ 20 ≤ out → out ∉ s.egress → s.net[n]? = some x → s.net[m]? = some z → n ≠ m → (∀ i f, s.net[i]? = some f → (s.isCand f out = true ↔ i = n ∨ i = m)) →
    x.own = z.own → x.own < 128 → x.sat = none → z.sat = none → s.beats out x z = true → s.beats out z x = false → s.flitsAlike x z = true → s.carried x = some (a, y) → s.carried z = some (b, u) → y.kind = .atomic op → u.kind = .atomic q →
    (a, y.org.seq) ≠ (b, u.org.seq) → y.joined = [] → y.alone = none → u.joined = [] → u.alone = none → Gives (.egressArbitration out) s fun t =>
      ((t.elem a).memq.find? fun v => v.org.seq == y.org.seq) = some { y with kind := .atomic (op.merge q), joined := [(b, u.org.seq)], alone := some op } ∧
      ((t.elem b).memq.find? fun v => v.org.seq == u.org.seq) = some { u with out := true } ∧
      t.net = (s.net.set n { x with at_ := .link, route := x.route.drop 1, port := out, vc := State.hopVc x out, stamp := s.hops, age := 0, sat := none }).eraseIdx m) ∧
  (∀ s n d o c p, Arrives s n (.elem d) (.clusAcc o c) p → s.localCheck d o.ctx (c.pcs.map fun q => if c.write then q.la else q.va) = none → (s.elem d).ecc = [] →
    (s.elem o.elem).issuer o.elem o = none → Gives (.clusterAccess n) s fun t =>
      (c.write = true → (t.elem d).mem = putPieces (s.elem d).mem c.pcs ∧ Sends1 (s.dropFlight n) t (.elem o.elem) (.clusRep o c 0)) ∧
      (c.write = false → t.elems = s.elems ∧
        Sends1 (s.dropFlight n) t (.elem o.elem) (.clusRep o { c with pcs := c.pcs.map fun q =>
          { q with val := Memory.get (if o.elem = d then (s.elem d).mem else (s.elem d).farMem) q.va } } 0))) ∧
  (∀ s n a o c code p, Arrives s n (.elem a) (.clusRep o c code) p →
    let s1 := ((s.dropFlight n).memqDrop a o.seq).settle a
    -- the token goes out, but to another frame than its instance's only at the instance's commit
    let gives (u : State) (o : Org) (v : DWord) : Prop :=
      ((u.elem a).issuer a o = none ∨ o.cont = none → exec (.clusterReply n) s = .next (u.replyTo o v o.e)) ∧
      ∀ x k, (u.elem a).issuer a o = some x → o.cont = some k → (k.fh = x.fh → exec (.clusterReply n) s = .next (u.replyTo o v o.e)) ∧
        (k.fh ≠ x.fh → exec (.clusterReply n) s = .next ((u.freeReq a o.slot).modElem a fun e =>
          e.setSect { x with hold := holdAt x.hold { org := o, msg := .tok (State.grantTok o k v o.e), paid := true } }))
    (code ≠ 0 → exec (.clusterReply n) s = .next (((s1.freeReq a o.slot).countRefused o).fault o code)) ∧
    (code = 0 → c.write = true → exec (.clusterReply n) s = .next (s1.replyTo o 0 o.e)) ∧
    (code = 0 → c.write = false → (∀ y ∈ (s1.elem a).sects, y.issued a o = true → y.wait = true ∨ y.direct = true) →
      let s2 := s1.modElem a fun e => (e.putData c.pcs).markLoaded a o (c.pcs.map fun q => q.la)
      gives s2 o (s2.eightAt a c.c)) ∧
    ∀ y, code = 0 → c.write = false → ((s1.elem a).sects.find? fun x => x.issued a o && !x.wait && !x.direct) = some y →
      let z := bufStore y a c.pcs
      (64 < bufEntries z → exec (.clusterReply n) s = .next (((s1.freeReq a o.slot).countRefused o).squash a y true)) ∧
      (bufEntries z ≤ 64 → let s2 := s1.setElem a ((s1.elem a).setSect z)
        gives s2 o (BitVec.ofNat 64 (leNat (Memory.read (sectView z a (s2.elem a).mem ((List.range 8).map fun i => c.c + i)) c.c 8))))) ∧
  (∀ s n d o c pcs p, Arrives s n d (.globRep o (.load c) pcs) p →
    let s1 := s.dropFlight n
    (c = none → exec (.globalReply n) s = .next (s1.replyTo o 0 o.e)) ∧
    (∀ x, c = some x → let s2 := s1.modElem o.elem fun e => e.putData pcs
      exec (.globalReply n) s = .next (s2.replyTo o (s2.eightAt o.elem x) o.e))) ∧
  (∀ s n d o v p, Arrives s n d (.ack o v) p → exec (.accessAck n) s = .next ((((s.dropFlight n).memqDrop o.elem o.seq).settle o.elem).replyTo o v o.e))

/-- The array controller and its array: weight flits, messages, a firing's start and end, and the drain (R171 to R174, R179 to R183, R185). A firing clears the tag of the scale
tile that it used; a tile that SCSND has named meanwhile stands for the next firing. A firing whose bound weight buffer a program rewrote leaves values that nothing constrains (R171). What a firing gives
is computed from what stands in its tiles at its start, and is the array's, XB and SKIPS too, at its end: the model's reading (log 52, DEDUCED). A flit without a buffer is dropped with its error record at the
named element alone (log 50, DEDUCED). -/
def Obligations.ArrayEvents : Prop :=
  (∀ s n c o row col off data fin p, Arrives s n (.clus c) (.mwld o row col off data false fin) p → Gives (.mwldFlit n) s fun t => ∀ i < 96,
    let a := idOfClus c i
    let e := s.elem a
    let named : Prop := (row = e.busRow.toNat ∨ row = 0xFF) ∧ (col = e.busCol.toNat ∨ col = 0xFF)
    (¬named → t.elem a = e) ∧
    ∀ h y, named → e.wbuf = some h → e.live h = some y → y.fe = false → off + 32 ≤ 32 * y.size → t.elem a =
      { e with mem := Memory.write e.mem (y.addr + off) data, ecc := (t.elem a).ecc, memq := e.memq.map (Elem.passed (writes [(y.addr + off, 32)])) }) ∧
  (∀ s n c o row col off data fin p k, Arrives s n (.clus c) (.mwld o row col off data false fin) p → k < 96 →
    (∀ i < 96, ((row = (s.elem (idOfClus c i)).busRow.toNat ∨ row = 0xFF) ∧ (col = (s.elem (idOfClus c i)).busCol.toNat ∨ col = 0xFF)) ↔ i = k) →
    let a := idOfClus c k
    let e := s.elem a
    (∀ h y, e.wbuf = some h → e.live h = some y → y.fe = true ∨ 32 * y.size < off + 32) →
    exec (.mwldFlit n) s = .next (if (o.elem, o.seq) ∈ e.wdisc then s.dropFlight n
      else ((s.dropFlight n).setElem a { e with wdisc := (o.elem, o.seq) :: e.wdisc }).errorOnly { o with elem := a } 0x4C)) ∧
  (∀ s n c o p g x, Arrives s n (.clus c) (.arr o .mstat) p → (s.clus c).arrNext ≤ s.cycle → (s.clus c).msgNext ≤ s.cycle → (s.clus c).arrMsgs = [] → elemIdx o.elem ∉ (s.clus c).noCfg →
    s.arrayAt c (elemIdx o.elem) = some (g, x) → o.slot.isSome = true → Gives (.arrayMessage n) s fun t =>
      t.elems = s.elems ∧ (t.clus c).arrays = (s.clus c).arrays ∧
      Sends1 (s.dropFlight n) t (.elem o.elem) (.reply o (o.cont.map fun k => State.grantTok o k (BitVec.ofNat 64 x.status) o.e))) ∧
  (∀ s c g x ha hd o da ya dd yd, (s.clus c).arrays.find? g = some x → x.bind = some (ha, hd, o) → s.handleAt o.elem o.ctx ha = some (da, ya) → s.handleAt o.elem o.ctx hd = some (dd, yd) →
    (s.clus c).arrNext ≤ s.cycle → x.fir = false → (∀ d, s.waitingDrain c x = some d → d.2.2.1 = true ∧ d.2.2.2 = false) → ya.fe = true → yd.fe = false → (∀ b, (s.elem b).ecc = []) →
    let sc := x.scn.bind fun h => s.handleAt o.elem o.ctx h
    (x.af ≠ .bf16 → ∃ d y, sc = some (d, y) ∧ y.fe = true ∧ 4 * (x.m * x.k / 32) ≤ 32 * y.size) →
    (∀ j ∈ x.members, ∃ y, s.buffer c j = some y ∧ y.fe = true ∧ bufferNeed x ≤ 32 * y.size) →
    packedBytes x.af (x.m * x.k) ≤ 32 * ya.size → packedBytes x.f (x.m * x.n) ≤ 32 * yd.size → (s.part (s.ownOf o.elem o.ctx)).frozen = false → Gives (.arrayFiringStart c g) s fun t =>
      let f : Feed := ⟨(s.elem da).farMem, ya.addr, (match sc with | some r => (s.elem r.1).farMem | none => []), match sc with | some r => r.2.addr | none => 0⟩
      let r := fireAll s c x f
      (t.clus c).arrays.find? g = some { x with fir := true, used := x.scn, fresh := false, firMask := x.mask, firRate := x.rate, res := ⟨r.1, r.2, zeroGroups x f⟩ } ∧
      t.elems = s.elems) ∧
  (∀ s c g x ha hd o da ya, (s.clus c).arrays.rows = [(g, x)] → (s.clus c).arrMsgs = [] → x.fir = true → x.bind = some (ha, hd, o) → s.handleAt o.elem o.ctx ha = some (da, ya) →
    Gives (.arrayFiringEnd c g) s fun t => ∃ acc xb, ((∀ j ∈ x.members, (s.elem (idOfClus c j)).wdirty = false) → acc = x.res.acc ∧ xb = (x.xb || x.res.xb)) ∧ (x.xb = true → xb = true) ∧
      (t.clus c).arrays.find? g = some { x with acc := acc, xb := xb, skips := (x.skips + x.res.skips) % 2 ^ 32, res := {}, fir := false, fires := (x.fires + 1) % 2 ^ 16, used := none
                                                scn := if x.af = .bf16 ∨ x.fresh = true then x.scn else none } ∧
      ((t.elem da).handles.get {} (hIdx ha)).fe = false ∧ (t.elem da).mem = (s.elem da).mem ∧
      ∀ h d y, x.af ≠ .bf16 → x.used = some h → s.handleAt o.elem o.ctx h = some (d, y) → ((t.elem d).handles.get {} (hIdx h)).fe = false) ∧
  (∀ s c g x o rm after passed ha hd ob d y, (s.clus c).arrays.rows = [(g, x)] → (s.clus c).arrMsgs = [{ org := o, op := .mdrn rm after, drain := passed }] → elemIdx o.elem = x.origin → x.bind = some (ha, hd, ob) →
    s.handleAt ob.elem ob.ctx hd = some (d, y) → (after = false ∨ passed = true ∨ s.tagOf ob ha = some false) → (s.clus c).arrNext ≤ s.cycle → x.fir = false → y.fe = false →
    (s.part (s.ownOf o.elem o.ctx)).frozen = false → Gives (.mdrnDrain c g) s fun t =>
      (t.clus c).arrays.find? g = some { x with acc := .empty, xb := false } ∧ (t.clus c).arrMsgs = [] ∧ ((t.elem d).handles.get {} (hIdx hd)).fe = true ∧
      (t.elem d).mem = ((drainAll c x rm d y.addr s).1.elem d).mem)

/-- An access's request for its next line leaves on the memory plane for the line's home slice, a load without AQ and a prefetch where the cluster's read cache lacks the line. Performed at home: a store
writes its masked bytes and no other, its lines then stand dirty in their home caches where a way group is on, and it is answered once its last line is performed, at system scope with RL once the host has
none of its bytes to complete; a load brings back the bytes of memory, or of the line that its cluster's read cache holds; an atomic replaces its word by its operation's result and returns the old word if
it fetches; CLEAN leaves no dirty line of its range, and a prefetch changes no memory and is not answered (R155, R202, R204, R218, R236 to R238, R242 to R244). -/
def Obligations.HomeAccesses : Prop :=
  ∀ (s : State) (a : Nat) (y : Acc) (xl : List Leaf), Sole s a y xl → s.memWf = true →
    let here : Place := .elem y.org.elem
    let ts := s.tsOf (clusNo a) (s.ownOf a y.org.ctx)
    let back (n : Nat) : State := s.dropFlight n
    let cached : Prop := (∃ c, y.kind = .load c ∧ y.aq = false) ∨ y.kind = .pref false
    let going : Prop := Going s a y ∧ (s.part (s.ownOf a y.org.ctx)).frozen = false
    (∀ line l, OneLine y xl line l → going → (∀ va len, y.kind ≠ .clean va len) → (cached → s.rcLine (clusNo a) ts line = none) → Gives (.homeAccess a 0) s fun t =>
      let pa := State.leafAddr l (nth y.pcs 0 { va := 0 }).va
      t.phys = s.phys ∧ (t.elem a).memq = [{ y with xl := xl }] ∧ Sends1 s t (.slice (homeSlice pa)) (.mreq y.org line pa)) ∧
    (∀ line l n, OneLine y xl line l → AtHome s a y n → y.kind = .store → (y.pcs.map fun q => q.va).Nodup → Gives (.homeAccess a 0) s fun t =>
      (∀ q ∈ y.pcs, Memory.get t.phys (State.leafAddr l q.va) = mixByte (Memory.get s.phys (State.leafAddr l q.va)) q.val q.mask) ∧
      (∀ b, (∀ q ∈ y.pcs, State.leafAddr l q.va ≠ b) → Memory.get t.phys b = Memory.get s.phys b) ∧
      (¬(y.rl = true ∧ y.scope = 4) → (t.elem a).memq = [] ∧ Sends1 (back n) t here (.ack y.org 0)) ∧
      (y.rl = true → y.scope = 4 → t.net = (back n).net ∧ (t.elem a).memq = [{ y with done := [line], xl := xl }]) ∧
      (l.va % 128 = 0 → l.pa % 128 = 0 → let n := State.leafAddr l (128 * line) / 128
        (∃ g < 4, nth (s.slices.get {} (homeSlice (128 * n))).ways g .off = .on) → ∃ z ∈ (t.slices.get {} (homeSlice (128 * n))).lines, z.line = n ∧ z.dirty = true)) ∧
    (Going s a y → y.kind = .store → (∀ q ∈ y.pcs, q.va / 128 ∈ y.done) → (∀ w ∈ s.hostq, ¬(w.elem = a ∧ w.seq = y.org.seq)) → Gives (.homeAccess a 0) s fun t =>
      t.phys = s.phys ∧ (t.elem a).memq = [] ∧ Sends1 s t here (.ack y.org 0)) ∧
    (∀ line l c n, OneLine y xl line l → AtHome s a y n → y.kind = .load c → s.poison = [] → Gives (.homeAccess a 0) s fun t =>
      t.phys = s.phys ∧ (t.elem a).mem = (s.elem a).mem ∧ (t.elem a).memq = [] ∧
      Sends1 (back n) t here (.globRep y.org y.kind (y.pcs.map fun q => { q with val := Memory.get s.phys (State.leafAddr l (128 * line) + q.va % 128) }))) ∧
    (∀ line l c z, OneLine y xl line l → going → y.kind = .load c → y.aq = false → s.rcLine (clusNo a) ts line = some z → z.bad = [] → Gives (.homeAccess a 0) s fun t =>
      t.phys = s.phys ∧ t.slices = s.slices ∧ (t.elem a).mem = (s.elem a).mem ∧ (t.elem a).memq = [] ∧
      Sends1 s t here (.globRep y.org y.kind (y.pcs.map fun q => { q with val := nth z.data (q.va % 128) 0 }))) ∧
    (∀ line l op n, OneLine y xl line l → AtHome s a y n → y.kind = .atomic op → s.poison = [] → s.leafAgain (s.ownOf a y.org.ctx) (nth y.pcs 0 { va := 0 }).va l = l →
      let b := State.leafAddr l (nth y.pcs 0 { va := 0 }).va
      let w := op.ty.bits / 8
      let m := Memory.readN s.phys b w
      Gives (.homeAccess a 0) s fun t => ∃ u v : State, u = { back n with phys := u.phys, slices := u.slices } ∧
        Memory.readN u.phys b w = (op.apply m).1 % 2 ^ (8 * w) ∧ (∀ d, (d < b ∨ b + w ≤ d) → Memory.get u.phys d = Memory.get s.phys d) ∧
        v = (if (op.apply m).2.store = true ∨ (op.final = true ∧ y.org.e = true) then u.fpx y.org else u) ∧ t.phys = v.phys ∧
        Sends1 v t here (.ack y.org (BitVec.ofNat 64 (if op.fetch then m else 0)))) ∧
    (∀ va len, Going s a y → y.kind = .clean va len → Gives (.homeAccess a 0) s fun t => t.phys = s.phys ∧ (t.elem a).memq = [] ∧ Sends1 s t here (.ack y.org 0) ∧
      (∀ k, ∀ z ∈ (t.slices.get {} k).lines, z.dirty = true → z ∈ (s.slices.get {} k).lines) ∧
      ∀ k, ∀ l ∈ xl, l.tier ≠ 2 → l.va % 128 = 0 → l.pa % 128 = 0 → l.size % 128 = 0 →
        ∀ v, va ≤ v → v < va + len → l.va ≤ v → v < l.va + l.size → ∀ z ∈ (t.slices.get {} k).lines, z.line = State.leafAddr l v / 128 → z.dirty = false) ∧
    (∀ line l h n, OneLine y xl line l → AtHome s a y n → y.kind = .pref h → s.poison = [] → Gives (.homeAccess a 0) s fun t =>
      t.phys = s.phys ∧ t.net = (back n).net ∧ (t.elem a).memq = [])

/-- Translation: a miss that the quadrant's TLB answers fills the cluster's, any other asks the die's walkers and waits, an address beyond the space is XLATE_RANGE; a walk fills both TLBs of the cluster that
asked and tells the accesses that wait (R208, R210 to R213). -/
def Obligations.TranslationEvents : Prop :=
  (∀ s a y xl va, (s.elem a).memq = [y] → s.accGo a y = true → y.walk = false →
    let c := clusNo a
    let p := s.ownOf a y.org.ctx
    let quad := State.tlbHit (s.quads.get [] (State.quadNo c)) p va
    (s.lookAll c p y.xl y.needs = (xl, some (va, true)) → exec (.tlbMiss a 0) s = .next (s.accFault a y 0x50 va)) ∧
    (∀ l, s.lookAll c p y.xl y.needs = (xl, some (va, false)) → quad = some l → Gives (.tlbMiss a 0) s fun t =>
      (t.elem a).memq = [{ y with xl := xl ++ [l] }] ∧ (⟨p, s.tsOf c p, l⟩ : TlbEnt) ∈ (t.clus c).tlb ∧ (t.clus c).tlb.length ≤ max 256 (s.clus c).tlb.length ∧ t.phys = s.phys) ∧
    (s.lookAll c p y.xl y.needs = (xl, some (va, false)) → quad = none → Gives (.tlbMiss a 0) s fun t =>
      (t.elem a).memq = [{ y with xl := xl, walk := true }] ∧ (∃ r ∈ (t.pools.get {} (State.poolNo c)).reqs, r.own = p ∧ r.page = va / 2 ^ 16 ∧ c ∈ r.clus) ∧ t.phys = s.phys)) ∧
  (∀ s pool r c l, (s.pools.get {} pool).reqs = [r] → r.clus = [c] → r.on = true ∨ (0 < (s.part r.own).quota ∧ r.own < 128) → s.dev.inject = [] →
    s.xlate r.own (r.page * 2 ^ 16) = .ok l → Gives (.pageWalk pool 0) s fun t =>
      (t.pools.get {} pool).reqs = [] ∧ (⟨r.own, s.tsOf c r.own, l⟩ : TlbEnt) ∈ (t.clus c).tlb ∧ (⟨r.own, s.tsOf c r.own, l⟩ : TlbEnt) ∈ t.quads.get [] (State.quadNo c) ∧
      t.phys = s.phys ∧ t.net = s.net ∧
      ∀ a y, (s.elems.rows.map fun x => x.1).Nodup → clusNo a = c → (s.elem a).memq = [y] → y.walk = true → s.ownOf a y.org.ctx = r.own → s.accPage a y = some r.page →
        (t.elem a).memq = [{ y with walk := false, xl := y.xl ++ [l] }])

/-- Futures: FUTN empties a word that is empty or resolved and is refused on a registered one; FRES resolves an empty word with its value and E, and a registered one, whose continuation is sent the value; FREG
registers its continuation in an empty word, and is sent the value of a resolved one, which it leaves. A FRES on a resolved word poisons it and a FREG on a registered one sends the code 0x5B to its own
continuation, each with its record. Each is acknowledged with its code, 0 unless R229 names a fault (R228, R229, R248). For requests that are at their home slice. -/
def Obligations.FutureEvents : Prop :=
  ∀ (s : State) (a : Nat) (y : Acc) (xl : List Leaf) (line : Nat) (l : Leaf) (n : Nat), Sole s a y xl → AtHome s a y n → OneLine y xl line l → s.poison = [] → s.memWf = true →
    s.leafAgain (s.ownOf a y.org.ctx) (nth y.pcs 0 { va := 0 }).va l = l →
    let va := (nth y.pcs 0 { va := 0 }).va
    let b := State.leafAddr l va
    let w := Memory.readN s.phys b 8
    let queue (t : State) : Prop := (t.elem a).memq = (if y.aq then [{ y with out := true }] else []) ∧ (t.elem a).mem = (s.elem a).mem
    let done (t : State) (v : Nat) : Prop := Memory.readN t.phys b 8 = v ∧ (∀ d, (d < b ∨ b + 8 ≤ d) → Memory.get t.phys d = Memory.get s.phys d) ∧ queue t
    let s1 := s.dropFlight n
    let acked (t : State) : Prop := Sends1 s1 t (.elem y.org.elem) (.ack y.org 0)
    -- a token for a continuation goes out before the acknowledgement
    let told (t : State) (k : Cont) (d : Nat) (v : DWord) (e : Bool) : Prop := ∃ f g tok, t.net = s1.net ++ [f, g] ∧ f.dst = .elem d ∧ f.msg = .tok tok ∧ tok.payload = v ∧ tok.e = e ∧
      tok.fh = k.fh ∧ tok.node = k.node ∧ tok.port = k.port ∧ g.msg = .ack y.org 0
    -- the fault's record goes to the ring, the word stays and the acknowledgement carries the code
    let refused (t : State) (code : Nat) : Prop := ∃ u : State, u = { s1 with slices := u.slices } ∧ Sends1 (u.futRec y.org code va) t (.elem y.org.elem) (.ack y.org (BitVec.ofNat 64 code)) ∧
      t.phys = (u.futRec y.org code va).phys ∧ queue t
    (y.kind = .futn → w / 2 ^ 62 = 0 → Gives (.futnApply a 0) s fun t => done t w ∧ acked t) ∧
    (y.kind = .futn → w / 2 ^ 62 = 1 → Gives (.futnApply a 0) s fun t => refused t 0x5C) ∧
    (y.kind = .futn → 2 ≤ w / 2 ^ 62 → Gives (.futnApply a 0) s fun t => done t 0 ∧ acked t) ∧
    (∀ v, y.kind = .fres v → w / 2 ^ 62 = 0 → Gives (.fresApply a 0) s fun t => done t (2 ^ 63 + y.org.e.toNat * 2 ^ 61 + v.toNat) ∧ acked t) ∧
    (∀ v d, y.kind = .fres v → w / 2 ^ 62 = 1 → let k : Cont := ⟨BitVec.ofNat 32 (w / 2 ^ 14 % 2 ^ 32), w / 4 % 4096, w % 4⟩
      s.absOf y.org.elem y.org.ctx (hElem k.fh) = some d → Gives (.fresApply a 0) s fun t =>
        done t (2 ^ 63 + y.org.e.toNat * 2 ^ 61 + v.toNat) ∧ told t k d (v.setWidth 64) y.org.e) ∧
    (∀ v, y.kind = .fres v → w / 2 ^ 62 = 2 → Gives (.fresApply a 0) s fun t => ∃ u : State, u = { s1 with slices := u.slices } ∧
      Sends1 (u.futRec y.org 0x5A va) t (.elem y.org.elem) (.ack y.org 0x5A) ∧ Memory.readN t.phys b 8 = 3 * 2 ^ 62 + w / 2 ^ 61 % 2 * 2 ^ 61 + 0x5A * 2 ^ 32 + w % 2 ^ 32 ∧
      (∀ d, (d < b ∨ b + 8 ≤ d) → Memory.get t.phys d = Memory.get (u.futRec y.org 0x5A va).phys d) ∧ queue t) ∧
    (∀ v, y.kind = .fres v → w / 2 ^ 62 = 3 → Gives (.fresApply a 0) s fun t => refused t 0x5A) ∧
    (∀ k, y.kind = .freg k → w / 2 ^ 62 = 0 → Gives (.fregApply a 0) s fun t =>
      done t (2 ^ 62 + k.fh.toNat * 2 ^ 14 + k.node % 4096 * 4 + k.port % 4) ∧ acked t) ∧
    (∀ k d, y.kind = .freg k → w / 2 ^ 62 = 1 → s.absOf y.org.elem y.org.ctx (hElem k.fh) = some d → Gives (.fregApply a 0) s fun t => ∃ u r : State, u = { s1 with slices := u.slices } ∧
      r = u.futRec y.org 0x5B va ∧ t.phys = r.phys ∧ queue t ∧ ∃ f g tok, t.net = r.net ++ [f, g] ∧ f.dst = .elem d ∧ f.msg = .tok tok ∧ tok.payload = 0x5B ∧ tok.e = true ∧
        tok.fh = k.fh ∧ tok.node = k.node ∧ tok.port = k.port ∧ g.msg = .ack y.org 0) ∧
    (∀ k d, y.kind = .freg k → w / 2 ^ 62 = 2 → s.absOf y.org.elem y.org.ctx (hElem k.fh) = some d → Gives (.fregApply a 0) s fun t =>
      done t w ∧ told t k d (BitVec.ofNat 64 (w % 2 ^ 32)) (w / 2 ^ 61 % 2 == 1)) ∧
    (∀ k d, y.kind = .freg k → w / 2 ^ 62 = 3 → s.absOf y.org.elem y.org.ctx (hElem k.fh) = some d → Gives (.fregApply a 0) s fun t =>
      done t w ∧ told t k d (BitVec.ofNat 64 (w / 2 ^ 32 % 2 ^ 8)) true)

/-- Copy engines: a COPY without conversion between pages of module memory moves the bytes up to the end of the source's line or of the destination's, and is finished after its last; a GATH brings the elements of its next
line, in rising order, a SCAT writes its next lane and is answered with payload 0 (log 58, DEDUCED); a finished command leaves the engine, drops the lines it wrote from its cluster's read cache where it releases, and is answered with its count, its data or 0, or with the
poison token of its fault (R215, R226, R239 to R241). -/
def Obligations.EngineEvents : Prop :=
  let plain (s : State) (xl : List Leaf) : Prop := (∀ l ∈ xl, l.tier ≠ 2 ∧ l.nw = false ∧ l.va % 2 ^ 16 = 0 ∧ l.size % 2 ^ 16 = 0) ∧ s.dev.inject = [] ∧ s.poison = [] ∧ s.memWf = true
  let at_ (xl : List Leaf) (v : Nat) : Nat := State.leafAddr (State.leafOf xl v) v
  let apart (dl sl : Bool) (dst src : DWord) (n : Nat) : Prop := dl ≠ sl ∨ src.toNat + n ≤ dst.toNat ∨ dst.toNat + n ≤ src.toNat
  (∀ s c y ts ty rm dst src n rng xl m, (s.clus c).eng = [y] → s.engGo c 0 y = true → y.kind = .copy false false false ts ty rm dst src n rng → y.aq = true → y.at_ = 0 →
    s.lookAll c (s.ownOf y.org.elem y.org.ctx) y.xl (State.engNeeds y) = (xl, none) → plain s xl → m = min n (min (128 - src.toNat % 128) (128 - dst.toNat % 128)) → 0 < n →
    apart false false dst src n → (∀ i < m, ∀ j < m, at_ xl (dst.toNat + i) = at_ xl (dst.toNat + j) → i = j) → Gives (.engineCommand c 0) s fun t =>
      (∀ i < m, Memory.get t.phys (at_ xl (dst.toNat + i)) = Memory.get s.phys (at_ xl src.toNat + i)) ∧
      (∀ b, (∀ i < m, at_ xl (dst.toNat + i) ≠ b) → Memory.get t.phys b = Memory.get s.phys b) ∧
      ∃ z, (t.clus c).eng = [z] ∧ z.at_ = m ∧ z.written = y.written + m ∧ z.finished = y.finished) ∧
  (∀ s c y dl sl ts ty rm dst src n rng, (s.clus c).eng = [y] → s.engGo c 0 y = true → y.kind = .copy dl sl false ts ty rm dst src n rng → y.at_ = n → apart dl sl dst src n →
    Gives (.engineCommand c 0) s fun t => t = { s with clusters := t.clusters } ∧ (t.clus c).eng = [{ y with started := true, finished := true }]) ∧
  (∀ s c y k pcs xl q, (s.clus c).eng = [y] → s.engGo c 0 y = true → y.kind = .gath k pcs → y.aq = true → s.lookAll c (s.ownOf y.org.elem y.org.ctx) y.xl (State.engNeeds y) = (xl, none) → plain s xl →
    ∀ lines : List Nat, lines.Pairwise (fun m n => m < n) → (∀ n, n ∈ lines ↔ ∃ r ∈ pcs, r.va / 128 = n) →
    let line := nth lines y.at_ 0
    (pcs.find? fun q => q.va / 128 == line) = some q → let l := State.leafOf xl q.va
    Gives (.engineCommand c 0) s fun t => t.phys = s.phys ∧ t.elems = s.elems ∧ ∃ z, (t.clus c).eng = [z] ∧ z.at_ = y.at_ + 1 ∧ z.finished = decide (lines.length ≤ y.at_ + 1) ∧
      z.kind = .gath k (pcs.map fun r => if r.va / 128 = line then { r with val := Memory.get s.phys (State.leafAddr l (line * 128) + r.va % 128) } else r)) ∧
  (∀ s c y lanes xl, (s.clus c).eng = [y] → s.engGo c 0 y = true → y.kind = .scat lanes → s.lookAll c (s.ownOf y.org.elem y.org.ctx) y.xl (State.engNeeds y) = (xl, none) → plain s xl →
    let ps := nth lanes y.at_ []
    (ps.map fun q => at_ xl q.va).Nodup → (∀ q ∈ ps, ∃ l ∈ xl, l.va ≤ q.va ∧ q.va < l.va + l.size) → Gives (.engineCommand c 0) s fun t => t.elems = s.elems ∧
      (∀ q ∈ ps, Memory.get t.phys (at_ xl q.va) = mixByte (Memory.get s.phys (at_ xl q.va)) q.val q.mask) ∧
      (∀ b, (∀ q ∈ ps, at_ xl q.va ≠ b) → Memory.get t.phys b = Memory.get s.phys b) ∧
      (t.clus c).eng = [{ y with started := true, at_ := y.at_ + 1, xl := xl, finished := decide (lanes.length ≤ y.at_ + 1) }]) ∧
  (∀ s c y rest p, (s.clus c).eng = y :: rest → y.finished = true → p = s.ownOf y.org.elem y.org.ctx → (s.part p).frozen = false →
    let s1 := s.modClus c fun x => { x with eng := rest }
    let s2 := if y.rl then s1.rcDrop c (s1.tsOf c p) y.destLines else s1
    (∀ code, y.poison = some code → (∀ dl sl cv ts ty rm dst src n rng, y.kind = .copy dl sl cv ts ty rm dst src n rng → cv = false ∧ y.at_ ≤ n ∧ apart dl sl dst src n) →
      exec (.engineCompletion c 0) s = .next (s2.poisonReply y.org y.org.cont code)) ∧
    (∀ lanes, y.poison = none → y.kind = .scat lanes → exec (.engineCompletion c 0) s = .next (s2.memReply y.org (.ack y.org 0))) ∧
    (∀ k pcs, y.poison = none → y.kind = .gath k pcs → exec (.engineCompletion c 0) s = .next (s2.memReply y.org (.globRep y.org (.load k) pcs))) ∧
    (∀ dl sl cv ts ty rm dst src n rng, y.poison = none → y.kind = .copy dl sl cv ts ty rm dst src n rng →
      let o : Org := { y.org with e := y.org.e || y.exc }
      exec (.engineCompletion c 0) s = .next ((if cv = true ∧ n ≠ 0 ∧ o.e = true then s2.fpx o else s2).memReply o (.ack o (BitVec.ofNat 64 (y.written % 2 ^ 32))))))

/-- A section's commit: the instance with the cursor's key that has closed stores its buffer, so that every local store then holds what the instance saw, sends its held tokens and moves the cursor on; the younger
instances of the section that have read a bank it stored to are squashed (the signature bit and the squash are log 45, DEDUCED), and its STCs are answered. Of an STC that its target refuses at the commit
(log 71, DEDUCED) no byte is stored, and its issuer gets the fault (R154, R187, R231, R232). -/
def Obligations.SectionCommits : Prop :=
  ∀ (s : State) (a k p j : Nat) (x : Sect), s.memWf = true → (s.elem a).sects[k]? = some x → s.regionOf a x.ctx = some (p, j) → x.closed = true →
    x.key = (s.region p j).cursors.get 0 (16 * x.ctx + x.num) → (∀ y ∈ (s.elem a).memq, y.org.fh ≠ x.fh) → (s.part p).frozen = false →
    -- what the commit has done before younger instances and answers: `y` is the instance with the bytes that are stored
    let committed (u : State) (y : Sect) : Prop := u = { s with elems := u.elems, regions := u.regions } ∧ (u.elem a).sects = (s.elem a).sects.eraseIdx k ∧
      (u.elem a).sendq = (s.elem a).sendq ++ x.hold ∧ (u.region p j).cursors.get 0 (16 * x.ctx + x.num) = x.key + 1 ∧
      (∀ d la, la < 2 ^ 19 → Memory.get (u.elem d).mem la = sectByte y d la (Memory.get (s.elem d).mem la)) ∧ ∀ b, (u.elem b).handles = (s.elem b).handles
    let victims (u : State) (vs : List (Nat × Sect)) : Prop := ∀ b y, (b, y) ∈ vs ↔
      b ∈ u.regionElems p j ∧ y ∈ (u.elem b).sects ∧ y.num = x.num ∧ y.ctx = x.ctx ∧ x.key < y.key ∧ y.wait = false ∧ sectHits x y.sig = true
    let target (r : Org × Nat × Nat × Nat) : Option Nat := s.localCheck r.2.1 r.1.ctx (((x.buf.drop r.2.2.1).take r.2.2.2).map fun b => b.1 % 2 ^ 19)
    ((∀ r ∈ x.stcs, target r = none) → Gives (.sectionCommit a k) s fun t => ∃ u vs, committed u x ∧ victims u vs ∧
      t = x.stcs.foldl (fun t r => t.replyTo r.1 0 r.1.e) (vs.foldl (fun s v => s.squash v.1 v.2 false) u)) ∧
    ∀ r c, x.stcs = [r] → target r = some c → Gives (.sectionCommit a k) s fun t => ∃ u vs, committed u { x with buf := x.buf.take r.2.2.1 ++ x.buf.drop (r.2.2.1 + r.2.2.2) } ∧ victims u vs ∧
      ∃ v, v = vs.foldl (fun s v => s.squash v.1 v.2 false) u ∧ t = ((v.freeReq a r.1.slot).countRefused r.1).fault r.1 c

/-- Upkeep: a snapshot takes the least key that waits, a broadcast makes it the horizon and promotes what of its partition waits at or below it, a waking third is on and reads as zero, a patrol read corrects what it
can and ends the third's partition on what it cannot, logs either, and tells the PF alone, with context 0, of a third without a partition (log 70, DEDUCED); a waking way group is on (R124, R125, R129, R132, R155, R204, R304). -/
def Obligations.UpkeepEvents : Prop :=
  (∀ s p j, let g := s.region p j
    g.used = true → g.snap = none → g.snapAt + 512 ≤ s.cycle → (s.part p).frozen = false → Gives (.horizonSnapshot p j) s fun t => t = { s with regions := t.regions } ∧
      ∃ k, t.region p j = { g with snap := some (k, s.cycle), snapAt := s.cycle } ∧ (∀ x, k = some x → x ∈ s.waitingKeys p j) ∧ ∀ y ∈ s.waitingKeys p j, ∃ x, k = some x ∧ x ≤ y) ∧
  (∀ s p j h c, (s.region p j).snap = some (h, c) → (s.part p).frozen = false → Gives (.horizonBroadcast p j) s fun t =>
    (t.region p j).horizon = h ∧ (t.region p j).snap = none ∧ (∀ b, (t.elem b).mem = (s.elem b).mem ∧ (t.elem b).reqs = (s.elem b).reqs) ∧
    ∃ l, t.net = s.net ++ l ∧ (∀ f ∈ l, ∃ k a u i n pool key, h = some k ∧ f.msg = .promote a i u n pool key ∧ key ≤ k) ∧
      ∀ k, h = some k → ∀ a ∈ s.regionElems p j, ∀ i < 8, ∀ r, nth (s.elem a).reqs i none = some r → s.ownOf a r.ctx = p → (r.kind = .alloc ∨ r.kind = .frame ∨ r.kind = .idle) → r.key ≤ k →
        ∃ f ∈ l, f.dst = .elem r.target ∧ f.msg = .promote a i none r.ctx r.pool r.key) ∧
  (∀ s a k u, s.memWf = true → nth (s.elem a).thirds k .on = .waking u → u ≤ s.now → Gives (.thirdWakeDone a k) s fun t => (t.elem a).thirds = setAt (s.elem a).thirds k .on ∧
    (∀ b, b / 0x20000 = k → Memory.get (t.elem a).mem b = 0) ∧ (∀ b, b / 0x20000 ≠ k → Memory.get (t.elem a).mem b = Memory.get (s.elem a).mem b) ∧ ∀ b, b ≠ a → t.elem b = s.elem b) ∧
  (∀ s a k, k < 3 → nth (s.elem a).thirds k .off = .on →
    ((∀ f ∈ (s.elem a).ecc, f.array ≠ 0 ∨ f.at_ / 0x4000 ≠ k) → exec (.patrolScrub a k) s = .next s) ∧
    ∀ f, (s.elem a).ecc = [f] → f.array = 0 → f.at_ / 0x4000 = k → (s.elem a).errlog = [] →
      let logged (u : State) (c : Nat) : Prop := (∀ b, b ≠ a → u.elem b = s.elem b) ∧ ∃ syn, u.elem a = { s.elem a with
        ecc := if f.mode = .sticky ∨ (f.mode = .stored ∧ f.ue = true) then [f] else [], errlog := [⟨0, f.ue, false, c, syn, 1, f.at_⟩] }
      (∀ g, s.tenantOf a k = some g → let c := s.ctxNow a g
        let p := s.ownOf a c
        (f.ue = false → (s.hedge (clusNo a) c).v = true → Gives (.patrolScrub a k) s fun t => logged t c ∧ (t.fn p).vcesta.getLsbD 0 = true) ∧
        (f.ue = true → Gives (.patrolScrub a k) s fun t => ∃ u : State, u = { s with elems := u.elems } ∧ logged u c ∧ t = u.fatal p { elem := a, ctx := c } 0x33)) ∧
      (s.tenantOf a k = none → Gives (.patrolScrub a k) s fun t => logged t 0 ∧ ∃ u : State, u = { s with elems := u.elems } ∧ ∃ r, t = u.ringPush 128 r)) ∧
  (∀ s c g u, nth (s.clus c).ways g .on = .waking u → u ≤ s.now → Gives (.waysWakeDone 1 c g) s fun t => t.clus c = { s.clus c with ways := setAt (s.clus c).ways g .on } ∧ t.elems = s.elems) ∧
  (∀ s k g u, nth (s.slices.get {} k).ways g .on = .waking u → u ≤ s.now → Gives (.waysWakeDone 0 k g) s fun t =>
    t.slices.get {} k = { s.slices.get {} k with ways := setAt (s.slices.get {} k).ways g .on } ∧ t.phys = s.phys)

/-- A function's registers: a kick moves the kept index forward where it names at most the ring's slots, QCTL enables, disables and resumes, other registers take their value, an 8-byte write is two
4-byte writes, low half first, and what the layout does not allow is ignored; a read gives what the layout names, zero where it reserves; an enable whose control block cannot be written leaves the queue off;
a due coalesced event and an unmasked vector send their message. A kick of a disabled queue, the indices of the records and what enabling clears are log 79, an unknown admin code that completes at once log 80
(both DEDUCED) (R254 to R258, R283, R302 to R304, R329, R356). -/
def Obligations.RegisterEvents : Prop :=
  (∀ s f q w, f ≤ 128 → q < 16 → let x := s.queue f q
    let d := w - x.kept
    (d = 0 ∨ 2 ^ 31 ≤ d.toNat → exec (.kickWrite none f q w) s = .next s) ∧
    (d ≠ 0 → d.toNat < 2 ^ 31 → 2 ^ (x.sz + 4) < (w - x.read).toNat → exec (.kickWrite none f q w) s = .next (s.ringPush f (State.queueRec 0x72 q x.read 0))) ∧
    (d ≠ 0 → d.toNat < 2 ^ 31 → (w - x.read).toNat ≤ 2 ^ (x.sz + 4) → Gives (.kickWrite none f q w) s fun t => t = { s with fns := t.fns } ∧ t.queue f q = { x with kept := w, empty := false } ∧
      ((s.part (s.queueSlot f q)).frozen = true → (t.fn f).pending.getLsbD q = true) ∧ ((s.part (s.queueSlot f q)).frozen = false → (t.fn f).pending = (s.fn f).pending))) ∧
  (∀ s n d o g q w p f q2 w2, Arrives s n d (.kick o g q w) p →
    let s1 := s.dropFlight n
    ((s1.queue g q).en = false → exec (.kickWrite (some n) f q2 w2) s = .next (s1.ringPush g (State.queueRec 0x29 q 0 0))) ∧
    ((s1.queue g q).en = true → g ≤ 128 → q < 16 → exec (.kickWrite (some n) f q2 w2) s = exec (.kickWrite none g q w) s1)) ∧
  (∀ s f q v s2, f ≤ 128 → q < 16 → let x := s.queue f q
    let n := v.toNat
    let y : Queue := { x with prio := n / 2 ^ 12 % 8, vec := n / 2 ^ 8 % 8 }
    let z : Queue := { y with sz := n / 2 ^ 16 % 16, tslot := if f = 128 then n / 2 ^ 20 % 128 else x.tslot }
    let become (q1 : Queue) : Prop := (s.modQueue f q fun _ => q1).qcbWrite f q = .ok s2
    (v.getLsbD 31 = true → x.en = false → z.sz ≤ 12 → (f = 128 → (s.part z.tslot).live = true) →
      become { z with en := true, state := 1, code := 0, kept := 0, read := 0, fence := 0, passed := 0, empty := false, log := [], logOvf := false, replay := [] } →
      exec (.queueEnable f q v) s = .next s2) ∧
    (∀ c, v.getLsbD 31 = true → x.en = false → z.sz ≤ 12 → (f = 128 → (s.part z.tslot).live = true) →
      (s.modQueue f q fun _ => { z with en := true, state := 1, code := 0, kept := 0, read := 0, fence := 0, passed := 0, empty := false, log := [], logOvf := false, replay := [] }).qcbWrite f q = .error c →
      exec (.queueEnable f q v) s = .next (let u := s.modQueue f q fun _ => z
        u.cpFault (u.queueSlot f q) f c x.qcb)) ∧
    (v.getLsbD 31 = true → x.en = false → 12 < z.sz → exec (.queueEnable f q v) s = .next (s.modQueue f q fun _ => z)) ∧
    (v.getLsbD 31 = false → x.en = true → become { y with en := false, state := 0 } → exec (.queueDisable f q v) s = .next s2) ∧
    (v.getLsbD 31 = true → v.getLsbD 0 = true → x.en = true → (x.state = 2 ∨ x.state = 3) → become { y with empty := false, state := if x.replay = [] then 1 else 4 } →
      exec (.queueResume f q v) s = .next s2) ∧
    (v.getLsbD 31 = true → v.getLsbD 0 = true → x.en = true → x.state ≠ 2 → x.state ≠ 3 → exec (.queueResume f q v) s = .next (s.modQueue f q fun _ => y))) ∧
  (∀ s f (v : DWord), f ≤ 128 → s.dev.mode ≠ .off →
    let w : Word := v.setWidth 32
    let put (page off : Nat) : Instr := .registerWrite f page off 4 v
    (∀ q < 16, exec (put 0 (16 * q)) s = exec (.kickWrite none f q w) s) ∧
    (∀ q < 16, let x := s.queue f q
      let c := put 0 (0x210 + 64 * q)
      (w.getLsbD 31 = true → x.en = false → exec c s = exec (.queueEnable f q w) s) ∧ (w.getLsbD 31 = false → x.en = true → exec c s = exec (.queueDisable f q w) s) ∧
      (w.getLsbD 31 = true → w.getLsbD 0 = true → x.en = true → exec c s = exec (.queueResume f q w) s)) ∧
    (∀ k < 8, Gives (put 0 (0x140 + 8 * k)) s fun t => t = { s with fns := t.fns } ∧ (t.fn f).icbs.get {} k = { (s.fn f).icbs.get {} k with time := w.toNat / 2 ^ 16, cnt := w.toNat % 2 ^ 16 }) ∧
    Gives (put 1 0x14) s (fun t => t = { s with fns := t.fns } ∧ (t.fn f).ering = { (s.fn f).ering with rd := w }) ∧
    Gives (put 1 0x40) s (fun t => t = { s with fns := t.fns } ∧ (t.fn f).vuesta = (s.fn f).vuesta &&& ~~~w) ∧
    Gives (put 1 0x44) s (fun t => t = { s with fns := t.fns } ∧ (t.fn f).vuemsk = w) ∧
    Gives (put 1 0x50) s (fun t => t = { s with fns := t.fns } ∧ (t.fn f).vcesta = (s.fn f).vcesta &&& ~~~w) ∧
    Gives (put 1 0x54) s (fun t => t = { s with fns := t.fns } ∧ (t.fn f).vcemsk = w) ∧
    (f = 128 → ∀ k < 16, Gives (put 2 (4 * k)) s fun t => t = { s with dev := t.dev } ∧ t.dev.admin = { s.dev.admin with cmd := setAt s.dev.admin.cmd k w }) ∧
    (f = 128 → s.dev.admin.busy = false → let c := (nth s.dev.admin.cmd 0 0).toNat % 256
      (1 ≤ c → c ≤ 0x16 → Gives (put 2 0x40) s fun t => t = { s with dev := t.dev } ∧ t.dev.admin = { s.dev.admin with busy := true, run := s.dev.admin.cmd, since := s.t7 }) ∧
      (c = 0 ∨ 0x16 < c → Gives (put 2 0x40) s fun t => t.dev.admin.busy = false ∧ t.dev.admin.result = 0x91)) ∧
    (f ≠ 128 → ∀ off, exec (put 2 off) s = .next s) ∧
    (∀ page off, off % 8 = 0 → off < 0x1000 → ∃ t, exec (put page off) s = .next t ∧ exec (.registerWrite f page (off + 4) 4 (v >>> 32)) t = exec (.registerWrite f page off 8 v) s) ∧
    (∀ page off size, 0x1000 ≤ off ∨ (size ≠ 4 ∧ size ≠ 8) ∨ off % size ≠ 0 → exec (.registerWrite f page off size v) s = .next s)) ∧
  (∀ (s : State) f, f ≤ 128 → s.dev.mode ≠ .off →
    let rd (page off x : Nat) : Prop := s.registerRead f page off 4 = some x
    let wide (page off x : Nat) : Prop := s.registerRead f page off 8 = some x
    (∀ q < 16, let x := s.queue f q
      rd 0 (16 * q) x.kept.toNat ∧ (∀ k, k = 4 ∨ k = 8 ∨ k = 12 → rd 0 (16 * q + k) 0) ∧ wide 0 (0x200 + 64 * q) (x.qbase % 2 ^ 64) ∧ wide 0 (0x208 + 64 * q) (x.qcb % 2 ^ 64) ∧
      (x.tslot < 128 → x.sz < 16 → x.prio < 8 → x.vec < 8 → rd 0 (0x210 + 64 * q) (2 ^ 31 * x.en.toNat + 2 ^ 20 * x.tslot + 2 ^ 16 * x.sz + 2 ^ 12 * x.prio + 2 ^ 8 * x.vec)) ∧
      (x.state < 8 → x.code < 256 → rd 0 (0x214 + 64 * q) (2 ^ 29 * x.state + x.code)) ∧ ∀ k < 64, 24 ≤ k → k % 4 = 0 → rd 0 (0x200 + 64 * q + k) 0) ∧
    rd 0 0x100 (s.fn f).pending.toNat ∧
    (∀ v < 8, let i := (s.fn f).icbs.get {} v
      i.time < 2 ^ 16 → i.cnt < 2 ^ 16 → i.pend < 2 ^ 16 → rd 0 (0x140 + 8 * v) (2 ^ 16 * i.time + i.cnt) ∧ rd 0 (0x144 + 8 * v) i.pend) ∧
    (∀ r b, (r = (s.fn f).ering ∧ b = 0) ∨ (r = (s.fn f).mring ∧ b = 0x20) → wide 1 b (r.base % 2 ^ 64) ∧ (r.sz < 16 → rd 1 (b + 8) (2 ^ 31 * r.en.toNat + r.sz)) ∧ rd 1 (b + 0x10) r.wr.toNat ∧ rd 1 (b + 0x14) r.rd.toNat) ∧
    rd 1 0x18 (s.fn f).ering.ovf.toNat ∧ rd 1 0x40 (s.fn f).vuesta.toNat ∧ rd 1 0x44 (s.fn f).vuemsk.toNat ∧ rd 1 0x50 (s.fn f).vcesta.toNat ∧ rd 1 0x54 (s.fn f).vcemsk.toNat ∧
    ((s.fn f).verrvec < 8 → rd 1 0x58 (s.fn f).verrvec) ∧ ((s.fn f).vfep < 256 → rd 1 0x60 (s.fn f).vfep) ∧
    (f = 128 → (∀ k < 16, rd 2 (4 * k) (nth s.dev.admin.cmd k 0).toNat) ∧ (s.dev.admin.result < 256 → rd 2 0x48 (2 ^ 31 * s.dev.admin.busy.toNat + s.dev.admin.result)) ∧
      rd 2 0x4C s.dev.admin.detail.toNat ∧ rd 2 0x50 s.dev.admin.vec.toNat ∧
      ∀ p < 128, rd 2 (0x400 + 8 * p) (s.part p).fqw.toNat ∧ rd 2 (0x404 + 8 * p) (s.part p).fqr.toNat) ∧
    (f ≠ 128 → ∀ off, off < 0x1000 → off % 4 = 0 → rd 2 off 0) ∧
    (∀ off, off % 4 = 0 → (0x104 ≤ off ∧ off < 0x140) ∨ (0x180 ≤ off ∧ off < 0x200) ∨ (0x600 ≤ off ∧ off < 0x1000) → rd 0 off 0) ∧
    (∀ off, off % 4 = 0 → 0x64 ≤ off → off < 0x1000 → rd 1 off 0) ∧
    (∀ page off lo hi, off % 8 = 0 → rd page off lo → rd page (off + 4) hi → wide page off (lo + 2 ^ 32 * hi)) ∧
    ∀ page off size, 0x1000 ≤ off ∨ (size ≠ 4 ∧ size ≠ 8) ∨ off % size ≠ 0 → s.registerRead f page off size = none) ∧
  (∀ s f v, let i := (s.fn f).icbs.get {} v
    i.pend ≠ 0 → (max 1 i.cnt ≤ i.pend ∨ (i.time ≠ 0 ∧ i.since + 7000 * i.time ≤ s.t7)) → Gives (.icbMessage f v) s fun t => ((t.fn f).icbs.get {} v).pend = 0 ∧
      ((s.fn f).vmask.get true v = false → t.msix = s.msix ++ [(f, v)]) ∧ ((s.fn f).vmask.get true v = true → t.msix = s.msix ∧ (t.fn f).vpend.get false v = true)) ∧
  (∀ s f v, Gives (.msixUnmask f v) s fun t => t = { s with fns := t.fns, msix := t.msix } ∧ (t.fn f).vmask.get true v = false ∧
    t.msix = s.msix ++ (if (s.fn f).vpend.get false v = true then [(f, v)] else []))

/-- Packets start: a core serves a function's ready queue of the highest priority, or one passed over 32 times; slot READ is read, judged, its header written back with V = 0, READ moves past the packet, which
runs; a malformed packet halts its queue. A replay starts the logged packets anew. A head with V = 0 is not read again until a kick or a
slot read finds it valid (log 81, DEDUCED). LNCH writes its slots, the first header last, or answers QUEUE_OFF, QSLOT_BUSY, or, before the latter, with the code of a slot that cannot be translated or read, which
is recorded (log 82, DEDUCED) (R261 to R263, R276, R277, R306, R330). -/
def Obligations.PacketStarts : Prop :=
  (∀ s f q s1 bs, let x := s.queue f q
    x.en = true → x.state = 1 → x.kept ≠ x.read → x.empty = true → s.noStart (s.queueSlot f q) = false → s.gget (s.queueSlot f q) (State.slotVa x x.read) 4 = .ok (s1, bs) →
    (leNat bs / 2 ^ 31 % 2 = 1 → exec (.ringSlotRead f q) s = .next (s1.modQueue f q fun y => { y with empty := false })) ∧
    (leNat bs / 2 ^ 31 % 2 = 0 → exec (.ringSlotRead f q) s = .next s1)) ∧
  (∀ (s : State) (f q : Nat), s.chooseQueue f (s.readyQueues f) = some q → q ∈ s.readyQueues f ∧
    ((∃ r ∈ s.readyQueues f, 32 ≤ (s.queue f r).passed) → 32 ≤ (s.queue f q).passed) ∧
    ((∀ r ∈ s.readyQueues f, (s.queue f r).passed < 32) → ∀ r ∈ s.readyQueues f, (s.queue f r).prio ≤ (s.queue f q).prio)) ∧
  (∀ s core f q y, core < 6 → q < 16 → s.fns.rows = [(f, y)] → (f = 128 ∧ core = 0 ∨ f ≠ 128 ∧ f % 6 = core) → (∀ r < 16, r ≠ q → (s.queue f r).en = false) →
    let x := s.queue f q
    let p := s.queueSlot f q
    let busy : Prop := ∃ r ∈ s.pkts.rows, r.2.fn = f ∧ r.2.q = q ∧ r.2.graph = none
    let fresh (u : State) : State := (u.modFn f fun x => { x with pending := x.pending &&& ~~~(BitVec.ofNat 16 (2 ^ q)) }).decided core f
    x.en = true → s.noStart p = false →
    (∀ s1 s2 h bs, s.dev.inject = [] → x.state = 1 → x.kept ≠ x.read → x.empty = false → s.gget p (State.slotVa x x.read) 4 = .ok (s1, h) → hdrV (leNat h) = true →
      (hdrB (leNat h) = true → ¬busy) → (fresh s1).readPacket p x x.read = .ok (s2, bs) →
      (packetOk bs none = false → Gives (.startDecision core) s fun t => (t.queue f q).read = x.read ∧ (t.queue f q).state = 2 ∧ t.pkts = s.pkts) ∧
      (∀ s3, packetOk bs none = true → s2.gput p (State.slotVa x x.read) (leBytes 4 (leNat bs % 2 ^ 31)) = .ok s3 → Gives (.startDecision core) s fun t =>
        (t.queue f q).read = x.read + 1 + BitVec.ofNat 32 (leNat bs % 256) ∧ (t.queue f q).fence = (if hdrB (leNat bs) then x.read else x.fence) ∧ t.pidNext = s.pidNext + 1 ∧
        ∃ k, t.pkts.find? s.pidNext = some k ∧ k.fn = f ∧ k.q = q ∧ k.slot = p ∧ k.index = x.read ∧ k.bytes = bs ∧ k.done = false ∧ k.kids = 0)) ∧
    (∀ e rest, x.state = 4 → x.replay = e :: rest → (hdrB (leNat e.bytes) = true → ¬busy) → Gives (.startDecision core) s fun t =>
      (t.queue f q).replay = rest ∧ (t.queue f q).read = x.read ∧ t.pkts.find? s.pidNext = some
        { fn := f, q := q, slot := p, index := e.index, bytes := e.bytes, mute := e.done, muted := e.recs, service := f == 128 })) ∧
  (∀ s core, exec (.packetCoreRestart core) s = .next { s with cores := setAt s.cores core {} }) ∧
  (∀ s n d o q index pkts p, Arrives s n d (.lnch o q index pkts) p →
    let s1 := s.dropFlight n
    let f := s1.ringFn o.elem o.ctx
    let x := s1.queue f q
    let i : Word := BitVec.ofNat 32 index
    let slots := pkts.mapIdx fun k bs => (State.slotVa x (i + BitVec.ofNat 32 k), bs)
    let far : Prop := 2 ^ (x.sz + 4) ≤ (i + BitVec.ofNat 32 (pkts.length - 1) - x.read).toNat
    (x.en = false → exec (.lnchApply n) s = .next (s1.replyFrom .cp o 0x29)) ∧
    (∀ c va, x.en = true → s1.slotsBusy (s1.queueSlot f q) slots = .error (c, va) →
      exec (.lnchApply n) s = .next ((s1.memFault (s1.queueSlot f q) c va).replyFrom .cp o (BitVec.ofNat 64 c))) ∧
    (∀ s2 busy, x.en = true → s1.slotsBusy (s1.queueSlot f q) slots = .ok (s2, busy) →
      (far ∨ busy = true → exec (.lnchApply n) s = .next (s2.replyFrom .cp o 0x2A)) ∧
      (∀ s3, ¬far → busy = false → s2.putSlots (s1.queueSlot f q) (slots.drop 1 ++ slots.take 1) = .ok s3 →
        (s1.issuerPkt o = none → exec (.lnchApply n) s = .next (s3.replyFrom .cp o 0)) ∧
        (∀ pid y, s1.issuerPkt o = some pid → s3.pkts.find? pid = some y → Gives (.lnchApply n) s fun t => (f, q, i, pid) ∈ t.parents ∧
          t.pkts.find? pid = some { y with kids := y.kids + 1 } ∧ t.phys = s3.phys ∧ t.host = s3.host ∧ Sends1 s3 t (.elem o.elem) (.reply o (o.cont.map fun c => State.grantTok o c 0 o.e))))))

/-- The work of packets: NOP none, WRITE its words, SIGNAL its store or sum and its event, COPY the bytes up to the next boundary, barriers wait for all their signals or the first that is met, a graph starts its slots in
order, and COND re-arms or leaves it. COPY's chunks of at most 128 bytes, and that the lowest signal that is met decides BARRIER_OR, are log 83 (DEDUCED) (R263, R265 to R268, R270, R271). -/
def Obligations.PacketWork : Prop :=
  ∀ (s : State) (pid type : Nat) (x : Pkt), s.working pid type = some x →
    let p := x.slot
    let b := x.bits
    let named := ((List.range 5).map fun k => b / 2 ^ (64 + 64 * k) % 2 ^ 64).filter fun a => a != 0
    let at_ (lf : Nat → Leaf) (a : Nat) : Int := signed64 (Memory.readN (s.bytesOf (lf a)) (State.leafAddr (lf a) a) 8)
    let quiet (t : State) : Prop := t = { s with parts := t.parts, pkts := t.pkts, slices := t.slices }
    (type = 8 → Gives (.nopPacket pid) s fun t => quiet t ∧ Ended t pid x none) ∧
    (∀ l, type = 9 → let bs := (List.range (b / 2 ^ 32 % 256)).flatMap fun k => leBytes 8 (b / 2 ^ (128 + 64 * k) % 2 ^ 64)
      let va := b / 2 ^ 64 % 2 ^ 64
      WritesAt s p va bs l → Gives (.writePacket pid) s fun t => Wrote s t l (State.leafAddr l va) bs ∧ Ended t pid x none) ∧
    (∀ l, type = 5 → let va := b / 2 ^ 64 % 2 ^ 64
      let v := b / 2 ^ 128 % 2 ^ 64
      let old := Memory.readN (s.bytesOf l) (State.leafAddr l va) 8
      let bs := leBytes 8 (if b / 2 ^ 32 % 4 = 0 then v else (old + v) % 2 ^ 64)
      (va ≠ 0 → WritesAt s p va bs l) → Gives (.signalPacket pid) s fun t => (va ≠ 0 → Wrote s t l (State.leafAddr l va) bs) ∧ (va = 0 → t.phys = s.phys ∧ t.host = s.host) ∧ Ended t pid x none ∧
        (b / 2 ^ 34 % 2 = 1 → let k := b / 2 ^ 35 % 8
          let i := (s.fn x.fn).icbs.get {} k
          let n := min (i.pend + 1) 65535
          i.pend < max 1 i.cnt → ¬(i.time ≠ 0 ∧ i.since + 7000 * i.time ≤ s.t7) → ((t.fn x.fn).icbs.get {} k).pend = (if max 1 i.cnt ≤ n then 0 else n) ∧
            t.msix = s.msix ++ (if max 1 i.cnt ≤ n ∧ (s.fn x.fn).vmask.get true k = false then [(x.fn, k)] else [])) ∧
        (b / 2 ^ 34 % 2 = 0 → t.fns = s.fns ∧ t.msix = s.msix)) ∧
    (∀ l1 l2, type = 2 → let dst := b / 2 ^ 64 % 2 ^ 64
      let src := b / 2 ^ 128 % 2 ^ 64
      let n := b / 2 ^ 192 % 2 ^ 64
      let k := copyChunk (src + x.at_) (dst + x.at_) (n - x.at_)
      let bs := Memory.read (s.bytesOf l1) (State.leafAddr l1 (src + x.at_)) k
      (src + n ≤ dst ∨ dst + n ≤ src) → x.at_ ≤ n → (k ≠ 0 → ReadsAt s p (src + x.at_) k l1) → WritesAt s p (dst + x.at_) bs l2 → Apart s p (dst + x.at_) bs l2 (src + x.at_) k l1 → Gives (.copyPacket pid) s fun t =>
        Wrote s t l2 (State.leafAddr l2 (dst + x.at_)) bs ∧ (x.at_ + k < n → t.pkts.find? pid = some { x with at_ := x.at_ + k }) ∧ (n ≤ x.at_ + k → Ended t pid x none)) ∧
    (∀ lf i, type = 3 → (i = .barrierAnd pid ∨ i = .barrierPoll pid) → (∀ a ∈ named, ReadsAt s p a 8 (lf a)) → Gives i s fun t => quiet t ∧
      ((∀ a ∈ named, at_ lf a ≤ 0) → Ended t pid x (if ∃ a ∈ named, at_ lf a ≤ -(2 ^ 63) + 255 then some 0x74 else none)) ∧
      ((∃ a ∈ named, 0 < at_ lf a) → t.pkts = s.pkts)) ∧
    (∀ lf i, type = 4 → (i = .barrierOr pid ∨ i = .barrierPoll pid) → (∀ a ∈ named, ReadsAt s p a 8 (lf a)) → Gives i s fun t => quiet t ∧
      (named = [] → Ended t pid x none) ∧ (named ≠ [] → (∀ a ∈ named, 0 < at_ lf a) → t.pkts = s.pkts) ∧
      ∀ as a bs, named = as ++ a :: bs → (∀ c ∈ as, 0 < at_ lf c) → at_ lf a ≤ 0 → Ended t pid x (if at_ lf a ≤ -(2 ^ 63) + 255 then some 0x74 else none)) ∧
    (type = 6 → x.run = none → Gives (.graph pid) s fun t => quiet t ∧ t.pkts.find? pid = some { x with run := some {} }) ∧
    (∀ g, type = 6 → x.run = some g → let ms := s.members pid
      let run (g1 : GraphRun) : Prop := Gives (.graph pid) s fun t => quiet t ∧ t.pkts.find? pid = some { x with run := some g1 }
      (g.left = true → ms = [] → Gives (.graph pid) s fun t => quiet t ∧ t.pkts.find? pid = some { x with done := true, fault := g.err }) ∧
      (g.left = true → ms ≠ [] → exec (.graph pid) s = .next s) ∧
      (g.left = false → (∃ m ∈ ms, m.2.type = 7) → exec (.graph pid) s = .next s) ∧
      (g.left = false → (∀ m ∈ ms, m.2.type ≠ 7) → b / 2 ^ 32 % 2 ^ 16 ≤ g.slot → run { g with left := true }) ∧
      (∀ s1 bs, g.left = false → (∀ m ∈ ms, m.2.type ≠ 7) → g.slot < b / 2 ^ 32 % 2 ^ 16 → s.graphPacket p (b / 2 ^ 64 % 2 ^ 64) g.slot = .ok (s1, bs) →
        hdrV (leNat bs) = true → packetOk bs (some (b / 2 ^ 32 % 2 ^ 16)) = true →
        ((hdrB (leNat bs) = true ∨ leNat bs / 256 % 256 = 7) → ms ≠ [] → exec (.graph pid) s = .next s) ∧
        (((hdrB (leNat bs) = true ∨ leNat bs / 256 % 256 = 7) → ms = []) → pid < s.pidNext → Gives (.graph pid) s fun t => t.pidNext = s.pidNext + 1 ∧
          t.pkts.find? pid = some { x with run := some { g with slot := g.slot + 1 + leNat bs % 256 } } ∧
          t.pkts.find? s.pidNext = some { fn := x.fn, q := x.q, slot := p, index := x.index, bytes := bs, graph := some pid, gslot := g.slot, mute := x.mute, service := x.service }))) ∧
    (∀ l k y g, type = 7 → x.graph = some k → k ≠ pid → s.pkts.find? k = some y → y.run = some g → ReadsAt s p (b / 2 ^ 64 % 2 ^ 64) 8 l →
      let v := at_ (fun _ => l) (b / 2 ^ 64 % 2 ^ 64)
      let w := signed64 (b / 2 ^ 128 % 2 ^ 64)
      let test : Prop := match b / 2 ^ 32 % 8 with | 0 => v = w | 1 => v ≠ w | 2 => v < w | 3 => v ≤ w | 4 => w < v | _ => w ≤ v
      let to_ (g1 : GraphRun) : Prop := Gives (.cond pid) s fun t => quiet t ∧ Ended t pid x none ∧ ∃ y1, t.pkts.find? k = some y1 ∧ y1.run = some g1
      (¬test → to_ { g with left := true }) ∧
      (test → g.arms < y.bits / 2 ^ 128 % 2 ^ 32 → to_ { g with arms := g.arms + 1, slot := b / 2 ^ 48 % 2 ^ 16 }) ∧
      (test → y.bits / 2 ^ 128 % 2 ^ 32 ≤ g.arms → to_ { g with left := true, err := some (g.err.getD 0x75) }))

/-- A packet whose work and children are done, and whose release at its scope is made, leaves: its completion signal goes down by 1, or takes the error value of its code; its log entry is marked; its parent has one child less; its graph ends with the code; or its queue
halts with it. At RSC = sys it waits until the host has completed the stores of its slot, the whole slot's (log 112, DEDUCED) (R218, R225, R263, R264, R269, R270, R272, R306). -/
def Obligations.PacketEnds : Prop :=
  (∀ (s : State) (pid : Nat) (x : Pkt), s.pkts.find? pid = some x → x.bits / 2 ^ 24 % 8 = 4 → (∃ h ∈ s.hostq, h.own = x.slot) → exec (.packetComplete pid) s = .next s) ∧
  ∀ (s : State) (pid : Nat) (x : Pkt), (s.pkts.rows.map fun r => r.1).Nodup → s.pkts.find? pid = some x → x.done = true → x.kids = 0 → (s.part x.slot).frozen = false →
    (x.bits / 2 ^ 24 % 8 = 4 → ∀ h ∈ s.hostq, h.own ≠ x.slot) →
    let va := x.signal
    let gone (s1 : State) : State := ({ s1 with pkts := s1.pkts.erase pid } : State).logDone x
    let silent : Prop := va = 0 ∨ x.mute = true
    (x.outcome = none → x.graph = none → x.parent = none →
      (silent ∨ x.type = 1 → exec (.packetComplete pid) s = .next (gone s)) ∧
      (∀ l, let old := Memory.readN (s.bytesOf l) (State.leafAddr l va) 8
        let bs := leBytes 8 ((old + 2 ^ 64 - 1) % 2 ^ 64)
        ¬silent → x.type ≠ 1 → WritesAt s x.slot va bs l → Gives (.packetComplete pid) s fun t => Wrote s t l (State.leafAddr l va) bs ∧ t.pkts.find? pid = none ∧
          (t.queue x.fn x.q).log = (s.queue x.fn x.q).log.map fun e => if e.index = x.index then { e with done := true } else e)) ∧
    (∀ c, x.outcome = some c → x.graph = none → x.parent = none → (silent → exec (.packetComplete pid) s = .next ((gone s).haltPkt x c)) ∧
      ∀ s1, ¬silent → s.gput x.slot va (leBytes 8 (2 ^ 63 + c)) = .ok s1 → exec (.packetComplete pid) s = .next ((gone s1).haltPkt x c)) ∧
    (∀ k y, x.outcome = none → x.parent = some k → k ≠ pid → s.pkts.find? k = some y → (silent ∨ x.type = 1) → Gives (.packetComplete pid) s fun t =>
      t.pkts.find? k = some { y with kids := y.kids - 1 } ∧ t.pkts.find? pid = none) ∧
    (∀ c k y g, x.outcome = some c → x.parent = none → x.graph = some k → k ≠ pid → s.pkts.find? k = some y → y.run = some g → silent → Gives (.packetComplete pid) s fun t =>
      ∃ y1, t.pkts.find? k = some y1 ∧ y1.run = some { g with left := true, err := some (g.err.getD c) })

/-- LAUNCH: what it names is read and checked in order; a stack that passes takes its free region and its elements hold its contexts and words, asks a stack of lower priority that can park to do so, or waits; one
whose rectangle or routes do not agree with the stacks that run is refused. That the image is read once and kept, with overlap and routes judged when it is placed, is log 74, that a halted stack is not asked to park
log 75 (both DEDUCED) (R264, R273, R275, R278, R281). -/
def Obligations.LaunchPlaces : Prop :=
  ∀ (s : State) (pid : Nat) (x : Pkt), s.working pid 1 = some x → x.stack = false →
    let b := x.bits
    let p := x.slot
    let j := b / 2 ^ 32 % 8
    let g := s.region p j
    let read := s.readStack p (b / 2 ^ 128 % 2 ^ 64) (b / 2 ^ 192 % 2 ^ 64) (b / 2 ^ 48 % 2 ^ 16)
    (x.img = none → (∀ c va, read = .error (c, va) → exec (.launch pid) s = .next (s.faultPkt pid x.fn c va)) ∧
      ∀ s1 raw, read = .ok (s1, raw) → (∀ c d, s1.checkStack p j (x.stackRun pid) raw = .error (c, d) → exec (.launch pid) s = .next (s1.endPkt pid (some c) d)) ∧
        ∀ img, s1.checkStack p j (x.stackRun pid) raw = .ok img → exec (.launch pid) s = .next ((s1.modPkt pid fun x => { x with img := some img }).placeStack pid x img)) ∧
    ∀ img, x.img = some img →
      let y := x.stackOf pid img
      (g.run = none → (s.rectFree p j y && s.routesAgree p img.routes) = false → exec (.launch pid) s = .next (s.endPkt pid (some 0x73) 0)) ∧
      (g.run = none → (s.rectFree p j y && s.routesAgree p img.routes) = true → Gives (.launch pid) s fun t =>
        t.pkts.find? pid = some { x with stack := true, img := none } ∧ (t.region p j).used = true ∧ (t.region p j).cur = some (nth y.ctxs 0 0) ∧
        ((t.region p j).x0, (t.region p j).y0, (t.region p j).w, (t.region p j).h) = (y.x0, y.y0, y.w, y.h) ∧
        (∃ r, (t.region p j).run = some r ∧ r.pid = pid ∧ r.ctxs = y.ctxs ∧ r.pos = 0 ∧ r.halted = false) ∧
        ∀ c, img.ctxs = [c] → ∀ a ∈ s.rectElems p y.x0 y.y0 y.w y.h, (t.elem a).ctxs.get {} c.cidx = { c.entry with region := j, live := true, service := x.service } ∧
          (∀ k w, c.words[k]? = some w → (t.elem a).nodes.get 0 (c.entry.wbase + k) = w) ∧ (t.elem a).mem = (s.elem a).mem) ∧
      (∀ r, g.run = some r → y.prio ≤ r.prio ∨ r.dist = 0 ∨ r.halted = true ∨ g.parked ≠ none ∨ g.next ≠ none ∨ s.apart p r img = false → exec (.launch pid) s = .next s) ∧
      (∀ r, g.run = some r → r.prio < y.prio → r.dist ≠ 0 → r.halted = false → g.parked = none → g.next = none → s.apart p r img = true → (s.rectFree p j y && s.routesAgree p img.routes) = false →
        exec (.launch pid) s = .next (s.endPkt pid (some 0x73) 0)) ∧
      (∀ r, g.run = some r → r.prio < y.prio → r.dist ≠ 0 → r.halted = false → g.parked = none → g.next = none → s.apart p r img = true → (s.rectFree p j y && s.routesAgree p img.routes) = true → Gives (.launch pid) s fun t =>
        t.region p j = { g with parking := true, parkAt := s.cycle, next := some y } ∧ t.pkts.find? pid = some { x with stack := true, img := none })

/-- Region sequencers: done starts a wave; two equal and balanced sums 256 cycles apart close the context, after which the next context of the stack runs or the stack ends, its LAUNCH with it, and a parked stack goes on; a halted
stack ends once its activations and requests are over; a stack parks once only PRUNE nodes are left; a hang, a failed parking or a stalled horizon resets the partition. A context closes only
when the release of its LAUNCH at RSC = sys is made (R263; the whole slot's stores, log 112, DEDUCED); that a halted stack is not parked, the limit of 2 x PRUNE_DIST and 0x77 in VFEP are log 75, that a halted stack
ends once its requests are over log 77 (both DEDUCED) (R123, R131, R160, R263, R280, R281, R306, R307, R327). -/
def Obligations.RegionEvents : Prop :=
  ∀ (s : State) (p j : Nat) (x : StackRun), let g := s.region p j
    g.run = some x → (s.part p).frozen = false →
    let w := s.sums p j
    let rect := s.rectElems p x.x0 x.y0 x.w x.h
    let closing : Prop := x.halted = false ∧ x.arm = [] ∧ s.regionDone p j = true ∧ g.wave = some w ∧ w.1 = w.2 ∧ g.waveAt + 256 ≤ s.cycle
    let held : Prop := ∃ y, s.pkts.find? x.pid = some y ∧ y.bits / 2 ^ 24 % 8 = 4 ∧ ∃ h ∈ s.hostq, h.own = y.slot
    let closes : Prop := closing ∧ ¬held
    let noted (t : State) (c : Option Nat) : Prop := ∀ y, s.pkts.find? x.pid = some y → Ended t x.pid y c
    let left (t : State) : Prop := (∀ a ∈ rect, ∀ k ∈ x.ctxs, (t.elem a).ctxs.find? k = none) ∧ ∀ a, (t.elem a).mem = (s.elem a).mem ∧ (t.elem a).handles = (s.elem a).handles
    (x.halted = false → x.arm = [] → s.regionDone p j = true → g.wave = none ∨ (∃ v, g.wave = some v ∧ g.waveAt + 256 ≤ s.cycle ∧ (v ≠ w ∨ w.1 ≠ w.2)) → Gives (.terminationWave p j) s fun t =>
      t = { s with regions := t.regions } ∧ t.region p j = { g with wave := some w, waveAt := s.cycle }) ∧
    (closing → held → exec (.terminationWave p j) s = .next s) ∧
    (closes → x.recs = [] → x.pos + 1 < x.ctxs.length → Gives (.terminationWave p j) s fun t => (t.region p j).cur = some (nth x.ctxs (x.pos + 1) 0) ∧ (t.region p j).wave = none ∧
      (∃ y, (t.region p j).run = some y ∧ y.pid = x.pid ∧ y.pos = x.pos + 1) ∧ t.elems = s.elems) ∧
    (closes → x.recs = [] → x.ctxs.length ≤ x.pos + 1 → g.next = none → Gives (.terminationWave p j) s fun t => noted t x.err ∧ left t ∧
      (g.parked = none → (t.region p j).run = none ∧ (t.region p j).cur = none) ∧
      (∀ y, g.parked = some y → (t.region p j).cur = some (nth y.ctxs y.pos 0) ∧ (t.region p j).parked = none ∧
        ((t.region p j).x0, (t.region p j).y0, (t.region p j).w, (t.region p j).h) = (y.x0, y.y0, y.w, y.h) ∧ ∃ r, (t.region p j).run = some r ∧ r.pid = y.pid ∧ r.pos = y.pos)) ∧
    (∀ r y l, closes → x.recs = [(none, r)] → x.ctxs.length ≤ x.pos + 1 → g.next = none → g.parked = none → r.ctx = nth x.ctxs x.pos 0 → r.donek = false → r.done ≠ 0 → s.pkts.find? x.pid = some y →
      y.mute = false →
      let bs := leBytes 8 ((Memory.readN (s.bytesOf l) (State.leafAddr l r.done) 8 + 2 ^ 64 - 1) % 2 ^ 64)
      WritesAt s p r.done bs l → Gives (.terminationWave p j) s fun t => Wrote s t l (State.leafAddr l r.done) bs ∧ noted t x.err) ∧
    (x.halted = true → (∀ a ∈ s.regionElems p j, s.seqsIdle p a = true ∧ s.reqsFree p a = true) → g.next = none → g.parked = none → Gives (.terminationWave p j) s fun t =>
      noted t (some 0x78) ∧ left t ∧ (t.region p j).run = none) ∧
    (∀ y, g.next = some y → g.parking = true → x.halted = false → s.cycle < g.parkAt + 2 * x.dist → s.converged p j = true → Gives (.parkSwitch p j) s fun t => (t.region p j).parked = some x ∧
      (t.region p j).parking = false ∧ (t.region p j).next = none ∧ (t.region p j).cur = some (nth y.ctxs y.pos 0) ∧ (∃ r, (t.region p j).run = some r ∧ r.pid = y.pid ∧ r.pos = y.pos) ∧ t.elems = s.elems) ∧
    (∀ y, g.next = some y → x.halted = true → exec (.parkSwitch p j) s = .next s) ∧
    (g.parking = true → g.parkAt + 2 * x.dist ≤ s.cycle → Gives (.parkHang p j) s fun t => ResetOf s t p ∧ (t.fn p).vuesta.getLsbD 1 = true ∧ ((s.fn p).vuesta = 0 → (t.fn p).vfep = 0x77)) ∧
    (64 ≤ g.hzSame → g.horizon ≠ none → g.granted = false → Gives (.allocStall p j) s fun t => ResetOf s t p ∧ (t.fn p).vuesta.getLsbD 1 = true) ∧
    ((s.part p).life = .live → g.parking = false → (s.part p).fqw = (s.part p).fqr → g.lastEvent + (s.part p).hang * 7000000 ≤ s.t7 → Gives (.hang p j) s fun t =>
      ResetOf s t p ∧ (t.fn p).vuesta.getLsbD 1 = true ∧ ((s.fn p).vuesta = 0 → (t.fn p).vfep = 0x84))

/-- Admin commands on slots: CREATE gives a free slot its rectangle, limits, mappings, hedges and empty elements, DESTROY frees it, MAP and UNMAP add and remove leaves and the translations of what they remove, SERVICE lets
waiting accesses go on, FROST stops a slot and THAW lets it run on, EVICT leaves an image of it and RESTORE brings it back; each ends with its result, and one that is refused changes nothing. EVICT's HOST_XLATE, and that RESTORE takes an image where host memory still holds its bytes, are log 18, the
cluster that sends FROST's broadcast log 116 (both DESIGN CHOICE), corners of EVICT and RESTORE log 91 (DEDUCED) (R196, R284 to R296, R303, R319, R328). -/
def Obligations.SlotCommands : Prop :=
  ∀ (s : State) (p : Nat) (w : List Nat),
    let x := s.part p
    let none_ : List Nat := []
    let list : List Nat := [2 ^ 32 - 1, 2 ^ 32 - 1, 2 ^ 32 - 1]
    let refused (i : Instr) (c : Nat) : Prop := exec i s = .next (s.adminDone c 0)
    let flits := s.net.filter fun f => f.own == p && f.msg == .frost
    let starts : Prop := ∃ r ∈ s.pkts.rows, r.2.slot = p ∧ r.2.type = 1 ∧ r.2.done = false ∧ r.2.stack = false ∧ r.2.img = none
    -- the broadcast is on its way from the slot's lowest cluster to every one
    let asks (t : State) : Prop := t = { s with net := t.net, hops := t.hops } ∧ ∃ l, t.net = s.net ++ l ∧
      l.map (fun f => (f.src, f.dst)) = (State.rectClusters x.x0 x.y0 x.w x.h).map (fun c => (Place.clus (x.y0 * 48 + x.x0), Place.clus c)) ∧ ∀ f ∈ l, f.msg = .frost ∧ f.vn = 3 ∧ f.own = p
    let stopped (t : State) : Prop := t.part p = { x with life := .frosted, frozen := true, frozeAt := s.cycle } ∧ t.net = s.net.filter (fun f => !(f.own == p && f.msg == .frost)) ∧
      ∀ a, t.elem a = if s.inRect p (clusNo a) then { s.elem a with memq := (s.elem a).memq.map fun y => { y with left := s.leftHome p a y } } else s.elem a
    (∀ y, Asked s 1 p w → wordsClean w [0x7F, 0x3FFFFF, 0x7FFFFF, 0xFFFF, 2 ^ 32 - 1, 2 ^ 32 - 1, 2 ^ 32 - 1, 2 ^ 32 - 1, 2 ^ 32 - 1, 0xFFFFFF] = true → y = State.newPart w →
      1 ≤ y.shr → 1 ≤ y.weight → 1 ≤ y.quota → y.quota ≤ 32 → 1 ≤ y.period → y.period ≤ 60 → 1 ≤ y.hang → y.hang ≤ 60000 → pairAt w 5 % 32 = 0 → 1 ≤ nth w 7 0 → y.fqBase % 4096 = 0 → y.fqSz ≤ 8 →
      let mine : Prop := x.life = .free ∧ (s.fn p).bound = false ∧ nth w 1 0 = p
      let fits := s.rectOk p y.x0 y.y0 y.w y.h y.ts y.shr
      (¬mine → refused .create 0x93) ∧ (mine → fits = false → refused .create 0x90) ∧ (mine → fits = true → s.readMaps (pairAt w 5) (nth w 7 0) [] = none → refused .create 0x92) ∧
      ∀ ms, mine → fits = true → s.readMaps (pairAt w 5) (nth w 7 0) [] = some ms → (∀ c, (s.clus c).hedges.length = 2) → (∀ d, (s.crossbars.get [{}, {}] d).length = 2) → Gives .create s fun t => Answered t 0 ∧ (t.fn p).bound = true ∧
        (let z := t.part p
         z.life = .live ∧ z.live = true ∧ z.frozen = false ∧ (z.fqw, z.fqr) = (x.fqw, x.fqr) ∧ (z.x0, z.y0, z.w, z.h) = (y.x0, y.y0, y.w, y.h) ∧ z.maps = ms ∧ z.quota = y.quota ∧ z.hang = y.hang ∧ z.period = y.period) ∧
        let h : Hedge := { v := true, own := p, orgx := y.x0, orgy := y.y0, w := y.w, h := y.h, shr := y.shr }
        (∀ c ∈ State.rectClusters y.x0 y.y0 y.w y.h, nth (t.clus c).hedges y.ts {} = h) ∧
        ∀ d < 24, y.x0 ≤ d % 6 * 8 → d % 6 * 8 + 8 ≤ y.x0 + y.w → y.y0 ≤ d / 6 * 6 → d / 6 * 6 + 6 ≤ y.y0 + y.h → nth (t.crossbars.get [{}, {}] d) y.ts {} = h) ∧
    (Asked s 2 p w → wordsClean w none_ = true → (x.life = .free → refused .destroy 0x93) ∧
      (x.life ≠ .free → (s.parts.rows.Pairwise fun a b => a.1 < b.1) → Gives .destroy s fun t => Answered t 0 ∧ t.part p = { fqw := x.fqw, fqr := x.fqw } ∧ (t.fn p).bound = false ∧ (∀ r ∈ t.pkts.rows, r.2.slot ≠ p) ∧
        (x.live = true → ∀ f ∈ t.net, f.own ≠ p))) ∧
    (Asked s 3 p w → wordsClean w list = true → mapArgs w = true → (x.live = false → refused .mapPages 0x93) ∧
      (x.live = true → s.readMaps (pairAt w 1) (nth w 3 0) x.maps = none → refused .mapPages 0x92) ∧
      ∀ ms, x.live = true → s.readMaps (pairAt w 1) (nth w 3 0) x.maps = some ms → Gives .mapPages s fun t => Answered t 0 ∧ (t.part p).maps = x.maps ++ ms ∧ t.elems = s.elems ∧ t.host = s.host) ∧
    (Asked s 4 p w → wordsClean w list = true → mapArgs w = true → x.live = true →
      let raw := (List.range (nth w 3 0)).map fun k => Memory.readN s.host (pairAt w 1 + 32 * k) 32
      let xs := raw.map Mapping.ofNat
      let fit : Prop := s.hostFails (pairAt w 1) (32 * nth w 3 0) = false ∧ (∀ r ∈ raw, r / 2 ^ 196 = 0 ∧ r / 2 ^ 192 % 4 ≠ 3) ∧
        ∀ m ∈ xs, leafSize m.size = true ∧ m.va % m.size = 0 ∧ (unmapped x.maps m).isSome = true
      (¬fit → refused .unmapPages 0x92) ∧
      (fit → Gives .unmapPages s fun t => Answered t 0 ∧
        (∀ m, m ∈ (t.part p).maps ↔ m ∈ x.maps ∧ ∀ y ∈ xs, ¬(y.va ≤ m.va ∧ m.va + m.size ≤ y.va + y.size)) ∧
        (∀ r ∈ t.clusters.rows, ∀ e ∈ r.2.tlb, e.own ≠ p) ∧ ∀ r ∈ t.quads.rows, ∀ e ∈ r.2, e.own ≠ p)) ∧
    (Asked s 5 p w → wordsClean w none_ = true → (x.live = false → refused .service 0x93) ∧
      (x.live = true → (∀ q ∈ x.fqWait, q.kind = 0) → (∀ q ∈ x.fqWait, ((s.elem q.elem).memq.map fun y => y.org.seq).Nodup) →
        (∀ q ∈ x.fqWait, ∀ y ∈ (s.elem q.elem).memq, y.org.seq = q.seq → s.faultsAgain p y.needs (if y.kind.writes then y.pcs.map fun c => c.va else []) (y.pcs.map fun c => c.va) = none) →
        Gives .service s fun t => Answered t 0 ∧ (t.part p).fqr = x.fqw ∧ (t.part p).fqWait = [] ∧ t.phys = s.phys ∧
          ∀ q ∈ x.fqWait, ∀ y ∈ (t.elem q.elem).memq, y.org.seq = q.seq → y.wait = false) ∧
      (∀ q y c va, x.live = true → x.fqWait = [q] → q.kind = 0 → ((s.elem q.elem).memq.find? fun y => y.wait && y.org.seq == q.seq) = some y →
        s.faultsAgain p y.needs (if y.kind.writes then y.pcs.map fun c => c.va else []) (y.pcs.map fun c => c.va) = some (c, va) →
        exec .service s = .next (((({ s with regions := s.regions.mapVals fun k g => if k / 8 = p then { g with lastEvent := s.t7 } else g } : State).modPart p fun x =>
          { x with fqr := x.fqw, fqWait := [] }).accFault q.elem { y with wait := false } c va).adminDone 0 0))) ∧
    (Asked s 6 p w → wordsClean w none_ = true → (x.life ≠ .live → refused (.frost none) 0x93) ∧
      (x.life = .live → starts ∨ (∃ f ∈ flits, f.at_ ≠ .here) → exec (.frost none) s = .next s) ∧
      (x.life = .live → ¬starts → flits = [] → Gives (.frost none) s asks) ∧
      (x.life = .live → ¬starts → flits ≠ [] → (∀ f ∈ flits, f.at_ = .here) → Gives (.frost none) s fun t => Answered t 0 ∧ stopped t)) ∧
    (p ∈ s.dev.frostAsk → x.life = .live → (starts ∨ (∃ f ∈ flits, f.at_ ≠ .here) → exec (.frost (some p)) s = .next s) ∧
      (¬starts → flits = [] → Gives (.frost (some p)) s asks) ∧
      (¬starts → flits ≠ [] → (∀ f ∈ flits, f.at_ = .here) → Gives (.frost (some p)) s fun t => stopped t ∧ p ∉ t.dev.frostAsk)) ∧
    (Asked s 7 p w → wordsClean w none_ = true → (x.life ≠ .frosted → refused .thaw 0x93) ∧
      (x.life = .frosted → (∀ r ∈ s.elems.rows, s.inRect p (clusNo r.1) = true → r.2.memq = []) → Gives .thaw s fun t => Answered t 0 ∧ (t.part p).life = .live ∧ (t.part p).frozen = false ∧ (t.part p).frz = [] ∧
        (∀ a k act, nth (t.elem a).seqs k none = some act → s.ownOf a act.ctx = p → act.held = false) ∧ (∀ a, (t.elem a).mem = (s.elem a).mem) ∧
        (t.part p).cycBase = x.cycBase + (s.cycle - x.frozeAt) ∧
        (∀ a, s.inRect p (clusNo a) = true → s.shared (clusNo a) = false → a ∈ s.elems.rows.map (fun r => r.1) → (t.elem a).lastBusy = (s.elem a).lastBusy + (s.cycle - x.frozeAt)) ∧
        ∃ l, t.net = s.net ++ l ∧ l.map (fun f => f.msg) = x.frz.map fun o => Msg.reply o (o.cont.map fun c => State.grantTok o c 0 o.e))) ∧
    (Asked s 8 p w → wordsClean w [2 ^ 32 - 1, 2 ^ 32 - 1, 1] = true → pairAt w 1 % 4096 = 0 → (x.life ≠ .frosted → refused .evict 0x93) ∧
      (x.life = .frosted → let size := (Config.imageBytes s.free).length
        let left := s.underWay p
        let early : Prop := s.t7 < s.dev.admin.since + 70000000
        let waits : Prop := (∃ r ∈ left, s.atHost r.1 r.2 = false) ∨ ((left ≠ [] ∨ ∃ h ∈ s.hostq, h.own = p) ∧ early)
        let imaged (t : State) (img : Image) : Prop := Answered t 0 ∧ (t.part p).life = .evicted ∧ (t.part p).live = false ∧ (∀ f ∈ t.net, f.own ≠ p) ∧
          (pairAt w 1, img) ∈ t.images ∧ img.ok = true ∧ (img.move = true ↔ nth w 3 0 = 1) ∧ img.part.life = .frosted ∧ (img.part.w, img.part.h) = (x.w, x.h) ∧ img.part.maps = x.maps ∧
          img.bytes.length = size ∧ Memory.read t.host (pairAt w 1) size = img.bytes
        (waits → exec .evict s = .next s) ∧
        (¬waits → s.hostFails (pairAt w 1) size = true → refused .evict 0x54) ∧
        (¬waits → s.hostFails (pairAt w 1) size = false → s.memWf = true → left = [] → Gives .evict s fun t => ∃ img, imaged t img ∧ img.net = s.net.filter fun f => f.own == p) ∧
        -- 10 ms later the reply that the host still owes is a poison token in the image
        (∀ a y, ¬waits → s.hostFails (pairAt w 1) size = false → s.memWf = true → left = [(a, y)] → y.org.elem = a → y.joined = [] → Gives .evict s fun t => ∃ img, imaged t img ∧
          (∃ f ∈ img.net, f.msg = .reply y.org ((State.contOfAcc y).map fun c => State.grantTok y.org c 0x54 true)) ∧
          ∀ f ∈ s.net, f.own = p → y.sentBy a f = false → f ∈ img.net))) ∧
    (Asked s 9 p w → wordsClean w [2 ^ 32 - 1, 2 ^ 32 - 1, 0xFFFF, 2 ^ 32 - 1, 2 ^ 32 - 1] = true → pairAt w 1 % 4096 = 0 → (nth w 3 0 < 2 ^ 11 ∨ nth w 3 0 = 0xFFFF) →
      let back : Prop := x.life = .evicted ∨ (x.life = .free ∧ (s.fn p).bound = false)
      (¬back → refused .restore 0x93) ∧ (back → (∀ r ∈ s.images, r.1 ≠ pairAt w 1) → refused .restore 0x95) ∧
      ∀ img, back → (s.images.find? fun r => r.1 == pairAt w 1) = some (pairAt w 1, img) →
        let usable : Prop := s.hostFails (pairAt w 1) img.bytes.length = false ∧ Memory.read s.host (pairAt w 1) img.bytes.length = img.bytes ∧ img.ok = true ∧ img.key ∈ s.dev.manifest.trust ∧
          (img.move = true ∨ (img.home = true ∧ x.life = .evicted ∧ img.slot = p ∧ img.part.frozeAt = x.frozeAt))
        (¬usable → refused .restore 0x95) ∧ (usable → s.findPlace p img.part (nth w 3 0) = none → refused .restore 0x94) ∧
        ∀ x0 y0, usable → s.findPlace p img.part (nth w 3 0) = some (x0, y0) → (img.move = true → s.pagesFree p img.part.maps = false → refused .restore 0x92) ∧
          ((img.move = true → s.pagesFree p img.part.maps = true) → Gives .restore s fun t => Answered t 0 ∧ (t.part p).life = .frosted ∧ (t.part p).live = true ∧ (t.part p).frozen = true ∧
            (t.part p).x0 = x0 ∧ (t.part p).y0 = y0))

/-- Admin commands on the device: thirds and way groups are gated and woken 2 µs later, P-state, die gates, limits, injected errors, meter ring, harvest, export windows and the fabric's ids and routes take what the command
gives; a busy third, a held die and a slot in the wrong state are refused. GATE_THIRD's THIRD_BUSY is log 87, PSTATE in seedling mode log 88, that FABRIC trains every port that is not up log 90
(all DEDUCED), that an empty INJECT mask ends an injection log 60 and how a word's index splits log 117 (both DESIGN CHOICE) (R125, R155, R204, R284, R285, R301, R309, R310, R313, R341, R342). -/
def Obligations.DeviceCommands : Prop :=
  ∀ (s : State) (p : Nat) (w : List Nat),
    let word : Nat := 2 ^ 32 - 1
    let third : List Nat := [0x3FFFF, 0x3FFFF, 3]
    let k := nth w 3 0
    let lo : Nat := 0x20000 * k
    let u := nth w 1 0
    let off (ws : List Ways) : Prop := nth ws (nth w 2 0) .off = .off
    let slice := u / 2 % 16 * 16 + u / 32 % 16
    let clus := u / 2 % 2 ^ 11
    (Asked s 0xA 0 w → wordsClean w third = true → thirdArgs w = true → s.memWf = true → Gives .gateThird s fun t => t.dev.admin.busy = false ∧
      (∀ a ∈ gridElems w, nth (s.elem a).thirds k .off ≠ .off → (s.elem a).thirdBusy k = false → k < (s.elem a).thirds.length → nth (t.elem a).thirds k .on = .off ∧
        (∀ b, lo ≤ b → b < lo + 0x20000 → Memory.get (t.elem a).mem b = 0) ∧ ∀ b, (b < lo ∨ lo + 0x20000 ≤ b) → Memory.get (t.elem a).mem b = Memory.get (s.elem a).mem b) ∧
      (∀ a ∈ gridElems w, nth (s.elem a).thirds k .off ≠ .off → (s.elem a).thirdBusy k = true → t.elem a = s.elem a ∧ t.dev.admin.result = 0x96 ∧ t.dev.admin.detail ≠ 0) ∧
      ((∀ a ∈ gridElems w, (s.elem a).thirdBusy k = false) → Answered t 0)) ∧
    (Asked s 0xB 0 w → wordsClean w third = true → thirdArgs w = true → Gives .wakeThird s fun t => Answered t 0 ∧
      (∀ a ∈ gridElems w, nth (s.elem a).thirds k .off = .off → k < (s.elem a).thirds.length → nth (t.elem a).thirds k .off = .waking (s.now + 2000)) ∧
      (∀ a, (t.elem a).mem = (s.elem a).mem) ∧ ∀ a, nth (s.elem a).thirds k .off ≠ .off → t.elem a = s.elem a) ∧
    (Asked s 0xC 0 w → wordsClean w [0xFFF, 3] = true → waysArgs w = true → Gives .gateWays s fun t => Answered t 0 ∧ (s.dev.inject = [] → t.phys = s.phys ∧ t.poison = s.poison) ∧
      (u % 2 = 0 → s.dev.inject = [] → ¬off (s.slices.get {} slice).ways → (t.slices.get {} slice).ways = setAt (s.slices.get {} slice).ways (nth w 2 0) .off ∧
        (t.slices.get {} slice).lines = (s.slices.get {} slice).lines.filter fun l => l.way / 4 != nth w 2 0) ∧
      (u % 2 = 1 → t.phys = s.phys ∧ (¬off (s.clus clus).ways → (t.clus clus).ways = setAt (s.clus clus).ways (nth w 2 0) .off) ∧ ∀ l ∈ (t.clus clus).rc, l ∈ (s.clus clus).rc)) ∧
    (Asked s 0xD 0 w → wordsClean w [0xFFF, 3] = true → waysArgs w = true → Gives .wakeWays s fun t => Answered t 0 ∧
      (u % 2 = 0 → off (s.slices.get {} slice).ways → (t.slices.get {} slice).ways = setAt (s.slices.get {} slice).ways (nth w 2 0) (.waking (s.now + 2000))) ∧
      (u % 2 = 1 → off (s.clus clus).ways → (t.clus clus).ways = setAt (s.clus clus).ways (nth w 2 0) (.waking (s.now + 2000)))) ∧
    (Asked s 0xE 0 w → wordsClean w [3] = true → Gives .pstate s fun t => Answered t 0 ∧ t.dev.pstate = u ∧ t.elems = s.elems) ∧
    (Asked s 0xF 0 w → wordsClean w [0x1F] = true → u ≤ 23 → Gives .dieGate s fun t => (s.dieHeld u = true → Answered t 0x97 ∧ t.dev.gated = s.dev.gated) ∧
      (s.dieHeld u = false → Answered t 0 ∧ ∀ d, d ∈ t.dev.gated ↔ d = u ∨ d ∈ s.dev.gated)) ∧
    (Asked s 0x10 0 w → wordsClean w [0x1F] = true → u ≤ 23 → Gives .dieWake s fun t => Answered t 0 ∧ ∀ d, d ∈ t.dev.gated ↔ d ≠ u ∧ d ∈ s.dev.gated) ∧
    (Asked s 0x11 p w → wordsClean w [0xF, 0x7FFFFF, 0xFFFF] = true →
      let x := s.part p
      let a := nth w 2 0
      (u.testBit 0 = true → 1 ≤ a / 8 % 256) → (u.testBit 1 = true → 1 ≤ a / 2 ^ 11 % 64 ∧ a / 2 ^ 11 % 64 ≤ 32) → (u.testBit 2 = true → 1 ≤ k ∧ k ≤ 60000) →
      (u.testBit 3 = true → 1 ≤ a / 2 ^ 17 % 64 ∧ a / 2 ^ 17 % 64 ≤ 60) → (x.life ≠ .live → exec .setLimits s = .next (s.adminDone 0x93 0)) ∧
        (x.life = .live → Gives .setLimits s fun t => Answered t 0 ∧
          let y : Part := { x with weight := if u.testBit 0 then a / 8 % 256 else x.weight, quota := if u.testBit 1 then a / 2 ^ 11 % 64 else x.quota }
          t.part p = { y with hang := if u.testBit 2 then k else x.hang, period := if u.testBit 3 then a / 2 ^ 17 % 64 else x.period })) ∧
    (Asked s 0x12 0 w → wordsClean w [0x107, word, word, word, word, 0xFF] = true → injectArgs w = true →
      let mask := pairAt w 4 + nth w 6 0 * 2 ^ 64
      let flip (at_ : Nat) : Flip := ⟨u % 8, at_, mask, if u.testBit 8 then .sticky else .once⟩
      Gives .inject s fun t => Answered t 0 ∧ t.phys = s.phys ∧
        (u % 8 < 4 → ∀ f, f ∈ (t.elem (nth w 2 0)).ecc ↔ (f ∈ (s.elem (nth w 2 0)).ecc ∧ (f.array ≠ u % 8 ∨ f.at_ ≠ k)) ∨ (mask ≠ 0 ∧ f = flip k)) ∧
        (4 ≤ u % 8 → let at_ : Nat := if u % 8 = 4 then nth w 2 0 * 2 ^ 16 + k else if u % 8 = 5 then (nth w 2 0 % 16 * 16 + nth w 2 0 / 16) * 2 ^ 19 + k else pairAt w 2
          ∀ f, f ∈ t.dev.inject ↔ (f ∈ s.dev.inject ∧ (f.array ≠ u % 8 ∨ f.at_ ≠ at_)) ∨ (mask ≠ 0 ∧ f = flip at_))) ∧
    (Asked s 0x13 0 w → wordsClean w [word, word, word] = true → pairAt w 1 % 4096 = 0 → ringPow2 k = true → 16 ≤ k → k ≤ 65536 → s.dev.waiting = [] → Gives .meterRing s fun t => Answered t 0 ∧
      t.dev.mbase = pairAt w 1 ∧ t.dev.mslots = k ∧ (t.fn 128).mring.wr = 0 ∧ (t.fn 128).mring.rd = 0 ∧ t.host = s.host) ∧
    (∀ cause leaf, s.dev.admin.busy = true → s.dev.admin.run.map BitVec.toNat = w → nth w 0 0 = 0x14 → s.dev.mode = .harvest cause leaf → wordsClean w [word, word, word, word, word] = true → pairAt w 1 % 4096 = 0 →
      pairAt w 3 % 4096 = 0 → let n := nth w 5 0
      n % 4096 = 0 → n ≠ 0 → n ≤ 2 ^ 31 → s.memWf = true → (96 * 2 ^ 30 < pairAt w 3 + n → exec .harvestRead s = .next (s.adminDone 0x91 0)) ∧
        (pairAt w 3 + n ≤ 96 * 2 ^ 30 → s.hostFails (pairAt w 1) n = true → exec .harvestRead s = .next (s.adminDone 0x54 0)) ∧
        (pairAt w 3 + n ≤ 96 * 2 ^ 30 → s.hostFails (pairAt w 1) n = false → Gives .harvestRead s fun t => Answered t 0 ∧
          (∀ i < n, Memory.get t.host (pairAt w 1 + i) = Memory.get s.phys (dumpBase + pairAt w 3 + i)) ∧
          ∀ b, (b < pairAt w 1 ∨ pairAt w 1 + n ≤ b) → Memory.get t.host b = Memory.get s.host b)) ∧
    (Asked s 0x15 p w → wordsClean w [0xF, 0, word, word, word] = true → let e := Window.ofNat (pairAt w 2 + pairAt w 4 * 2 ^ 64)
      (e.v = true → 1 ≤ e.len) → ((s.part p).live = false → exec .exportWindow s = .next (s.adminDone 0x93 0)) ∧
        ((s.part p).live = true → Gives .exportWindow s fun t => Answered t 0 ∧ (t.part p).exports.get {} u = e)) ∧
    (Asked s 0x16 0 w → wordsClean w [0xFFF, word, word, 0xFFF, 0x1FFF, word, 0xF] = true → pairAt w 2 % 2 = 0 → let n := nth w 5 0
      let first := nth w 4 0
      n ≤ 4096 → first + n ≤ 4096 → (u ≠ 0 ∨ pairAt w 2 ≠ 0 ∨ first ≠ 0 ∨ n ≠ 0) →
      ((∃ r ∈ s.parts.rows, r.2.life ≠ .free) → exec .fabric s = .next (s.adminDone 0x93 0)) ∧
      ((∀ r ∈ s.parts.rows, r.2.life = .free) → (n ≠ 0 → s.hostFails (pairAt w 2) (2 * n) = false) → Gives .fabric s fun t => Answered t 0 ∧ t.dev.modId = u ∧
        (∀ i < n, t.dev.routes.get 0 (first + i) = BitVec.ofNat 16 (Memory.readN s.host (pairAt w 2 + 2 * i) 2)) ∧
        ∀ q < 36, (s.port q).state ≠ 2 → (pairAt w 6).testBit q = true → (t.port q).state = 1))

/-- The device: power on and a reset bring it up in seedling mode with its flash and the host as they were where neither an image nor the manifest is too old, else it stays off (log 106, DESIGN CHOICE; what is kept is
log 92, DEDUCED), a loss of power switches it off, dies are admitted until it serves in full, a firmware image and a manifest are taken when signed and not older, a watchdog or memory error harvests it: its live slots
are frosted and the dump, whose bytes the spec leaves open (log 15), stands in its place in LPDDR-6; a sag stretches a die's clock by up to one half and is noted, host translations are dropped, and a due usage record is emitted (R211, R253, R276, R299 to R301, R310 to R315, R340). -/
def Obligations.DeviceEvents : Prop :=
  let kept (s t : State) : Prop := t.host = s.host ∧ t.cycle = s.cycle ∧ t.agenda = s.agenda ∧ t.images = s.images ∧ t.dev.manifest = s.dev.manifest ∧ t.dev.retired = s.dev.retired ∧ t.dev.tablePages = s.dev.tablePages ∧
    t.dev.minVersion = s.dev.minVersion ∧ t.dev.versions = s.dev.versions ∧ t.elems = .empty ∧ t.parts = .empty ∧ t.net = [] ∧ t.dev.admitted = []
  let booted (s t : State) : Prop := kept s t ∧ t.dev.leafNo = s.dev.leafNo ∧ (s.dev.minVersion ≤ s.dev.manifest.version → (∀ r ∈ s.dev.versions.rows, s.dev.minVersion ≤ r.2) → t.dev.mode = .seedling) ∧
    ((s.dev.manifest.version < s.dev.minVersion ∨ ∃ r ∈ s.dev.versions.rows, r.2 < s.dev.minVersion) → t.dev.mode = .off)
  (∀ s : State, s.dev.mode = .off → Gives .powerOn s (booted s)) ∧ (∀ s : State, s.dev.mode ≠ .off → Gives .deviceReset s (booted s)) ∧
  (∀ s : State, Gives .powerLoss s fun t => kept s t ∧ t.dev.mode = .off ∧ (t.dev.leafNo = s.dev.leafNo ∨ t.dev.leafNo = s.dev.leafNo + 1)) ∧
  (∀ (s : State) (d : Nat), s.dev.mode = .seedling → d < 24 → d ∉ s.dev.admitted → Gives (.dieBistPass d) s fun t => t.dev.admitted = s.dev.admitted ++ [d] ∧
    (s.dev.admitted.length < 23 → t.dev.mode = .seedling ∧ t.host = s.host) ∧ (23 ≤ s.dev.admitted.length → t.dev.mode = .service) ∧ t.elems = s.elems) ∧
  (∀ (s : State) (img : FwImage), s.dev.mode ≠ .off → img.signed = true → s.dev.minVersion ≤ img.version →
    (img.manifest = none → Gives (.firmwareUpdate img) s fun t => t.dev.versions.get 0 img.which = img.version ∧ t = { s with dev := { s.dev with versions := t.dev.versions } }) ∧
    ∀ m, img.manifest = some m → Gives (.firmwareUpdate img) s fun t => t = { s with dev := { s.dev with manifest := t.dev.manifest } } ∧ t.dev.manifest.version = img.version ∧
      (t.dev.manifest.repair, t.dev.manifest.disabled, t.dev.manifest.limits, t.dev.manifest.trust) = (m.repair, m.disabled, m.limits, m.trust)) ∧
  (∀ (s : State) (img : FwImage), img.signed = false ∨ img.version < s.dev.minVersion → exec (.firmwareUpdate img) s = .next s) ∧
  (∀ (s : State) (i : Instr), (s.dev.mode = .service ∨ s.dev.mode = .seedling) → (i = .policyWatchdogExpiry ∨ i = .tirzonMemoryUe) → Gives i s fun t => (∃ c, t.dev.mode = .harvest c s.dev.leafNo ∧
      (s.memWf = true → let bs := (Config.dumpBytes (t.dumpOf c) s.dev.leafNo).take (96 * 2 ^ 30)
        Memory.read t.phys dumpBase bs.length = bs ∧ ∀ b, (b < dumpBase ∨ dumpBase + bs.length ≤ b) → Memory.get t.phys b = Memory.get s.phys b)) ∧
    t.dev.leafNo = s.dev.leafNo + 1 ∧ t.elems = s.elems ∧ t.host = s.host ∧ ∀ p, ((s.part p).life = .live → (t.part p).life = .frosted ∧ (t.part p).frozen = true) ∧ ((s.part p).life ≠ .live → t.part p = s.part p)) ∧
  (∀ (s : State) (d : Nat), (s.dev.mode = .service ∨ s.dev.mode = .seedling) → d < 24 → d ∉ s.dev.droop → Gives (.droop d) s fun t => t.dev.droop = s.dev.droop ++ [d] ∧ t.elems = s.elems ∧
    ∀ r ∈ s.parts.rows, r.2.live = true → (∃ c ∈ s.clustersOf r.1, dieOfClus c = d) → (t.fn r.1).vcesta.getLsbD 2 = true) ∧
  (∀ (s : State) (dt : Nat) (rest : List Turn) (p : Nat), ∃ k, k ≤ dt / 3 ∧ ((∀ d ∈ s.dev.droop, ∀ c ∈ s.clustersOf p, dieOfClus c ≠ d) → k = 0) ∧
    ((s.part p).live = true → (s.part p).frozen = false → ((s.atTurn dt rest).part p).cycBase = (s.part p).cycBase + k)) ∧
  (∀ (s : State) (d : Nat), exec (.droopEnd d) s = .next { s with dev := { s.dev with droop := s.dev.droop.filter fun x => x != d } }) ∧
  (∀ (s : State) (f va len : Nat), Gives (.atsInvalidation f va len) s fun t => t.phys = s.phys ∧ t.host = s.host ∧
    (∀ r ∈ t.clusters.rows, ∀ e ∈ r.2.tlb, e.own = f → e.leaf.tier = 2 → meets e.leaf.pa e.leaf.size (s.hostSpace f + va) len = false) ∧
    (∀ c, ∀ e ∈ (s.clus c).tlb, e.own ≠ f ∨ e.leaf.tier ≠ 2 ∨ meets e.leaf.pa e.leaf.size (s.hostSpace f + va) len = false → e ∈ (t.clus c).tlb) ∧
    ∀ a, ∀ y ∈ (t.elem a).memq, s.ownOf a y.org.ctx = f → ∀ l ∈ y.xl, l.tier = 2 → meets l.pa l.size (s.hostSpace f + va) len = false) ∧
  (∀ (s : State) (p : Nat), let x := s.part p
    let span := x.period * 1000000000
    s.up = true → x.live = true → s.dev.waiting = [] → x.tEnd / span < x.guest / 7 / span → Gives (.meterPeriodicRecord p) s fun t => (t.part p).seqNo = x.seqNo + 1 ∧ (t.part p).tEnd = x.guest / 7 ∧
      t.dev.leafNo = s.dev.leafNo + 1 ∧ t.elems = s.elems)

/-- Rosgen ports: a port comes up with its sequence anew and goes down with nothing left on it; flits are released in order, a gap is NAKed, a repeated, damaged or reserved flit is dropped, an ACK frees replay slots, a NAK and a timeout ask for
replays, and a port sends NAKs first, then replays, then new flits while its window has room, else IDLE. A part of a message that comes after a VOID in the same sending has no effect, a copy of a message that waits
or has taken effect none either (R339). That a port that goes down loses what it has sent to a resend, and that a VOID of an acknowledgement sends that anew and itself says nothing, is log 68 (DEDUCED); NAKs before
replays is log 121, what damage the CRC does not show does log 107 (both DESIGN CHOICE) (R335 to R340). -/
def Obligations.PortEvents : Prop :=
  ∀ (s : State) (k : Nat), let x := s.port k
    let only (t : State) : Prop := t = { s with ports := t.ports }
    let flit (q : BitVec 12) (kd : RKind) : Nat × RFlit := (k, { seq := q, ack := x.last, kind := kd })
    (s.linked = false → ∀ peer f q, exec (.rosgenPortUp k peer) s = .next s ∧ exec (.rosgenFlitReceive k f) s = .next s ∧ exec (.nakReceive k q) s = .next s ∧ exec (.rosgenPortSend k) s = .next s) ∧
    (∀ peer, s.linked = true → k < 36 → (x.state = 0 ∨ x.state = 1) → Gives (.rosgenPortUp k peer) s fun t => only t ∧ t.port k = { state := 2, peer := peer % 2 ^ 12, replays := x.replays, voids := x.voids }) ∧
    (x.state = 2 →
      (x.window = [] → x.todo = [] → Gives (.rosgenPortDown k) s fun t => only t ∧ t.port k = { x with state := 0, resend := [], urgent := [] }) ∧
      (∀ m q, x.window = [] → x.todo = (List.range m.nfl).map (fun i => (m, i)) → m.nfl ≠ 0 → m.dmod ≠ s.dev.modId → q ≠ k → s.routeTo m.dmod = some q →
        (s.dev.routes.get 0 m.dmod).toNat % 64 ≠ k → Gives (.rosgenPortDown k) s fun t => (t.port k).state = 0 ∧ (t.port k).todo = [] ∧
          (t.port q).todo = (s.port q).todo ++ (List.range m.nfl).map fun i => (m, i))) ∧
    (x.state = 2 → s.linked = true →
      (∀ q, (∀ w ∈ x.window, w.seq ≠ q) → exec (.nakReceive k q) s = .next s) ∧
      (∀ q w, (x.window.find? fun w => w.seq == q) = some w → w.naks < 63 → Gives (.nakReceive k q) s fun t => only t ∧ q ∈ (t.port k).resend ∧
        (t.port k).window = x.window.map fun y => if y.seq = q then { y with naks := y.naks + 1 } else y) ∧
      (∀ q w, (x.window.find? fun w => w.seq == q) = some w → 63 ≤ w.naks → exec (.nakReceive k q) s = .next (s.portStops k 3)) ∧
      ((∃ w ∈ x.window, w.sentAt + 4 * 4096 ≤ s.t7) → Gives (.replayTimeout k) s fun t => only t ∧
        t.port k = { x with resend := x.window.map fun w => w.seq, window := x.window.map fun w => { w with sentAt := s.t7 } }) ∧
      ((∀ w ∈ x.window, s.t7 < w.sentAt + 4 * 4096) → exec (.replayTimeout k) s = .next s) ∧
      (∀ f, flitSound f = false → exec (.rosgenFlitReceive k f) s = .next s) ∧ (∀ f, f.noise = 0 → (flitSound f = true ↔ ∀ t, f.kind ≠ .reserved t)) ∧
      (∀ f, f.noise ≠ 0 → let b := rosBits f ^^^ f.noise % 2 ^ 1024
        (flitSound f = true ↔ b / 2 ^ 992 = State.crc32c (b % 2 ^ 992) 992 ∧ b / 2 ^ 964 % 16 ≤ 3)) ∧
      (∀ f, flitSound f = true → f.kind = .idle → Gives (.rosgenFlitReceive k f) s fun t => only t ∧ (∀ w, w ∈ (t.port k).window ↔ w ∈ x.window ∧ 2048 ≤ (f.ack - w.seq).toNat) ∧ (t.port k).last = x.last) ∧
      (∀ f q, flitSound f = true → f.kind = .nak q → exec (.rosgenFlitReceive k f) s = exec (.nakReceive k q) (s.onAck k f.ack)) ∧
      (∀ f m i, flitSound f = true → f.kind = .data m i →
        let mine (y : RxMsg) : Prop := y.msg.smod = m.smod ∧ y.msg.seng = m.seng ∧ y.msg.mid = m.mid ∧ isPlain y.msg.body = false
        let taken : Prop := (s.rxNext.get 0 (m.smod * 16 + m.seng) + 2 ^ 16 - 1 - m.mid.toNat) % 2 ^ 16 < 2 ^ 15
        let whole (P : State → Prop) : Prop := Gives (.rosgenFlitReceive k f) s fun t => (t.port k).last = f.seq ∧ (t.port k).buf = [] ∧ (t.port k).urgent = x.urgent ∧ P t
        (f.seq = x.last ∨ 1024 < (f.seq - x.last).toNat → exec (.rosgenFlitReceive k f) s = .next (s.onAck k f.ack)) ∧
        (x.buf = [] → f.seq = x.last + 1 → x.dead = [] → i = 0 →
          (isPlain m.body = true → whole fun t => t.rx = s.rx ++ [{ msg := m, failed := false }]) ∧
          (1 < m.nfl → isPlain m.body = false → whole fun t => t.rx = s.rx ∧ (m, 0) ∈ (t.port k).asm) ∧
          (m.nfl ≤ 1 → isPlain m.body = false → ¬taken → (∀ y ∈ s.rx, ¬mine y) → whole fun t => t.rx = s.rx ++ [{ msg := m, failed := false }]) ∧
          (m.nfl ≤ 1 → isPlain m.body = false → (∃ y ∈ s.rx, mine y ∧ y.failed = false) → whole fun t => t.rx = s.rx) ∧
          (∀ q, m.nfl ≤ 1 → isPlain m.body = false → taken → (∀ y ∈ s.rx, ¬mine y) → m.smod ≠ s.dev.modId → s.routeTo m.smod = some q → q ≠ k → whole fun t => t.rx = s.rx ∧
            ∃ a, (t.port q).todo = (s.port q).todo ++ [(a, 0)] ∧ a.body = .ack m.seng m.mid ∧ a.dmod = m.smod)) ∧
        (∀ h, x.buf = [] → f.seq = x.last + 1 → isPlain m.body = false → x.dead = [(m.smod, m.seng, m.mid, h)] → h < i → whole fun t => t.rx = s.rx ∧ (t.port k).asm = x.asm) ∧
        (x.buf = [] → f.seq = x.last + 2 → x.last + 1 ∉ x.naked → Gives (.rosgenFlitReceive k f) s fun t => t.rx = s.rx ∧ (t.port k).last = x.last ∧ (t.port k).buf = [f] ∧
          (t.port k).urgent = x.urgent ++ [.nak (x.last + 1)])) ∧
      (∀ f mid eng smod i, flitSound f = true → f.kind = .void (x.last + 1) mid eng smod i → x.buf = [] → x.dead = [] → Gives (.rosgenFlitReceive k f) s fun t => (t.port k).last = x.last + 1 ∧
        (eng < 12 → (t.port k).dead = [(smod, eng, mid, i)] ∧ ∃ y, t.rx = s.rx ++ [y] ∧ y.failed = true ∧ y.msg.mid = mid ∧ y.msg.seng = eng ∧ y.msg.smod = smod) ∧ (12 ≤ eng → t.rx = s.rx)) ∧
      (∀ u us, x.urgent = u :: us → Gives (.rosgenPortSend k) s fun t => t.rosOut = s.rosOut ++ [flit x.next u] ∧ t.port k = { x with urgent := us }) ∧
      (∀ q qs w, x.urgent = [] → x.resend = q :: qs → (x.window.find? fun w => w.seq == q) = some w →
        (w.ue = false → w.ce = false → Gives (.rosgenPortSend k) s fun t => t.rosOut = s.rosOut ++ [flit w.seq (.data w.msg w.part)] ∧ (t.port k).resend = qs ∧ (t.port k).replays = x.replays + 1) ∧
        (w.ue = true → isPlain w.msg.body = false → Gives (.rosgenPortSend k) s fun t => t.rosOut = s.rosOut ++ [flit w.seq (.void w.seq w.msg.mid w.msg.seng w.msg.smod w.part)] ∧ (t.port k).resend = qs ∧
          (t.port k).voids = x.voids + 1) ∧
        (∀ o, w.ue = true → isPlain w.msg.body = true → w.msg.dmod ≠ s.dev.modId → s.routeTo w.msg.dmod = some o → o ≠ k → Gives (.rosgenPortSend k) s fun t =>
          t.rosOut = s.rosOut ++ [flit w.seq (.void w.seq w.msg.mid 12 w.msg.smod w.part)] ∧ (t.port k).voids = x.voids + 1 ∧
          (t.port o).todo = (s.port o).todo ++ (List.range w.msg.nfl).map fun i => (w.msg, i))) ∧
      (∀ m i ts, x.urgent = [] → x.resend = [] → x.todo = (m, i) :: ts →
        (x.window.length < 1024 → Gives (.rosgenPortSend k) s fun t => t.rosOut = s.rosOut ++ [flit x.next (.data m i)] ∧
          t.port k = { x with todo := ts, next := x.next + 1, window := x.window ++ [{ seq := x.next, msg := m, part := i, sentAt := s.t7 }] }) ∧
        (1024 ≤ x.window.length → Gives (.rosgenPortSend k) s fun t => t = { s with rosOut := s.rosOut ++ [flit x.next .idle] })) ∧
      (x.urgent = [] → x.resend = [] → x.todo = [] → Gives (.rosgenPortSend k) s fun t => t = { s with rosOut := s.rosOut ++ [flit x.next .idle] }))

/-- Fabric messages: a failed one is answered with FAIL, one that took effect is acknowledged and the next may follow; FAIL sends a message again and an acknowledgement drops its descriptor; an access is checked against its export window; a DISP
joins its list; a placement counts and writes, or finds the buffer full, and with one entry refused or faulting none of its message is placed; outcomes settle an entry, append it to the list of its second choice,
overflow or lose it, in the order in which they come; a COLL's message waits for its COLL, fails it or reaches it. A placement that faults is recorded with zero context fields and answered at once: log 108 (DESIGN
CHOICE); SC = 0 in an overflow header is log 67, corners of COLL log 69, acknowledgements outside the MID order log 24 (all DEDUCED) (R339, R342 to R349, R354). -/
def Obligations.MessageEvents : Prop :=
  (∀ (s : State) (n : Nat) (x : RxMsg), s.rx[n]? = some x → s.up = true → let m := x.msg
    let gone : State := { s with rx := dropAt s.rx n }
    (x.failed = true → exec (.rosgenMessageApply n) s = .next (gone.sendMsg m.seng m.smod m.dslot m.sslot (.fail m.seng m.mid)).1) ∧
    (s.rxTurn n = some x → x.eff = true → (∀ es, m.body ≠ .dispatch es) → ∀ k, m.smod ≠ s.dev.modId → s.routeTo m.smod = some k → Gives (.rosgenMessageApply n) s fun t =>
      t.rx = gone.rx ∧ t.rxNext.get 0 (m.smod * 16 + m.seng) = (s.nextMid m + 1) % 2 ^ 16 ∧ ∃ a, (t.port k).todo = (s.port k).todo ++ [(a, 0)] ∧ a.body = .ack m.seng m.mid ∧ a.dmod = m.smod) ∧
    (∀ es, s.rxTurn n = some x → x.eff = true → m.body = .dispatch es → ∀ k, m.smod ≠ s.dev.modId → s.routeTo m.smod = some k → Gives (.rosgenMessageApply n) s fun t =>
      t.rx = gone.rx ∧ ∃ l a b, (t.port k).todo = (s.port k).todo ++ l ++ [(a, 0)] ∧ a.body = .ack m.seng m.mid ∧ b.body = .outcome x.res ∧ b.dmod = m.smod ∧ l = (List.range b.nfl).map fun i => (b, i)) ∧
    (∀ eng mid, m.body = .ack eng mid → exec (.endToEndAck n) s =
      .next { gone with sent := s.sent.filter fun d => !(d.msg.seng == eng && d.msg.mid == mid && d.msg.dmod == m.smod) }) ∧
    (∀ eng mid d k, m.body = .fail eng mid → s.sent = [d] → d.msg.seng = eng → d.msg.mid = mid → d.msg.dmod = m.smod → d.tries < 3 → d.msg.dmod ≠ s.dev.modId → s.routeTo d.msg.dmod = some k →
      Gives (.failReceive n) s fun t => t.rx = gone.rx ∧ t.sent = [{ d with tries := d.tries + 1 }] ∧ (t.port k).todo = (s.port k).todo ++ (List.range d.msg.nfl).map fun i => (d.msg, i)) ∧
    (∀ eng mid, m.body = .fail eng mid → s.sent = [] → exec (.failReceive n) s = .next gone)) ∧
  (∀ (s : State) (n : Nat) (x : RxMsg) (es : List DispWire), s.rxTurn n = some x → x.msg.body = .dispatch es → x.eff = false →
    let slot (w : DispWire) : Nat := w.ref.toNat / 2 ^ 45 % 128
    let window (w : DispWire) : Window := (s.part (slot w)).exports.get {} (w.ref.toNat / 2 ^ 41 % 16)
    let ok (w : DispWire) : Prop := let r := w.ref.toNat
      let q := s.part (slot w)
      let e := window w
      r / 2 ^ 52 % 2 ^ 12 = s.dev.modId ∧ q.life ≠ .free ∧ q.life ≠ .evicted ∧ e.v = true ∧ (e.pmod = 0xFFF ∨ e.pmod = x.msg.smod) ∧ (e.pslot = 0x7F ∨ e.pslot = x.msg.sslot) ∧
      e.perm &&& 3 = 3 ∧ r % 2 ^ 41 + (64 + 32 * (16 + w.payload.length)) ≤ e.len * 2 ^ 16
    let places (P : State → Prop) (r : DispWire → Option (BitVec 8)) : Prop := Gives (.dispatchPlace n 0) s fun t =>
      t.rx = setAt s.rx n { x with adm := none, res := es.map fun w => (w.entry, r w), eff := true } ∧ P t
    (x.adm = none → ((∀ w ∈ es, ok w) → exec (.inboundAccess n) s = .next { s with rx := setAt s.rx n { x with adm := some 0 } }) ∧
      ((∃ w ∈ es, ¬ok w) → exec (.inboundAccess n) s = .next { s with rx := setAt s.rx n { x with adm := some 0x65 } })) ∧
    (∀ c, x.adm = some c → c ≠ 0 → places (fun t => t.phys = s.phys ∧ t.host = s.host) fun _ => some (BitVec.ofNat 8 c)) ∧
    (x.adm = some 0 → (∃ w ∈ es, ¬ok w) → ∃ c, places (fun t => t.phys = s.phys) fun _ => some c) ∧
    ∀ w, x.adm = some 0 → es = [w] → ok w → let va := (window w).base * 2 ^ 16 + w.ref.toNat % 2 ^ 41
      (∀ c a, s.gget (slot w) va 8 = .error (c, a) → places (fun t => t = { s.cpFault (slot w) (slot w) c a with rx := t.rx }) fun _ => some (BitVec.ofNat 8 c)) ∧
      ∀ s1 s2 bs, s.gget (slot w) va 8 = .ok (s1, bs) → s1.gput (slot w) va (leBytes 8 (leNat bs + 1)) = .ok s2 →
        (32 ≤ leNat bs → places (fun t => t.phys = s2.phys ∧ t.host = s2.host) fun _ => some 0) ∧
        ∀ s3, leNat bs < 32 → s2.gput (slot w) (va + 64 + leNat bs * (16 + w.payload.length)) (leBytes 16 w.hdr.toNat ++ w.payload) = .ok s3 →
          places (fun t => t.phys = s3.phys ∧ t.host = s3.host) fun _ => none) ∧
  (∀ s n die o c sc p s1 s2 bs v k, Arrives s n (.disp die) (.disp o c sc) p → let q := (s.dropFlight n).ownOf o.elem o.ctx
    (s.dropFlight n).tableRead q c.table (c.hdr % 2 ^ 16) = (s1, .ok v) → s1.gget q c.ptr (nth v 1 0) = .ok (s2, bs) → nth v 4 0 / 2 ^ 52 % 2 ^ 12 ≠ s.dev.modId →
    s.routeTo (nth v 4 0 / 2 ^ 52 % 2 ^ 12) = some k → (s.dispEng die).ents = [] → Gives (.dispAppend n) s fun t =>
      ∃ b, (t.dispEng die).ents = [{ State.entOf (12 * (s.dispEng die).next + die) q o c v with sent := b }]) ∧
  (∀ s n die o l all p, Arrives s n (.disp die) (.dflsh o l all) p → (s.dispEng die).ents = [] → (s.dispEng die).flushes = [] →
    let mine (d : DispDone) : Bool := d.slot == (s.dropFlight n).ownOf o.elem o.ctx && (all || d.lists.contains l)
    let of (k : Nat) : Nat := (((s.dispEng die).settled.filter mine).filter fun d => d.kind == k).length
    (∀ d ∈ (s.dispEng die).settled, d.kind < 4) → Gives (.dispAppend n) s fun t => (t.dispEng die).settled = (s.dispEng die).settled.filter (fun d => !mine d) ∧ ∃ f k, t.net = (s.dropFlight n).net ++ [f] ∧
      f.dst = .elem o.elem ∧ k = BitVec.ofNat 64 (of 0 % 2 ^ 16 + of 1 % 2 ^ 16 * 2 ^ 16 + of 2 % 2 ^ 16 * 2 ^ 32 + of 3 % 2 ^ 16 * 2 ^ 48) ∧ ∃ o1, o1 = { o with e := o.e || of 3 != 0 } ∧
        f.msg = .reply o1 (o1.cont.map fun c => State.grantTok o1 c k o1.e)) ∧
  (∀ (s : State) (n id : Nat) (x : RxMsg) (e : DispEnt) (r : Option (BitVec 8)), s.rxTurn n = some x → x.eff = false → x.msg.body = .outcome [(id, r)] →
    let die := id % 12
    let s1 : State := { s with rx := setAt s.rx n { x with eff := true } }
    (s.dispEng die).flushes = [] → ((s.dispEng die).ents.find? fun e => e.id == id) = some e → e.flush = none →
    let before (y : DispEnt) : Prop := y.id ≠ id ∧ y.list = e.list ∧ y.ref / 2 ^ 52 % 2 ^ 12 = e.ref / 2 ^ 52 % 2 ^ 12 ∧ (y.wait = 3 ∨ y.wait = 4 ∨ ∃ h ∈ (s.dispEng die).held, h.1 = y.id)
    ((∃ y ∈ (s.dispEng die).ents, before y) → Gives (.dispatchOutcome n) s fun t => t = { s1 with disp := t.disp } ∧ t.dispEng die = { s.dispEng die with held := (s.dispEng die).held ++ [(id, r)] }) ∧
    ((∀ y ∈ (s.dispEng die).ents, ¬before y) →
    let settled (t : State) (kind : Nat) : Prop := t.dispEng die =
      { s.dispEng die with ents := (s.dispEng die).ents.filter fun y => y.id != id, settled := (s.dispEng die).settled ++ [⟨e.slot, if e.sc then [e.first, e.list] else [e.first], kind⟩] }
    (r = none → Gives (.dispatchOutcome n) s fun t => settled t (if e.sc then 1 else 0) ∧ t.rx = s1.rx) ∧
    (∀ c, r = some c → c ≠ 0 → Gives (.dispatchOutcome n) s fun t => settled t 3 ∧ t.rx = s1.rx) ∧
    (∀ s2 s3 bs v k, let c2 := e.hdr / 2 ^ 16 % 2 ^ 16
      r = some 0 → e.sc = false → c2 ≠ 0xFFFF → c2 ≠ e.hdr % 2 ^ 16 → c2 < e.nexp → s1.tableRead e.slot e.table c2 = (s2, .ok v) → (s.dispEng die).ents = [e] → e.wait = 0 →
      s2.gget e.slot e.ptr e.bytes = .ok (s3, bs) → nth v 4 0 / 2 ^ 52 % 2 ^ 12 ≠ s.dev.modId → s.routeTo (nth v 4 0 / 2 ^ 52 % 2 ^ 12) = some k → Gives (.dispatchOutcome n) s fun t =>
        ∃ b, (t.dispEng die).ents = [{ e with sc := true, list := nth v 5 0, ref := nth v 4 0, sent := b }]) ∧
    (∀ s2 s3 bs, r = some 0 → e.sc = true → e.ovfK = none → s1.gget e.slot e.ovfAt 8 = .ok (s2, bs) → s2.gput e.slot e.ovfAt (leBytes 8 (leNat bs + 1)) = .ok s3 →
      (e.ocap ≤ leNat bs → Gives (.dispatchOutcome n) s fun t => settled t 3) ∧
      ∀ s4, leNat bs < e.ocap → s3.gput e.slot (e.ovfAt + 64 + 32 * leNat bs) (leBytes 16 (s.wireHdr { e with sc := false } + 2 ^ 97) ++ leBytes 16 e.ptr) = .ok s4 →
        Gives (.dispatchOutcome n) s fun t => settled t 2 ∧ t.phys = s4.phys ∧ t.host = s4.host))) ∧
  (∀ (s : State) (n : Nat) (x : RxMsg) gid k kind ty len phase chunk code xs adm, s.rxTurn n = some x → x.eff = false → x.adm = some adm → x.msg.body = .coll gid k kind ty len phase chunk code xs →
    let s1 : State := { s with rx := setAt s.rx n { x with eff := true } }
    (s.findColl x.msg.dslot gid k = none → s.collCount x.msg.dslot gid ≤ k ∨ s.collWaits x.msg.dslot gid k = true → exec (.collMessage n) s = .next { s1 with collEarly := s1.collEarly ++ [x.msg] }) ∧
    (∀ die r, s.findColl x.msg.dslot gid k = some (die, r) → (code ≠ 0 → exec (.collMessage n) s = .next (s1.collEnd die r code.toNat)) ∧
      (code = 0 → kind ≠ r.cmd.kind ∨ ty ≠ r.cmd.ty.code ∨ len ≠ r.cmd.n ∨ adm ≠ 0 → exec (.collMessage n) s = .next ((s1.collTell die r 0x69).collEnd die r 0x69)) ∧
      (code = 0 → exec (.collMessage n) s = .next (s1.collRecv die r x.msg adm))))

/-- A word decodes to an instruction exactly if the instruction is well formed and the word encodes it: no bit of an encoding is dropped, and every word that
no well-formed instruction encodes is rejected (R17 to R35). -/
def Obligations.WordsRoundTrip : Prop :=
  ∀ (w : NWord) (i : Instr), decode w = some i ↔ i.wellFormed = true ∧ encode i = some w

/-- One word of each group of the opcode map, written out from the spec's encodings (R19 to R33; most are its own worked encodings), decodes to what it stands for, and
a reserved opcode or a reserved bit is rejected: `seq` with two inputs and two words, `add.i32 t0, in0, in1`, `vrnd.bf16.f32.sr t0, t1`, MODE with KA = 1,
`stl.n32 [t2 + #0x100], t1`, `kick #3, t1`, `phsig.rel.clus t1, t1` and `time t2`. -/
def Obligations.SampleWords : Prop :=
  decode 0x0040000C4000001800000002#96 = some (.seq ⟨1, 0, ⟨3, 0, 1⟩, ⟨0, 0, 0⟩, 0, 0, 3, 2⟩) ∧
  decode 0x201089000000000000000000#96 = some (.add ⟨.i32, .t 0, .inp 0, .inp 1, .t 0, 0, false, 0, .i64, 0, 0, 0⟩) ∧
  decode 0x529010006800000000000000#96 = some (.vrnd ⟨.bf16, .t 0, .t 1, .t 0, .t 0, 0, false, 6, .f32, 0, 0, 0⟩) ∧
  decode 0x600000000001000000000000#96 = some (.mode ⟨0, 0, .i64, .i64, .i64, .t 0, .t 0, .t 0, 1, 0, 0⟩) ∧
  decode 0x81502D100000000000000100#96 = some (.stl ⟨.n32, .t 0, .t 2, .z, .t 1, 0, false, 0, 0, false, false, 0, ⟨0, 0, 0⟩, 0x100⟩) ∧
  decode 0xA90010000003000000000000#96 = some (.kick ⟨0, .t 0, .t 1, .t 0, .t 0, 0, false, 0, 3, ⟨0, 0, 0⟩, 0⟩) ∧
  decode 0xC20110000500000000000000#96 = some (.phsig ⟨0, .t 1, .t 1, .t 0, .t 0, 0, false, .i64, 1, false, true, 0, ⟨0, 0, 0⟩, 0⟩) ∧
  decode 0xE30200000000000000000000#96 = some (.time ⟨0, .t 2, .t 0, .t 0, 0, false, 0, ⟨0, 0, 0⟩, 0⟩) ∧
  decode 0x0D0000000000000000000000#96 = none ∧ decode 0x201089000000000100000000#96 = none

/-- A turn of an element runs the word it issues: with the activation of R144 at word pc of its body and no storage error there, a step is exec of the decoded word, on the
state whose clock has come to the turn, in which the element has counted the word and notes the slot; past its last word the activation leaves its slot.
A start turn runs the decoded head of the node that R122 chooses; an element issues at most one word and starts at most one node in a cycle. A turn of another agent is exec of its event, and without a turn a cycle passes
(log 1). What exec gives is the step's, but that a partition for which a storage error that the turn met is fatal is reset as the turn ends (R124, R132, R306; log 122, DEDUCED). -/
def Obligations.StepsRunTurns : Prop :=
  (∀ (s : State) (dt a k : Nat) (rest : List Turn) (act : Act), s.agenda = ⟨dt, .word a⟩ :: rest → let x := s.atTurn dt rest
    (x.elem a).wordNext ≤ x.cycle → x.pickSeq a = some (k, act) → (act.len < act.pc → step s = settled (.next (x.endSeq a k))) ∧
      ∀ i, act.pc ≤ act.len → (x.elem a).ecc = [] → decode ((x.elem a).nodes.get 0 ((x.ctx a act.ctx).wbase + act.node + act.pc)) = some i → step s = settled (exec i (x.issueWord a k))) ∧
  (∀ (s : State) (dt a : Nat) (rest : List Turn), s.agenda = ⟨dt, .word a⟩ :: rest → (s.atTurn dt rest).pickSeq a = none ∨ (s.atTurn dt rest).cycle < ((s.atTurn dt rest).elem a).wordNext → step s = settled (.next (s.atTurn dt rest))) ∧
  (∀ (s : State) (dt a : Nat) (rest : List Turn) (r : ReadyEntry) (y : HEntry) (i : Instr), s.agenda = ⟨dt, .start a⟩ :: rest → let x := s.atTurn dt rest
    (x.elem a).startNext ≤ x.cycle → x.chooseStart a = some r → (x.elem a).live r.fh = some y → (x.elem a).ecc = [] →
    decode ((x.elem a).nodes.get 0 ((x.ctx a ((x.elem a).readHdr y).ctx).wbase + r.node)) = some i → step s = settled (exec i { x with cur := some ⟨a, 0, some r⟩ })) ∧
  (∀ (s : State) (dt a : Nat) (rest : List Turn), s.agenda = ⟨dt, .start a⟩ :: rest → (s.atTurn dt rest).chooseStart a = none ∨ (s.atTurn dt rest).cycle < ((s.atTurn dt rest).elem a).startNext → step s = settled (.next (s.atTurn dt rest))) ∧
  (∀ (s : State) (dt : Nat) (rest : List Turn) (i : Instr), s.agenda = ⟨dt, .event i⟩ :: rest → i.isWord = false → (∀ a, ((s.atTurn dt rest).elem a).ecc = []) →
    step s = settled (exec i (s.atTurn dt rest))) ∧
  (∀ (f : Fault), settled (.fault f) = .fault f) ∧ (∀ (r : Refusal), settled (.refused r) = .refused r) ∧ (∀ (t : State), t.hurt = [] → settled (.next t) = .next t) ∧
  (∀ (t : State) o c, t.hurt = [(o, c)] → let p := t.ownOf o.elem o.ctx
    ∃ u, settled (.next t) = .next u ∧ ResetOf t u p ∧ u.hurt = []) ∧
  (∀ (s : State) (dt : Nat) (rest : List Turn), (s.atTurn dt rest).cycle = s.cycle + dt ∧ (s.atTurn dt rest).t7 = s.t7 + dt * cycle7 s.dev.pstate ∧ (s.atTurn dt rest).agenda = rest) ∧
  (∀ (s : State) (dt addr : Nat) (bs : List Byte) (rest : List Turn), s.agenda = ⟨dt, .hostWrite addr bs⟩ :: rest →
    step s = settled (.next { s.atTurn dt rest with host := Memory.write s.host addr bs })) ∧
  ∀ (s : State), s.agenda = [] → ∃ t, step s = .next t ∧ t.cycle = s.cycle + 1 ∧ t.t7 = s.t7 + cycle7 s.dev.pstate

/-- After reset the device is off, its module id is 0 and no route is valid (R340), no handle is live, no message is under way, every hedge entry is clear (R289), every
partition slot is free, memory lists nothing, and the invariant that every step keeps holds. The registers whose reset value the spec leaves open are the model's
choice (log 20 to 22). -/
def Obligations.ResetState : Prop :=
  let s := State.reset
  s.dev.mode = .off ∧ s.dev.modId = 0 ∧ (∀ d, s.dev.routes.get 0 d = 0) ∧ s.net = [] ∧ s.agenda = [] ∧ s.phys = [] ∧ s.host = [] ∧ s.hostq = [] ∧ s.hurt = [] ∧ s.crossbars = .empty ∧ s.inv ∧
  (∀ a h, (s.elem a).live h = none) ∧ (∀ c, (s.clus c).hedges = [{}, {}]) ∧ (∀ p, (s.part p).life = .free ∧ (s.part p).live = false) ∧ ∀ k, (s.port k).state = 0

/-- From every state that meets the invariant, a step that goes on gives a state that meets it: global memory, host memory and every element's local store stay in
canonical form, no element's stochastic generator is ever 0 (R67), and START_COUNT counts modulo 64 (R122, R134). The premise and the conclusion speak of the
elements in eviction images as well, those held outside and those that the host is yet to bring (R295). The canonical form of a memory is the model's (log 3). -/
def Obligations.StepsKeepInvariant : Prop := ∀ (s t : State), s.inv → step s = .next t → t.inv
end

