-- ==== Sys2Proof/Laws/Exec.lean ====
section
/-! SUPPORT. What the dispatch calls for each instruction. -/

namespace Sys2Proof.Machine

@[simp] theorem exec_seq (o : _) (s : State) : exec (.seq o) s = execSeq o s := rfl
@[simp] theorem exec_steer (o : _) (s : State) : exec (.steer o) s = execSteer o s := rfl
@[simp] theorem exec_merge (o : _) (s : State) : exec (.merge o) s = execMerge o s := rfl
@[simp] theorem exec_gate (o : _) (s : State) : exec (.gate o) s = execGate o s := rfl
@[simp] theorem exec_loop (o : _) (s : State) : exec (.loop o) s = execLoop o s := rfl
@[simp] theorem exec_next (o : _) (s : State) : exec (.next o) s = execNext o s := rfl
@[simp] theorem exec_exit (o : _) (s : State) : exec (.exit o) s = execExit o s := rfl
@[simp] theorem exec_call (o : _) (s : State) : exec (.call o) s = execCall o s := rfl
@[simp] theorem exec_retn (o : _) (s : State) : exec (.retn o) s = execRetn o s := rfl
@[simp] theorem exec_join (o : _) (s : State) : exec (.join o) s = execJoin o s := rfl
@[simp] theorem exec_sink (o : _) (s : State) : exec (.sink o) s = execSink o s := rfl
@[simp] theorem exec_const (o : _) (s : State) : exec (.const o) s = execConst o s := rfl
@[simp] theorem exec_prune (o : _) (s : State) : exec (.prune o) s = execPrune o s := rfl
@[simp] theorem exec_add (o : _) (s : State) : exec (.add o) s = execAdd o s := rfl
@[simp] theorem exec_sub (o : _) (s : State) : exec (.sub o) s = execSub o s := rfl
@[simp] theorem exec_mul (o : _) (s : State) : exec (.mul o) s = execMul o s := rfl
@[simp] theorem exec_mulh (o : _) (s : State) : exec (.mulh o) s = execMulh o s := rfl
@[simp] theorem exec_div (o : _) (s : State) : exec (.div o) s = execDiv o s := rfl
@[simp] theorem exec_rem (o : _) (s : State) : exec (.rem o) s = execRem o s := rfl
@[simp] theorem exec_min (o : _) (s : State) : exec (.min o) s = execMin o s := rfl
@[simp] theorem exec_max (o : _) (s : State) : exec (.max o) s = execMax o s := rfl
@[simp] theorem exec_and (o : _) (s : State) : exec (.and o) s = execAnd o s := rfl
@[simp] theorem exec_or (o : _) (s : State) : exec (.or o) s = execOr o s := rfl
@[simp] theorem exec_xor (o : _) (s : State) : exec (.xor o) s = execXor o s := rfl
@[simp] theorem exec_andn (o : _) (s : State) : exec (.andn o) s = execAndn o s := rfl
@[simp] theorem exec_shl (o : _) (s : State) : exec (.shl o) s = execShl o s := rfl
@[simp] theorem exec_shr (o : _) (s : State) : exec (.shr o) s = execShr o s := rfl
@[simp] theorem exec_sar (o : _) (s : State) : exec (.sar o) s = execSar o s := rfl
@[simp] theorem exec_rot (o : _) (s : State) : exec (.rot o) s = execRot o s := rfl
@[simp] theorem exec_clz (o : _) (s : State) : exec (.clz o) s = execClz o s := rfl
@[simp] theorem exec_popc (o : _) (s : State) : exec (.popc o) s = execPopc o s := rfl
@[simp] theorem exec_bext (o : _) (s : State) : exec (.bext o) s = execBext o s := rfl
@[simp] theorem exec_bins (o : _) (s : State) : exec (.bins o) s = execBins o s := rfl
@[simp] theorem exec_sel (o : _) (s : State) : exec (.sel o) s = execSel o s := rfl
@[simp] theorem exec_cmp (o : _) (s : State) : exec (.cmp o) s = execCmp o s := rfl
@[simp] theorem exec_plog (o : _) (s : State) : exec (.plog o) s = execPlog o s := rfl
@[simp] theorem exec_mov (o : _) (s : State) : exec (.mov o) s = execMov o s := rfl
@[simp] theorem exec_lit (o : _) (s : State) : exec (.lit o) s = execLit o s := rfl
@[simp] theorem exec_lith (o : _) (s : State) : exec (.lith o) s = execLith o s := rfl
@[simp] theorem exec_lea (o : _) (s : State) : exec (.lea o) s = execLea o s := rfl
@[simp] theorem exec_tagr (o : _) (s : State) : exec (.tagr o) s = execTagr o s := rfl
@[simp] theorem exec_idr (o : _) (s : State) : exec (.idr o) s = execIdr o s := rfl
@[simp] theorem exec_vadd (o : _) (s : State) : exec (.vadd o) s = execVadd o s := rfl
@[simp] theorem exec_vsub (o : _) (s : State) : exec (.vsub o) s = execVsub o s := rfl
@[simp] theorem exec_vmul (o : _) (s : State) : exec (.vmul o) s = execVmul o s := rfl
@[simp] theorem exec_vfma (o : _) (s : State) : exec (.vfma o) s = execVfma o s := rfl
@[simp] theorem exec_vdiv (o : _) (s : State) : exec (.vdiv o) s = execVdiv o s := rfl
@[simp] theorem exec_vsqrt (o : _) (s : State) : exec (.vsqrt o) s = execVsqrt o s := rfl
@[simp] theorem exec_vrcp (o : _) (s : State) : exec (.vrcp o) s = execVrcp o s := rfl
@[simp] theorem exec_vrsq (o : _) (s : State) : exec (.vrsq o) s = execVrsq o s := rfl
@[simp] theorem exec_vexp (o : _) (s : State) : exec (.vexp o) s = execVexp o s := rfl
@[simp] theorem exec_vlog (o : _) (s : State) : exec (.vlog o) s = execVlog o s := rfl
@[simp] theorem exec_vtanh (o : _) (s : State) : exec (.vtanh o) s = execVtanh o s := rfl
@[simp] theorem exec_vmin (o : _) (s : State) : exec (.vmin o) s = execVmin o s := rfl
@[simp] theorem exec_vmax (o : _) (s : State) : exec (.vmax o) s = execVmax o s := rfl
@[simp] theorem exec_vabs (o : _) (s : State) : exec (.vabs o) s = execVabs o s := rfl
@[simp] theorem exec_vneg (o : _) (s : State) : exec (.vneg o) s = execVneg o s := rfl
@[simp] theorem exec_vcmp (o : _) (s : State) : exec (.vcmp o) s = execVcmp o s := rfl
@[simp] theorem exec_vsel (o : _) (s : State) : exec (.vsel o) s = execVsel o s := rfl
@[simp] theorem exec_vcvt (o : _) (s : State) : exec (.vcvt o) s = execVcvt o s := rfl
@[simp] theorem exec_vrnd (o : _) (s : State) : exec (.vrnd o) s = execVrnd o s := rfl
@[simp] theorem exec_vtail (o : _) (s : State) : exec (.vtail o) s = execVtail o s := rfl
@[simp] theorem exec_vshuf (o : _) (s : State) : exec (.vshuf o) s = execVshuf o s := rfl
@[simp] theorem exec_vtrn (o : _) (s : State) : exec (.vtrn o) s = execVtrn o s := rfl
@[simp] theorem exec_vred (o : _) (s : State) : exec (.vred o) s = execVred o s := rfl
@[simp] theorem exec_vscan (o : _) (s : State) : exec (.vscan o) s = execVscan o s := rfl
@[simp] theorem exec_vbcst (o : _) (s : State) : exec (.vbcst o) s = execVbcst o s := rfl
@[simp] theorem exec_viota (o : _) (s : State) : exec (.viota o) s = execViota o s := rfl
@[simp] theorem exec_vpack (o : _) (s : State) : exec (.vpack o) s = execVpack o s := rfl
@[simp] theorem exec_vunpk (o : _) (s : State) : exec (.vunpk o) s = execVunpk o s := rfl
@[simp] theorem exec_colr (o : _) (s : State) : exec (.colr o) s = execColr o s := rfl
@[simp] theorem exec_vscl (o : _) (s : State) : exec (.vscl o) s = execVscl o s := rfl
@[simp] theorem exec_vmov (o : _) (s : State) : exec (.vmov o) s = execVmov o s := rfl
@[simp] theorem exec_vbit (o : _) (s : State) : exec (.vbit o) s = execVbit o s := rfl
@[simp] theorem exec_mode (o : _) (s : State) : exec (.mode o) s = execMode o s := rfl
@[simp] theorem exec_mcfg (o : _) (s : State) : exec (.mcfg o) s = execMcfg o s := rfl
@[simp] theorem exec_mwld (o : _) (s : State) : exec (.mwld o) s = execMwld o s := rfl
@[simp] theorem exec_mbindW (o : _) (s : State) : exec (.mbindW o) s = execMbindW o s := rfl
@[simp] theorem exec_mbindOp (o : _) (s : State) : exec (.mbindOp o) s = execMbindOp o s := rfl
@[simp] theorem exec_mfreeW (o : _) (s : State) : exec (.mfreeW o) s = execMfreeW o s := rfl
@[simp] theorem exec_mfreeOp (o : _) (s : State) : exec (.mfreeOp o) s = execMfreeOp o s := rfl
@[simp] theorem exec_mfreeCfg (o : _) (s : State) : exec (.mfreeCfg o) s = execMfreeCfg o s := rfl
@[simp] theorem exec_mdrn (o : _) (s : State) : exec (.mdrn o) s = execMdrn o s := rfl
@[simp] theorem exec_mstat (o : _) (s : State) : exec (.mstat o) s = execMstat o s := rfl
@[simp] theorem exec_scsnd (o : _) (s : State) : exec (.scsnd o) s = execScsnd o s := rfl
@[simp] theorem exec_scpr (o : _) (s : State) : exec (.scpr o) s = execScpr o s := rfl
@[simp] theorem exec_zskp (o : _) (s : State) : exec (.zskp o) s = execZskp o s := rfl
@[simp] theorem exec_ldl (o : _) (s : State) : exec (.ldl o) s = execLdl o s := rfl
@[simp] theorem exec_stl (o : _) (s : State) : exec (.stl o) s = execStl o s := rfl
@[simp] theorem exec_ldc (o : _) (s : State) : exec (.ldc o) s = execLdc o s := rfl
@[simp] theorem exec_stc (o : _) (s : State) : exec (.stc o) s = execStc o s := rfl
@[simp] theorem exec_ldg (o : _) (s : State) : exec (.ldg o) s = execLdg o s := rfl
@[simp] theorem exec_stg (o : _) (s : State) : exec (.stg o) s = execStg o s := rfl
@[simp] theorem exec_copy (o : _) (s : State) : exec (.copy o) s = execCopy o s := rfl
@[simp] theorem exec_gath (o : _) (s : State) : exec (.gath o) s = execGath o s := rfl
@[simp] theorem exec_scat (o : _) (s : State) : exec (.scat o) s = execScat o s := rfl
@[simp] theorem exec_pref (o : _) (s : State) : exec (.pref o) s = execPref o s := rfl
@[simp] theorem exec_clean (o : _) (s : State) : exec (.clean o) s = execClean o s := rfl
@[simp] theorem exec_inval (o : _) (s : State) : exec (.inval o) s = execInval o s := rfl
@[simp] theorem exec_alloc (o : _) (s : State) : exec (.alloc o) s = execAlloc o s := rfl
@[simp] theorem exec_free (o : _) (s : State) : exec (.free o) s = execFree o s := rfl
@[simp] theorem exec_hold (o : _) (s : State) : exec (.hold o) s = execHold o s := rfl
@[simp] theorem exec_aqry (o : _) (s : State) : exec (.aqry o) s = execAqry o s := rfl
@[simp] theorem exec_tful (o : _) (s : State) : exec (.tful o) s = execTful o s := rfl
@[simp] theorem exec_send (o : _) (s : State) : exec (.send o) s = execSend o s := rfl
@[simp] theorem exec_emit (o : _) (s : State) : exec (.emit o) s = execEmit o s := rfl
@[simp] theorem exec_sendc (o : _) (s : State) : exec (.sendc o) s = execSendc o s := rfl
@[simp] theorem exec_mcast (o : _) (s : State) : exec (.mcast o) s = execMcast o s := rfl
@[simp] theorem exec_mask (o : _) (s : State) : exec (.mask o) s = execMask o s := rfl
@[simp] theorem exec_unmsk (o : _) (s : State) : exec (.unmsk o) s = execUnmsk o s := rfl
@[simp] theorem exec_walk (o : _) (s : State) : exec (.walk o) s = execWalk o s := rfl
@[simp] theorem exec_split (o : _) (s : State) : exec (.split o) s = execSplit o s := rfl
@[simp] theorem exec_wstat (o : _) (s : State) : exec (.wstat o) s = execWstat o s := rfl
@[simp] theorem exec_kick (o : _) (s : State) : exec (.kick o) s = execKick o s := rfl
@[simp] theorem exec_lnch (o : _) (s : State) : exec (.lnch o) s = execLnch o s := rfl
@[simp] theorem exec_disp (o : _) (s : State) : exec (.disp o) s = execDisp o s := rfl
@[simp] theorem exec_dflsh (o : _) (s : State) : exec (.dflsh o) s = execDflsh o s := rfl
@[simp] theorem exec_coll (o : _) (s : State) : exec (.coll o) s = execColl o s := rfl
@[simp] theorem exec_rstat (o : _) (s : State) : exec (.rstat o) s = execRstat o s := rfl
@[simp] theorem exec_phreg (o : _) (s : State) : exec (.phreg o) s = execPhreg o s := rfl
@[simp] theorem exec_phdrp (o : _) (s : State) : exec (.phdrp o) s = execPhdrp o s := rfl
@[simp] theorem exec_phsig (o : _) (s : State) : exec (.phsig o) s = execPhsig o s := rfl
@[simp] theorem exec_phwt (o : _) (s : State) : exec (.phwt o) s = execPhwt o s := rfl
@[simp] theorem exec_phsw (o : _) (s : State) : exec (.phsw o) s = execPhsw o s := rfl
@[simp] theorem exec_amo (o : _) (s : State) : exec (.amo o) s = execAmo o s := rfl
@[simp] theorem exec_cas (o : _) (s : State) : exec (.cas o) s = execCas o s := rfl
@[simp] theorem exec_famo (o : _) (s : State) : exec (.famo o) s = execFamo o s := rfl
@[simp] theorem exec_fence (o : _) (s : State) : exec (.fence o) s = execFence o s := rfl
@[simp] theorem exec_bind (o : _) (s : State) : exec (.bind o) s = execBind o s := rfl
@[simp] theorem exec_unbnd (o : _) (s : State) : exec (.unbnd o) s = execUnbnd o s := rfl
@[simp] theorem exec_acq (o : _) (s : State) : exec (.acq o) s = execAcq o s := rfl
@[simp] theorem exec_rel (o : _) (s : State) : exec (.rel o) s = execRel o s := rfl
@[simp] theorem exec_osec (o : _) (s : State) : exec (.osec o) s = execOsec o s := rfl
@[simp] theorem exec_oend (o : _) (s : State) : exec (.oend o) s = execOend o s := rfl
@[simp] theorem exec_otok (o : _) (s : State) : exec (.otok o) s = execOtok o s := rfl
@[simp] theorem exec_futn (o : _) (s : State) : exec (.futn o) s = execFutn o s := rfl
@[simp] theorem exec_fres (o : _) (s : State) : exec (.fres o) s = execFres o s := rfl
@[simp] theorem exec_freg (o : _) (s : State) : exec (.freg o) s = execFreg o s := rfl
@[simp] theorem exec_nop (o : _) (s : State) : exec (.nop o) s = execNop o s := rfl
@[simp] theorem exec_trap (o : _) (s : State) : exec (.trap o) s = execTrap o s := rfl
@[simp] theorem exec_brk (o : _) (s : State) : exec (.brk o) s = execBrk o s := rfl
@[simp] theorem exec_time (o : _) (s : State) : exec (.time o) s = execTime o s := rfl
@[simp] theorem exec_rtime (o : _) (s : State) : exec (.rtime o) s = execRtime o s := rfl
@[simp] theorem exec_metr (o : _) (s : State) : exec (.metr o) s = execMetr o s := rfl
@[simp] theorem exec_csrr (o : _) (s : State) : exec (.csrr o) s = execCsrr o s := rfl
@[simp] theorem exec_csrw (o : _) (s : State) : exec (.csrw o) s = execCsrw o s := rfl
@[simp] theorem exec_erri (o : _) (s : State) : exec (.erri o) s = execErri o s := rfl
@[simp] theorem exec_rseed (o : _) (s : State) : exec (.rseed o) s = execRseed o s := rfl
@[simp] theorem exec_perf (o : _) (s : State) : exec (.perf o) s = execPerf o s := rfl
@[simp] theorem exec_sysc (o : _) (s : State) : exec (.sysc o) s = execSysc o s := rfl
@[simp] theorem exec_halt (o : _) (s : State) : exec (.halt o) s = execHalt o s := rfl
@[simp] theorem exec_frzr (o : _) (s : State) : exec (.frzr o) s = execFrzr o s := rfl
@[simp] theorem exec_tokenArrival (n : _) (s : State) : exec (.tokenArrival n) s = execTokenArrival n s := rfl
@[simp] theorem exec_tokenLeave (elem : _) (s : State) : exec (.tokenLeave elem) s = execTokenLeave elem s := rfl
@[simp] theorem exec_allocRequestAccept (n : _) (s : State) : exec (.allocRequestAccept n) s = execAllocRequestAccept n s := rfl
@[simp] theorem exec_allocatorGrant (elem : _) (s : State) : exec (.allocatorGrant elem) s = execAllocatorGrant elem s := rfl
@[simp] theorem exec_grantDelivery (n : _) (s : State) : exec (.grantDelivery n) s = execGrantDelivery n s := rfl
@[simp] theorem exec_allocRefusalArrival (n : _) (s : State) : exec (.allocRefusalArrival n) s = execAllocRefusalArrival n s := rfl
@[simp] theorem exec_windowRefill (elem : _) (list : _) (s : State) : exec (.windowRefill elem list) s = execWindowRefill elem list s := rfl
@[simp] theorem exec_horizonSnapshot (slot : _) (region : _) (s : State) : exec (.horizonSnapshot slot region) s = execHorizonSnapshot slot region s := rfl
@[simp] theorem exec_horizonBroadcast (slot : _) (region : _) (s : State) : exec (.horizonBroadcast slot region) s = execHorizonBroadcast slot region s := rfl
@[simp] theorem exec_promotion (n : _) (s : State) : exec (.promotion n) s = execPromotion n s := rfl
@[simp] theorem exec_allocStall (slot : _) (region : _) (s : State) : exec (.allocStall slot region) s = execAllocStall slot region s := rfl
@[simp] theorem exec_freeMessage (n : _) (s : State) : exec (.freeMessage n) s = execFreeMessage n s := rfl
@[simp] theorem exec_holdMessage (n : _) (s : State) : exec (.holdMessage n) s = execHoldMessage n s := rfl
@[simp] theorem exec_tfulMessage (n : _) (s : State) : exec (.tfulMessage n) s = execTfulMessage n s := rfl
@[simp] theorem exec_aqryQuery (n : _) (s : State) : exec (.aqryQuery n) s = execAqryQuery n s := rfl
@[simp] theorem exec_thirdWakeDone (elem : _) (k : _) (s : State) : exec (.thirdWakeDone elem k) s = execThirdWakeDone elem k s := rfl
@[simp] theorem exec_patrolScrub (elem : _) (k : _) (s : State) : exec (.patrolScrub elem k) s = execPatrolScrub elem k s := rfl
@[simp] theorem exec_walkerEmit (cluster : _) (unit : _) (s : State) : exec (.walkerEmit cluster unit) s = execWalkerEmit cluster unit s := rfl
@[simp] theorem exec_walkerGrantDelivery (n : _) (s : State) : exec (.walkerGrantDelivery n) s = execWalkerGrantDelivery n s := rfl
@[simp] theorem exec_idleFire (elem : _) (tslot : _) (s : State) : exec (.idleFire elem tslot) s = execIdleFire elem tslot s := rfl
@[simp] theorem exec_splitApply (n : _) (s : State) : exec (.splitApply n) s = execSplitApply n s := rfl
@[simp] theorem exec_splitResult (n : _) (s : State) : exec (.splitResult n) s = execSplitResult n s := rfl
@[simp] theorem exec_phaserRegister (n : _) (also : _) (s : State) : exec (.phaserRegister n also) s = execPhaserRegister n also s := rfl
@[simp] theorem exec_phaserSignal (n : _) (also : _) (s : State) : exec (.phaserSignal n also) s = execPhaserSignal n also s := rfl
@[simp] theorem exec_phaserDrop (n : _) (also : _) (s : State) : exec (.phaserDrop n also) s = execPhaserDrop n also s := rfl
@[simp] theorem exec_phaserWait (n : _) (also : _) (s : State) : exec (.phaserWait n also) s = execPhaserWait n also s := rfl
@[simp] theorem exec_phaserSignalWait (n : _) (also : _) (s : State) : exec (.phaserSignalWait n also) s = execPhaserSignalWait n also s := rfl
@[simp] theorem exec_waiterLinkWrite (n : _) (s : State) : exec (.waiterLinkWrite n) s = execWaiterLinkWrite n s := rfl
@[simp] theorem exec_phaserRelease (n : _) (s : State) : exec (.phaserRelease n) s = execPhaserRelease n s := rfl
@[simp] theorem exec_clusterAccess (n : _) (s : State) : exec (.clusterAccess n) s = execClusterAccess n s := rfl
@[simp] theorem exec_clusterReply (n : _) (s : State) : exec (.clusterReply n) s = execClusterReply n s := rfl
@[simp] theorem exec_mwldFlit (n : _) (s : State) : exec (.mwldFlit n) s = execMwldFlit n s := rfl
@[simp] theorem exec_arrayMessage (n : _) (s : State) : exec (.arrayMessage n) s = execArrayMessage n s := rfl
@[simp] theorem exec_arrayFiringStart (cluster : _) (g : _) (s : State) : exec (.arrayFiringStart cluster g) s = execArrayFiringStart cluster g s := rfl
@[simp] theorem exec_arrayFiringEnd (cluster : _) (g : _) (s : State) : exec (.arrayFiringEnd cluster g) s = execArrayFiringEnd cluster g s := rfl
@[simp] theorem exec_mdrnDrain (cluster : _) (g : _) (s : State) : exec (.mdrnDrain cluster g) s = execMdrnDrain cluster g s := rfl
@[simp] theorem exec_flitReceive (n : _) (s : State) : exec (.flitReceive n) s = execFlitReceive n s := rfl
@[simp] theorem exec_egressArbitration (out : _) (s : State) : exec (.egressArbitration out) s = execEgressArbitration out s := rfl
@[simp] theorem exec_homeAccess (elem : _) (k : _) (s : State) : exec (.homeAccess elem k) s = execHomeAccess elem k s := rfl
@[simp] theorem exec_tlbMiss (elem : _) (k : _) (s : State) : exec (.tlbMiss elem k) s = execTlbMiss elem k s := rfl
@[simp] theorem exec_pageWalk (pool : _) (k : _) (s : State) : exec (.pageWalk pool k) s = execPageWalk pool k s := rfl
@[simp] theorem exec_globalReply (n : _) (s : State) : exec (.globalReply n) s = execGlobalReply n s := rfl
@[simp] theorem exec_accessAck (n : _) (s : State) : exec (.accessAck n) s = execAccessAck n s := rfl
@[simp] theorem exec_engineCommand (cluster : _) (k : _) (s : State) : exec (.engineCommand cluster k) s = execEngineCommand cluster k s := rfl
@[simp] theorem exec_engineCompletion (cluster : _) (k : _) (s : State) : exec (.engineCompletion cluster k) s = execEngineCompletion cluster k s := rfl
@[simp] theorem exec_futnApply (elem : _) (k : _) (s : State) : exec (.futnApply elem k) s = execFutnApply elem k s := rfl
@[simp] theorem exec_fresApply (elem : _) (k : _) (s : State) : exec (.fresApply elem k) s = execFresApply elem k s := rfl
@[simp] theorem exec_fregApply (elem : _) (k : _) (s : State) : exec (.fregApply elem k) s = execFregApply elem k s := rfl
@[simp] theorem exec_bindApply (n : _) (s : State) : exec (.bindApply n) s = execBindApply n s := rfl
@[simp] theorem exec_unbndApply (n : _) (s : State) : exec (.unbndApply n) s = execUnbndApply n s := rfl
@[simp] theorem exec_sectionCommit (elem : _) (k : _) (s : State) : exec (.sectionCommit elem k) s = execSectionCommit elem k s := rfl
@[simp] theorem exec_kickWrite (n : _) (fn : _) (q : _) (w : _) (s : State) : exec (.kickWrite n fn q w) s = execKickWrite n fn q w s := rfl
@[simp] theorem exec_queueEnable (fn : _) (q : _) (v : _) (s : State) : exec (.queueEnable fn q v) s = execQueueEnable fn q v s := rfl
@[simp] theorem exec_queueDisable (fn : _) (q : _) (v : _) (s : State) : exec (.queueDisable fn q v) s = execQueueDisable fn q v s := rfl
@[simp] theorem exec_queueResume (fn : _) (q : _) (v : _) (s : State) : exec (.queueResume fn q v) s = execQueueResume fn q v s := rfl
@[simp] theorem exec_registerWrite (fn : _) (page : _) (off : _) (size : _) (v : _) (s : State) : exec (.registerWrite fn page off size v) s = execRegisterWrite fn page off size v s := rfl
@[simp] theorem exec_icbMessage (fn : _) (v : _) (s : State) : exec (.icbMessage fn v) s = execIcbMessage fn v s := rfl
@[simp] theorem exec_ringSlotRead (fn : _) (q : _) (s : State) : exec (.ringSlotRead fn q) s = execRingSlotRead fn q s := rfl
@[simp] theorem exec_startDecision (core : _) (s : State) : exec (.startDecision core) s = execStartDecision core s := rfl
@[simp] theorem exec_launch (pid : _) (s : State) : exec (.launch pid) s = execLaunch pid s := rfl
@[simp] theorem exec_copyPacket (pid : _) (s : State) : exec (.copyPacket pid) s = execCopyPacket pid s := rfl
@[simp] theorem exec_barrierAnd (pid : _) (s : State) : exec (.barrierAnd pid) s = execBarrierAnd pid s := rfl
@[simp] theorem exec_barrierOr (pid : _) (s : State) : exec (.barrierOr pid) s = execBarrierOr pid s := rfl
@[simp] theorem exec_barrierPoll (pid : _) (s : State) : exec (.barrierPoll pid) s = execBarrierPoll pid s := rfl
@[simp] theorem exec_signalPacket (pid : _) (s : State) : exec (.signalPacket pid) s = execSignalPacket pid s := rfl
@[simp] theorem exec_graph (pid : _) (s : State) : exec (.graph pid) s = execGraph pid s := rfl
@[simp] theorem exec_cond (pid : _) (s : State) : exec (.cond pid) s = execCond pid s := rfl
@[simp] theorem exec_nopPacket (pid : _) (s : State) : exec (.nopPacket pid) s = execNopPacket pid s := rfl
@[simp] theorem exec_writePacket (pid : _) (s : State) : exec (.writePacket pid) s = execWritePacket pid s := rfl
@[simp] theorem exec_packetComplete (pid : _) (s : State) : exec (.packetComplete pid) s = execPacketComplete pid s := rfl
@[simp] theorem exec_lnchApply (n : _) (s : State) : exec (.lnchApply n) s = execLnchApply n s := rfl
@[simp] theorem exec_terminationWave (slot : _) (region : _) (s : State) : exec (.terminationWave slot region) s = execTerminationWave slot region s := rfl
@[simp] theorem exec_parkSwitch (slot : _) (region : _) (s : State) : exec (.parkSwitch slot region) s = execParkSwitch slot region s := rfl
@[simp] theorem exec_parkHang (slot : _) (region : _) (s : State) : exec (.parkHang slot region) s = execParkHang slot region s := rfl
@[simp] theorem exec_packetCoreRestart (core : _) (s : State) : exec (.packetCoreRestart core) s = execPacketCoreRestart core s := rfl
@[simp] theorem exec_policyWatchdogExpiry (s : State) : exec (.policyWatchdogExpiry) s = execPolicyWatchdogExpiry s := rfl
@[simp] theorem exec_create (s : State) : exec (.create) s = execCreate s := rfl
@[simp] theorem exec_destroy (s : State) : exec (.destroy) s = execDestroy s := rfl
@[simp] theorem exec_mapPages (s : State) : exec (.mapPages) s = execMapPages s := rfl
@[simp] theorem exec_unmapPages (s : State) : exec (.unmapPages) s = execUnmapPages s := rfl
@[simp] theorem exec_service (s : State) : exec (.service) s = execService s := rfl
@[simp] theorem exec_frost (slot : _) (s : State) : exec (.frost slot) s = execFrost slot s := rfl
@[simp] theorem exec_thaw (s : State) : exec (.thaw) s = execThaw s := rfl
@[simp] theorem exec_evict (s : State) : exec (.evict) s = execEvict s := rfl
@[simp] theorem exec_restore (s : State) : exec (.restore) s = execRestore s := rfl
@[simp] theorem exec_gateThird (s : State) : exec (.gateThird) s = execGateThird s := rfl
@[simp] theorem exec_wakeThird (s : State) : exec (.wakeThird) s = execWakeThird s := rfl
@[simp] theorem exec_gateWays (s : State) : exec (.gateWays) s = execGateWays s := rfl
@[simp] theorem exec_wakeWays (s : State) : exec (.wakeWays) s = execWakeWays s := rfl
@[simp] theorem exec_pstate (s : State) : exec (.pstate) s = execPstate s := rfl
@[simp] theorem exec_dieGate (s : State) : exec (.dieGate) s = execDieGate s := rfl
@[simp] theorem exec_dieWake (s : State) : exec (.dieWake) s = execDieWake s := rfl
@[simp] theorem exec_setLimits (s : State) : exec (.setLimits) s = execSetLimits s := rfl
@[simp] theorem exec_inject (s : State) : exec (.inject) s = execInject s := rfl
@[simp] theorem exec_meterRing (s : State) : exec (.meterRing) s = execMeterRing s := rfl
@[simp] theorem exec_harvestRead (s : State) : exec (.harvestRead) s = execHarvestRead s := rfl
@[simp] theorem exec_exportWindow (s : State) : exec (.exportWindow) s = execExportWindow s := rfl
@[simp] theorem exec_fabric (s : State) : exec (.fabric) s = execFabric s := rfl
@[simp] theorem exec_meterPeriodicRecord (slot : _) (s : State) : exec (.meterPeriodicRecord slot) s = execMeterPeriodicRecord slot s := rfl
@[simp] theorem exec_hang (slot : _) (region : _) (s : State) : exec (.hang slot region) s = execHang slot region s := rfl
@[simp] theorem exec_droop (die : _) (s : State) : exec (.droop die) s = execDroop die s := rfl
@[simp] theorem exec_powerOn (s : State) : exec (.powerOn) s = execPowerOn s := rfl
@[simp] theorem exec_dieBistPass (die : _) (s : State) : exec (.dieBistPass die) s = execDieBistPass die s := rfl
@[simp] theorem exec_atsInvalidation (fn : _) (va : _) (len : _) (s : State) : exec (.atsInvalidation fn va len) s = execAtsInvalidation fn va len s := rfl
@[simp] theorem exec_rosgenFlitReceive (port : _) (f : _) (s : State) : exec (.rosgenFlitReceive port f) s = execRosgenFlitReceive port f s := rfl
@[simp] theorem exec_nakReceive (port : _) (sn : _) (s : State) : exec (.nakReceive port sn) s = execNakReceive port sn s := rfl
@[simp] theorem exec_replayTimeout (port : _) (s : State) : exec (.replayTimeout port) s = execReplayTimeout port s := rfl
@[simp] theorem exec_rosgenMessageApply (n : _) (s : State) : exec (.rosgenMessageApply n) s = execRosgenMessageApply n s := rfl
@[simp] theorem exec_failReceive (n : _) (s : State) : exec (.failReceive n) s = execFailReceive n s := rfl
@[simp] theorem exec_endToEndAck (n : _) (s : State) : exec (.endToEndAck n) s = execEndToEndAck n s := rfl
@[simp] theorem exec_inboundAccess (n : _) (s : State) : exec (.inboundAccess n) s = execInboundAccess n s := rfl
@[simp] theorem exec_dispAppend (n : _) (s : State) : exec (.dispAppend n) s = execDispAppend n s := rfl
@[simp] theorem exec_dispatchPlace (n : _) (k : _) (s : State) : exec (.dispatchPlace n k) s = execDispatchPlace n k s := rfl
@[simp] theorem exec_dispatchOutcome (n : _) (s : State) : exec (.dispatchOutcome n) s = execDispatchOutcome n s := rfl
@[simp] theorem exec_collMessage (n : _) (s : State) : exec (.collMessage n) s = execCollMessage n s := rfl
@[simp] theorem exec_waysWakeDone (kind : _) (unit : _) (group : _) (s : State) : exec (.waysWakeDone kind unit group) s = execWaysWakeDone kind unit group s := rfl
@[simp] theorem exec_deviceReset (s : State) : exec (.deviceReset) s = execDeviceReset s := rfl
@[simp] theorem exec_powerLoss (s : State) : exec (.powerLoss) s = execPowerLoss s := rfl
@[simp] theorem exec_rosgenPortUp (port : _) (peer : _) (s : State) : exec (.rosgenPortUp port peer) s = execRosgenPortUp port peer s := rfl
@[simp] theorem exec_rosgenPortDown (port : _) (s : State) : exec (.rosgenPortDown port) s = execRosgenPortDown port s := rfl
@[simp] theorem exec_rosgenPortSend (port : _) (s : State) : exec (.rosgenPortSend port) s = execRosgenPortSend port s := rfl
@[simp] theorem exec_droopEnd (die : _) (s : State) : exec (.droopEnd die) s = execDroopEnd die s := rfl
@[simp] theorem exec_tirzonMemoryUe (s : State) : exec (.tirzonMemoryUe) s = execTirzonMemoryUe s := rfl
@[simp] theorem exec_msixUnmask (fn : _) (v : _) (s : State) : exec (.msixUnmask fn v) s = execMsixUnmask fn v s := rfl
@[simp] theorem exec_firmwareUpdate (img : _) (s : State) : exec (.firmwareUpdate img) s = execFirmwareUpdate img s := rfl

end Sys2Proof.Machine
end

