-- ==== Sys2Proof/Laws/Memory.lean ====
section
/-! SUPPORT. Memories: every operation keeps the canonical form, a write is read back, and it leaves every other address alone. -/

namespace Sys2Proof.Machine

theorem Memory.wfFrom_mono {lo lo' : Nat} (m : List Host.Cell) (h : lo' ≤ lo) (w : Memory.wfFrom lo m = true) : Memory.wfFrom lo' m = true := by
  cases m with
  | nil => rfl
  | cons r m =>
    obtain ⟨j, x⟩ := r
    simp only [Memory.wfFrom, Bool.and_eq_true, decide_eq_true_eq] at w ⊢
    exact ⟨⟨Nat.le_trans h w.1.1, w.1.2⟩, w.2⟩

theorem Memory.wfFrom_put {lo : Nat} (m : List Host.Cell) (a : Nat) (b : Byte) (h : lo ≤ a) (w : Memory.wfFrom lo m = true) :
    Memory.wfFrom lo (Memory.put m a b) = true := by
  induction m generalizing lo with
  | nil => simp only [Memory.put]; split <;> simp_all [Memory.wfFrom]
  | cons r m ih =>
    obtain ⟨j, x⟩ := r
    simp only [Memory.wfFrom, Bool.and_eq_true, decide_eq_true_eq, bne_iff_ne] at w
    obtain ⟨⟨hj, hx⟩, wt⟩ := w
    simp only [Memory.put]
    split
    · split
      · simp_all [Memory.wfFrom]
      · simp only [Memory.wfFrom, Bool.and_eq_true, decide_eq_true_eq, bne_iff_ne]
        exact ⟨⟨h, by assumption⟩, ⟨by omega, hx⟩, wt⟩
    · split
      · subst_vars
        split
        · exact Memory.wfFrom_mono m (by omega) wt
        · simp_all [Memory.wfFrom]
      · simp only [Memory.wfFrom, Bool.and_eq_true, decide_eq_true_eq, bne_iff_ne]
        exact ⟨⟨hj, hx⟩, ih (by omega) wt⟩

/-- Writing a byte keeps the canonical form. -/
theorem Memory.wf_put (m : List Host.Cell) (a : Nat) (b : Byte) (w : Memory.wf m = true) : Memory.wf (Memory.put m a b) = true :=
  Memory.wfFrom_put m a b (Nat.zero_le a) w

/-- Writing bytes keeps the canonical form. -/
theorem Memory.wf_write (m : List Host.Cell) (a : Nat) (bs : List Byte) (w : Memory.wf m = true) : Memory.wf (Memory.write m a bs) = true := by
  induction bs generalizing m a with
  | nil => exact w
  | cons b bs ih => exact ih _ _ (Memory.wf_put m a b w)

/-- Writing a number keeps the canonical form. -/
theorem Memory.wf_writeN (m : List Host.Cell) (a n k : Nat) (w : Memory.wf m = true) : Memory.wf (Memory.writeN m a n k) = true :=
  Memory.wf_write m a _ w

theorem Memory.wfFrom_filter {lo : Nat} (m : List Host.Cell) (p : Host.Cell → Bool) (w : Memory.wfFrom lo m = true) :
    Memory.wfFrom lo (m.filter p) = true := by
  induction m generalizing lo with
  | nil => rfl
  | cons r m ih =>
    obtain ⟨j, x⟩ := r
    simp only [Memory.wfFrom, Bool.and_eq_true, decide_eq_true_eq] at w
    simp only [List.filter]
    split
    · simp only [Memory.wfFrom, Bool.and_eq_true, decide_eq_true_eq]
      exact ⟨w.1, ih w.2⟩
    · exact Memory.wfFrom_mono _ (by omega) (ih w.2)

/-- Clearing a range keeps the canonical form. -/
theorem Memory.wf_clear (m : List Host.Cell) (lo hi : Nat) (w : Memory.wf m = true) : Memory.wf (Memory.clear m lo hi) = true :=
  Memory.wfFrom_filter m _ w

/-- Writing masked pieces keeps the canonical form. -/
theorem Memory.wf_putPieces (m : List Host.Cell) (ps : List Piece) (w : Memory.wf m = true) : Memory.wf (putPieces m ps) = true := by
  induction ps generalizing m with
  | nil => exact w
  | cons p ps ih => exact ih _ (Memory.wf_put m _ _ w)

/-- The memory that lists nothing is in canonical form. -/
theorem Memory.wf_nil : Memory.wf [] = true := rfl

theorem Memory.get_of_wfFrom {lo a : Nat} (m : List Host.Cell) (h : a < lo) (w : Memory.wfFrom lo m = true) : Memory.get m a = Memory.blank := by
  cases m with
  | nil => rfl
  | cons r m =>
    obtain ⟨j, x⟩ := r
    simp only [Memory.wfFrom, Bool.and_eq_true, decide_eq_true_eq] at w
    have : j ≠ a := by omega
    simp only [Memory.get, this, ↓reduceIte]
    split
    · rfl
    · omega

/-- A byte written is read back. -/
theorem Memory.get_put_same (m : List Host.Cell) (a : Nat) (b : Byte) (w : Memory.wf m = true) : Memory.get (Memory.put m a b) a = b := by
  suffices H : ∀ lo, Memory.wfFrom lo m = true → Memory.get (Memory.put m a b) a = b from H 0 w
  clear w
  intro lo
  induction m generalizing lo with
  | nil => intro _; simp only [Memory.put]; split <;> simp_all [Memory.get]
  | cons r m ih =>
    obtain ⟨j, x⟩ := r
    intro w
    simp only [Memory.wfFrom, Bool.and_eq_true, decide_eq_true_eq] at w
    simp only [Memory.put]
    split
    · split
      · have : j ≠ a := by omega
        simp_all [Memory.get]
      · simp [Memory.get]
    · split
      · subst_vars
        split
        · simp_all [Memory.get_of_wfFrom m (Nat.lt_succ_self _) w.2]
        · simp [Memory.get]
      · have : j ≠ a := by omega
        have h2 : ¬ a < j := by omega
        simp only [Memory.get, this, ↓reduceIte, h2]
        exact ih _ w.2

/-- A write leaves every other byte alone. -/
theorem Memory.get_put_other (m : List Host.Cell) {a c : Nat} (b : Byte) (h : c ≠ a) (w : Memory.wf m = true) :
    Memory.get (Memory.put m a b) c = Memory.get m c := by
  suffices H : ∀ lo, Memory.wfFrom lo m = true → Memory.get (Memory.put m a b) c = Memory.get m c from H 0 w
  clear w
  intro lo
  induction m generalizing lo with
  | nil => intro _; simp only [Memory.put]; split <;> simp_all [Memory.get, Ne.symm h]
  | cons r m ih =>
    obtain ⟨j, x⟩ := r
    intro w
    have wf := w
    simp only [Memory.wfFrom, Bool.and_eq_true, decide_eq_true_eq] at w
    simp only [Memory.put]
    split
    · split
      · rfl
      · simp only [Memory.get, Ne.symm h, ↓reduceIte]
        split
        · split
          · omega
          · rename_i h1 h2
            split
            · rfl
            · omega
        · rfl
    · split
      · subst_vars
        split
        · simp only [Memory.get, Ne.symm h, ↓reduceIte]
          split
          · exact Memory.get_of_wfFrom m (by omega) w.2
          · rfl
        · simp only [Memory.get, Ne.symm h, ↓reduceIte]
      · simp only [Memory.get]
        split
        · rfl
        · split
          · rfl
          · exact ih _ w.2

/-- Reading the bytes just written gives them back. -/
theorem Memory.read_write_same (m : List Host.Cell) (a : Nat) (bs : List Byte) (w : Memory.wf m = true) :
    Memory.read (Memory.write m a bs) a bs.length = bs := by
  suffices H : ∀ (m : List Host.Cell) a, Memory.wf m = true →
      (∀ c, c < a → Memory.get (Memory.write m a bs) c = Memory.get m c) ∧ Memory.read (Memory.write m a bs) a bs.length = bs from (H m a w).2
  clear w
  induction bs with
  | nil => intro m a _; exact ⟨fun _ _ => rfl, rfl⟩
  | cons b bs ih =>
    intro m a w
    have w1 := Memory.wf_put m a b w
    have h := ih (Memory.put m a b) (a + 1) w1
    refine ⟨fun c hc => ?_, ?_⟩
    · rw [Memory.write, h.1 c (by omega), Memory.get_put_other m b (by omega) w]
    · simp only [Memory.write, List.length_cons, Memory.read, h.2, h.1 a (by omega), Memory.get_put_same m a b w]

/-- A write of bytes leaves every byte outside them alone. -/
theorem Memory.get_write_other (m : List Host.Cell) (a c : Nat) (bs : List Byte) (w : Memory.wf m = true) (h : c < a ∨ a + bs.length ≤ c) :
    Memory.get (Memory.write m a bs) c = Memory.get m c := by
  induction bs generalizing m a with
  | nil => rfl
  | cons b bs ih =>
    simp only [List.length_cons] at h
    rw [Memory.write, ih _ _ (Memory.wf_put m a b w) (by omega), Memory.get_put_other m b (by omega) w]

end Sys2Proof.Machine
end

