-- ==== Sys2Proof/Laws/InvState.lean ====
section
/-! SUPPORT. The invariant of Safety.lean: what its parts give, and that the plainest updates keep it. -/

namespace Sys2Proof.Machine

/-- The state that a step answers with, if any, keeps the invariant. -/
def outInv (o : Host.Outcome State Fault Refusal) : Prop := ∀ t, o = .next t → t.inv

/-- As `outInv`, for the effect of a word. -/
def wresInv (o : WRes) : Prop := (∀ t x, o = .go t x → t.inv) ∧ ∀ t c, o = .hurt t c → t.inv

/-- As `outInv`, for what an element issues. -/
def issueInv (o : Issue) : Prop := (∀ t, o = .stay t → t.inv) ∧ ∀ i t, o = .run i t → t.inv

/-- As `outInv`, for an optional state. -/
def optInv (o : Option State) : Prop := ∀ t, o = some t → t.inv

/-- As `outInv`, for an optional state with a value. -/
def optFstInv {α : Type} (o : Option (State × α)) : Prop := ∀ t, o = some t → t.1.inv

/-- As `outInv`, for an effect that may fault. -/
def excInv {ε : Type} (o : Except ε State) : Prop := ∀ t, o = .ok t → t.inv

/-- As `outInv`, for a read that may fault. -/
def excFstInv {ε α : Type} (o : Except ε (State × α)) : Prop := ∀ t, o = .ok t → t.1.inv

/-- A row that is found is a row of the table. -/
theorem rowsFind_mem {α : Type} {l : List (Nat × α)} {k : Nat} {x : α} (h : rowsFind k l = some x) : (k, x) ∈ l := by
  induction l with
  | nil => simp [rowsFind] at h
  | cons r l ih => 
    obtain ⟨j, y⟩ := r
    simp only [rowsFind] at h
    split at h
    · simp_all
    · exact List.mem_cons_of_mem _ (ih h)

/-- After a write a table holds the new row and rows that it held before. -/
theorem mem_rowsPut {α : Type} {l : List (Nat × α)} {k : Nat} {v : α} {r : Nat × α} (h : r ∈ rowsPut k v l) : r = (k, v) ∨ r ∈ l := by
  induction l with
  | nil => simpa [rowsPut] using h
  | cons q l ih =>
    obtain ⟨j, y⟩ := q
    simp only [rowsPut] at h
    split at h
    · simpa using h
    · split at h
      · have := List.mem_cons.mp h
        rcases this with h | h
        · exact .inl h
        · exact .inr (List.mem_cons_of_mem _ h)
      · rcases List.mem_cons.mp h with h | h
        · exact .inr (h ▸ List.mem_cons_self)
        · exact (ih h).imp id (List.mem_cons_of_mem _)

/-- A mapped table holds images of its rows. -/
theorem mem_mapVals {α : Type} {t : Table α} {f : Nat → α → α} {r : Nat × α} (h : r ∈ (t.mapVals f).rows) : ∃ x, (r.1, x) ∈ t.rows ∧ r.2 = f r.1 x := by
  simp only [Table.mapVals, List.mem_map] at h
  obtain ⟨q, hq, rfl⟩ := h
  exact ⟨q.2, hq, rfl⟩

theorem Elem.inv_reset (a : Nat) : (Elem.reset a).inv := ⟨rfl, by simp [Elem.reset], by simp [Elem.reset]⟩

namespace State

/-- Every element read from the table keeps the invariant, also one that is not listed. -/
theorem inv_get {t : Table Elem} (h : ∀ r ∈ t.rows, r.2.inv) (a : Nat) : (t.get (Elem.reset a) a).inv := by
  unfold Table.get Table.find?
  cases hf : rowsFind a t.rows with
  | none => exact Elem.inv_reset a
  | some x => exact h _ (rowsFind_mem hf)

theorem inv_elem {s : State} (h : s.inv) (a : Nat) : (s.elem a).inv := inv_get h.2.2.1 a

theorem inv_phys {s : State} (h : s.inv) : Memory.wf s.phys = true := h.1

theorem inv_host {s : State} (h : s.inv) : Memory.wf s.host = true := h.2.1

theorem inv_put {t : Table Elem} (h : ∀ r ∈ t.rows, r.2.inv) (a : Nat) (e : Elem) (he : e.inv) : ∀ r ∈ (t.put a e).rows, r.2.inv := by
  intro r hr
  rcases mem_rowsPut hr with rfl | hr
  · exact he
  · exact h r hr

theorem inv_setElem {s : State} (h : s.inv) (a : Nat) (e : Elem) (he : e.inv) : (s.setElem a e).inv :=
  ⟨h.1, h.2.1, inv_put h.2.2.1 a e he, h.2.2.2⟩

theorem inv_modElem {s : State} (h : s.inv) (a : Nat) (f : Elem → Elem) (hf : ∀ e, e.inv → (f e).inv) : (s.modElem a f).inv :=
  inv_setElem h a _ (hf _ (inv_elem h a))

theorem inv_mapVals {t : Table Elem} (h : ∀ r ∈ t.rows, r.2.inv) (f : Nat → Elem → Elem) (hf : ∀ a e, e.inv → (f a e).inv) : ∀ r ∈ (t.mapVals f).rows, r.2.inv := by
  intro r hr
  obtain ⟨x, hx, e⟩ := mem_mapVals hr
  rw [e]; exact hf _ _ (h _ hx)

theorem inv_modFn {s : State} (h : s.inv) (f : Nat) (g : Fn → Fn) : (s.modFn f g).inv := h

theorem inv_modPart {s : State} (h : s.inv) (f : Nat) (g : Part → Part) : (s.modPart f g).inv := h

theorem inv_modRegion {s : State} (h : s.inv) (p j : Nat) (g : Region → Region) : (s.modRegion p j g).inv := h

theorem inv_setClus {s : State} (h : s.inv) (c : Nat) (x : Cluster) : (s.setClus c x).inv := h

theorem inv_modClus {s : State} (h : s.inv) (c : Nat) (g : Cluster → Cluster) : (s.modClus c g).inv := h

theorem inv_modPort {s : State} (h : s.inv) (c : Nat) (g : Port → Port) : (s.modPort c g).inv := h

theorem inv_modWalker {s : State} (h : s.inv) (c u : Nat) (g : Walker → Walker) : (s.modWalker c u g).inv := h

theorem inv_modPhaser {s : State} (h : s.inv) (c u : Nat) (g : Phaser → Phaser) : (s.modPhaser c u g).inv := h

theorem inv_modQueue {s : State} (h : s.inv) (c u : Nat) (g : Queue → Queue) : (s.modQueue c u g).inv := h

/-- A fold of an operation that keeps the invariant keeps it. -/
theorem inv_foldl {α : Type} {s : State} (l : List α) (g : State → α → State) (h : s.inv) (hg : ∀ s x, s.inv → (g s x).inv) : (l.foldl g s).inv := by
  induction l generalizing s with
  | nil => exact h
  | cons x l ih => exact ih (hg s x h)

theorem inv_foldlFst {α β : Type} {s : State × β} (l : List α) (g : State × β → α → State × β) (h : s.1.inv) (hg : ∀ s x, s.1.inv → (g s x).1.inv) : (l.foldl g s).1.inv := by
  induction l generalizing s with
  | nil => exact h
  | cons x l ih => exact ih (hg s x h)

/-- A state that differs in nothing the invariant speaks of keeps it. -/
theorem inv_with {s : State} (h : s.inv) (cycle t7 free hurt cur clusters slices pools quads net hops egress drr crossbars poison hostBad hostq msix parts fns regions pkts pidNext parents cores ports rosOut sent rx mids rxNext disp coll collIssued collEarly dev) :
    (State.mk cycle t7 s.agenda free hurt cur s.elems clusters slices pools quads net hops egress drr crossbars s.phys s.host poison hostBad hostq msix parts fns regions pkts pidNext parents cores ports rosOut sent rx mids rxNext disp coll collIssued collEarly s.images dev).inv := h

/-- A state with other memories and elements keeps the invariant when they do. -/
theorem inv_mk {s : State} (h : s.inv) (cycle t7 free hurt cur elems clusters slices pools quads net hops egress drr crossbars phys host poison hostBad hostq msix parts fns regions pkts pidNext parents cores ports rosOut sent rx mids rxNext disp coll collIssued collEarly dev)
    (h1 : Memory.wf phys = true) (h2 : Memory.wf host = true) (h3 : ∀ r ∈ elems.rows, r.2.inv) :
    (State.mk cycle t7 s.agenda free hurt cur elems clusters slices pools quads net hops egress drr crossbars phys host poison hostBad hostq msix parts fns regions pkts pidNext parents cores ports rosOut sent rx mids rxNext disp coll collIssued collEarly s.images dev).inv := ⟨h1, h2, h3, h.2.2.2⟩

theorem inv_rows {s : State} (h : s.inv) : ∀ r ∈ s.elems.rows, r.2.inv := h.2.2.1
end State

theorem Memory.wf_foldPut {α : Type} (l : List α) (f : α → Nat) (g : α → Byte) (m : List Host.Cell) (w : Memory.wf m = true) :
    Memory.wf (l.foldl (fun m c => Memory.put m (f c) (g c)) m) = true := by
  induction l generalizing m with
  | nil => exact w
  | cons c l ih => exact ih _ (Memory.wf_put m _ _ w)

theorem Memory.wf_filter (m : List Host.Cell) (p : Host.Cell → Bool) (w : Memory.wf m = true) : Memory.wf (m.filter p) = true :=
  Memory.wfFrom_filter m p w

theorem Elem.inv_foldl {α : Type} {e : Elem} (l : List α) (g : Elem → α → Elem) (h : e.inv) (hg : ∀ e x, e.inv → (g e x).inv) : (l.foldl g e).inv := by
  induction l generalizing e with
  | nil => exact h
  | cons x l ih => exact ih (hg e x h)

/-- A word that a left shift of itself cancels is 0. -/
theorem bit_shiftLeft_self (x : Word) (k : Nat) (hk : 0 < k) (h : x ^^^ (x <<< k) = 0) : x = 0 := by
  have he : x = x <<< k := by
    have := congrArg (· ^^^ (x <<< k)) h
    simpa [BitVec.xor_assoc] using this
  have : ∀ i, x.getLsbD i = false := by
    intro i
    induction i using Nat.strongRecOn with
    | ind i ih =>
      rw [he, BitVec.getLsbD_shiftLeft]
      by_cases hi : i < k
      · simp [hi]
      · simp [hi, ih (i - k) (by omega)]
  apply BitVec.eq_of_getLsbD_eq
  intro i hi
  simp [this i]

/-- A word that a right shift of itself cancels is 0. -/
theorem bit_shiftRight_self (x : Word) (k : Nat) (hk : 0 < k) (h : x ^^^ (x >>> k) = 0) : x = 0 := by
  have he : x = x >>> k := by
    have := congrArg (· ^^^ (x >>> k)) h
    simpa [BitVec.xor_assoc] using this
  have : ∀ j i, 32 ≤ i + j → x.getLsbD i = false := by
    intro j
    induction j with
    | zero => intro i hi; exact BitVec.getLsbD_of_ge x i (by omega)
    | succ j ih =>
      intro i hi
      rw [he, BitVec.getLsbD_ushiftRight]
      exact ih (k + i) (by omega)
  apply BitVec.eq_of_getLsbD_eq
  intro i hi
  simp [this 32 i (by omega)]

/-- The generator never becomes 0 (R67). -/
theorem rngNext_ne_zero (x : Word) (h : x ≠ 0) : rngNext x ≠ 0 := by
  unfold rngNext
  intro h0
  exact h (bit_shiftLeft_self x 13 (by omega) (bit_shiftRight_self _ 17 (by omega) (bit_shiftLeft_self _ 5 (by omega) h0)))

/-- A relative id plus 1 is never 0 in 32 bits (R67). -/
theorem relId_ne (h : Hedge) (a : Nat) : BitVec.ofNat 32 (State.relId h a + 1) ≠ 0 := by
  have hb : ∀ x y e : Nat, x < 64 → y < 64 → e < 128 → idAt x y e + 1 < 1000000 := by
    intro x y e hx hy he
    unfold idAt
    have h1 : y / 6 * 6 + x / 8 < 80 := by omega
    have h2 : y % 6 / 3 * 2 + x % 8 / 4 < 8 := by omega
    have h3 : y % 3 * 4 + x % 4 < 16 := by omega
    show (y / 6 * 6 + x / 8) * 8192 + (y % 6 / 3 * 2 + x % 8 / 4) * 2048 + (y % 3 * 4 + x % 4) * 128 + e + 1 < 1000000
    omega
  have hx : gridX a < 64 := by
    unfold gridX
    have := Nat.mod_lt (bitsOf a 13 5) (show 0 < 6 by decide)
    have := Nat.mod_lt (bitsOf a 11 2) (show 0 < 2 by decide)
    have := Nat.mod_lt (bitsOf a 7 4) (show 0 < 4 by decide)
    omega
  have h5 : bitsOf a 13 5 < 32 := Nat.mod_lt _ (by decide)
  have h2 : bitsOf a 11 2 < 4 := Nat.mod_lt _ (by decide)
  have h4 : bitsOf a 7 4 < 16 := Nat.mod_lt _ (by decide)
  have hy : gridY a < 64 := by
    unfold gridY
    omega
  have h7 : elemIdx a < 128 := Nat.mod_lt _ (by decide)
  have hr := hb (gridX a - h.orgx) (gridY a - h.orgy) (elemIdx a) (by omega) (by omega) h7
  intro e
  have he := congrArg BitVec.toNat e
  rw [BitVec.toNat_ofNat, show State.relId h a = idAt (gridX a - h.orgx) (gridY a - h.orgy) (elemIdx a) from rfl, Nat.mod_eq_of_lt (Nat.lt_of_lt_of_le hr (by decide))] at he
  simp at he
end Sys2Proof.Machine
end

