-- ==== Sys2Proof/Laws/InvElement.lean ====
section
/-! SUPPORT. The invariant of Safety.lean is kept by the operations on tables and homes, faults and records, heads, local accesses, storage, tokens. -/

namespace Sys2Proof.Machine

set_option Elab.async false

open State

theorem Elem.inv_count (e : Elem) (p : Nat) (k : Nat) (n : Nat) (he : e.inv) : (Elem.count e p k n).inv := by
  unfold Elem.count
  grind [Elem.inv]

theorem Elem.inv_noteTable (e : Elem) (array : Nat) (k : Nat) (he : e.inv) : (Elem.noteTable e array k).inv := by
  unfold Elem.noteTable
  grind [Elem.inv]

theorem Elem.inv_noteWrite (e : Elem) (lo : Nat) (n : Nat) (he : e.inv) : (Elem.noteWrite e lo n).inv := by
  unfold Elem.noteWrite
  grind [Elem.inv]

theorem Elem.inv_setSlot (e : Elem) (x : HEntry) (j : Nat) (v : Nat) (he : e.inv) : (Elem.setSlot e x j v).inv := ⟨Memory.wf_writeN _ _ _ _ he.1, he.2⟩

theorem Elem.inv_writeHdr (e : Elem) (x : HEntry) (h : FrameHdr) (he : e.inv) : (e.writeHdr x h).inv := by
  have := Memory.wf_writeN e.mem x.addr 64 h.toNat he.1
  unfold Elem.writeHdr
  generalize Memory.writeN e.mem x.addr 64 h.toNat = m at this
  exact ⟨this, he.2⟩

theorem State.inv_imagePut (s : State) (at_ : Nat) (img : Image) (hs : s.inv) (himg : img.inv) : (s.imagePut at_ img).inv := by
  refine ⟨hs.1, Memory.wf_write _ _ _ hs.2.1, hs.2.2.1, fun r hr => ?_, hs.2.2.2.2⟩
  rcases List.mem_append.mp hr with hr | hr
  · exact hs.2.2.2.1 r (List.mem_filter.mp hr).1
  · rw [List.mem_singleton.mp hr]
    exact himg

theorem wf_enterLeaf (at_ : Nat → Nat) (m : Mapping) (n lvl a : Nat) (st : List Host.Cell × Nat × Nat) (h : Memory.wf st.1 = true) : Memory.wf (enterLeaf at_ m n lvl a st).1 = true := by
  induction n generalizing lvl a st with
  | zero => exact h
  | succ n ih =>
    obtain ⟨m, x, y⟩ := st
    unfold enterLeaf
    dsimp only
    split
    · exact Memory.wf_writeN _ _ _ _ h
    · split
      · exact ih _ _ _ h
      · exact ih _ _ _ (Memory.wf_writeN _ _ _ _ h)

theorem wf_enterMaps (at_ : Nat → Nat) (ms : List Mapping) (phys : List Host.Cell) (h : Memory.wf phys = true) : Memory.wf (enterMaps at_ ms phys).1 = true := by
  suffices ∀ st : List Host.Cell × Nat × Nat, Memory.wf st.1 = true → Memory.wf (ms.foldl (fun st m => enterLeaf at_ m 5 0 (at_ 0) st) st).1 = true from this _ h
  intro st hst
  induction ms generalizing st with
  | nil => exact hst
  | cons m ms ih => exact ih _ (wf_enterLeaf at_ m 5 0 (at_ 0) st hst)

theorem State.wf_noTables (s : State) (p : Nat) (hs : s.inv) : Memory.wf (s.noTables p) = true := by
  unfold State.noTables
  generalize s.tableRanges p = l
  have h := hs.1
  revert h
  generalize s.phys = m
  intro h
  induction l generalizing m with
  | nil => exact h
  | cons r l ih => exact ih _ (Memory.wf_clear _ _ _ h)

theorem State.inv_buildTables (s : State) (p : Nat) (hs : s.inv) : (s.buildTables p).inv := ⟨wf_enterMaps _ _ _ (State.wf_noTables s p hs), hs.2⟩

theorem State.inv_dropLeaves (s : State) (p : Nat) (bad : Leaf → Bool) (hs : s.inv) : (s.dropLeaves p bad).inv :=
  ⟨hs.1, hs.2.1, inv_mapVals hs.2.2.1 _ fun _ _ he => he, hs.2.2.2⟩

theorem State.inv_freeTables (s : State) (p : Nat) (hs : s.inv) : (State.freeTables s p).inv := ⟨State.wf_noTables s p hs, hs.2⟩

theorem State.inv_moveTables (s : State) (orig to_ : Nat) (hs : s.inv) : (s.moveTables orig to_).inv := by
  unfold State.moveTables
  dsimp only
  split
  · exact hs
  · exact State.inv_buildTables { s with dev := { s.dev with tablePages := (orig, to_) :: s.dev.tablePages.filter fun r => r.1 != orig } } _ hs

theorem State.inv_retirePage (s : State) (addr : Nat) (hs : s.inv) : (s.retirePage addr).inv := by
  unfold State.retirePage
  dsimp only
  split
  · exact hs
  · split
    · exact hs
    · have h : ∀ (m : List Host.Cell) (l : List Host.Cell) (f : Host.Cell → Nat) (g : Host.Cell → Byte), Memory.wf m = true → Memory.wf (l.foldl (fun m c => Memory.put m (f c) (g c)) m) = true :=
        fun m l f g hm => Memory.wf_foldPut l f g m hm
      split
      · exact State.inv_moveTables _ _ _ ⟨h _ _ _ _ (Memory.wf_clear _ _ _ hs.1), hs.2⟩
      · refine inv_foldl _ _ ⟨h _ _ _ _ (Memory.wf_clear _ _ _ hs.1), hs.2⟩ fun s r hs => ?_
        split
        · exact inv_dropLeaves _ _ _ (inv_buildTables _ _ hs)
        · exact hs

theorem State.inv_dmaAdd (s : State) (p : Nat) (n : Nat) (hs : s.inv) : (State.dmaAdd s p n).inv := by
  unfold State.dmaAdd
  grind [State.inv_modPart]

theorem State.inv_setLines (s : State) (k : Nat) (l : List HcLine) (hs : s.inv) : (State.setLines s k l).inv := by
  unfold State.setLines
  grind [State.inv_with]

theorem State.inv_sendMsix (s : State) (f : Nat) (v : Nat) (hs : s.inv) : (State.sendMsix s f v).inv := by
  unfold State.sendMsix
  grind [State.inv_with, State.inv_modFn]

theorem State.inv_icbDue (s : State) (f : Nat) (v : Nat) (hs : s.inv) : (State.icbDue s f v).inv := by
  unfold State.icbDue
  grind [State.inv_sendMsix, State.inv_modFn]

theorem State.inv_vecCount (s : State) (f : Nat) (v : Nat) (hs : s.inv) : (State.vecCount s f v).inv := by
  unfold State.vecCount
  grind [State.inv_modFn]

theorem State.inv_vecEvent (s : State) (f : Nat) (v : Nat) (hs : s.inv) : (State.vecEvent s f v).inv := by
  unfold State.vecEvent
  grind [State.inv_icbDue, State.inv_vecCount]

theorem State.inv_setVce (s : State) (f : Nat) (b : Nat) (hs : s.inv) : (State.setVce s f b).inv := by
  unfold State.setVce
  grind [State.inv_vecEvent, State.inv_modFn]

theorem State.inv_wordsRead (p : Nat) (hit : Nat → Flip → Bool) (ws : List Nat) (st : State × List Nat) (hst : st.1.inv) : (State.wordsRead p hit ws st).1.inv := by
  unfold State.wordsRead
  grind [State.inv_setVce, State.inv_with, State.inv_foldl, State.inv_foldlFst]

theorem State.inv_wordsWrote (hit : Nat → Flip → Bool) (ws : List Nat) (s : State) (hs : s.inv) : (State.wordsWrote hit ws s).inv := by
  unfold State.wordsWrote
  grind [State.inv_with]

theorem State.inv_writeBack (x : HcLine) (st : State × List Nat) (hst : st.1.inv) : (State.writeBack x st).1.inv := by
  unfold State.writeBack
  grind [State.inv_wordsRead, State.inv_wordsWrote]

theorem State.inv_lineIn (p : Nat) (line : Nat) (write : Bool) (st : State × List Nat) (hst : st.1.inv) : (State.lineIn p line write st).1.1.inv := by
  unfold State.lineIn
  grind [State.inv_setLines, State.inv_wordsRead, State.inv_wordsWrote, State.inv_writeBack]

theorem State.inv_homeTouch (s : State) (p pa n : Nat) (write : Bool) (hs : s.inv) : (s.homeTouch p pa n write).1.inv := by
  unfold State.homeTouch
  refine inv_foldlFst (s := (s, ([] : List Nat))) _ _ hs fun st i h => ?_
  dsimp only
  have h1 := State.inv_lineIn p (pa / 128 + i) write st h
  split
  · exact State.inv_wordsWrote _ _ _ h1
  · exact State.inv_wordsRead _ _ _ _ h1

theorem State.inv_retireAll (st : State × List Nat) (hst : st.1.inv) : (State.retireAll st).inv := by
  unfold State.retireAll
  grind [State.inv_retirePage, State.inv_foldl, State.inv_foldlFst]

theorem State.inv_walkFor (s : State) (p : Nat) (va : Nat) (cache : List (Nat × Nat)) (hs : s.inv) : (State.walkFor s p va cache).1.inv := by
  unfold State.walkFor
  refine State.inv_retireAll _ ?_
  split
  · exact hs
  · exact inv_foldlFst _ _ hs fun st a h => State.inv_homeTouch _ _ _ _ _ h

theorem State.inv_gread (s : State) (p : Nat) (va : Nat) (n : Nat) (hs : s.inv) : excFstInv (State.gread s p va n) := by
  unfold State.gread
  grind [State.inv_walkFor, State.inv_dmaAdd, State.inv_homeTouch, State.inv_retireAll, excFstInv]

theorem State.inv_greadN (s : State) (p : Nat) (va : Nat) (z3 : Nat) (z4 : Nat) (hs : s.inv) : excFstInv (State.greadN s p va z3 z4) := by
  induction z3 generalizing s va z4 with
  | zero => unfold State.greadN; grind [excFstInv]
  | succ n ih =>
    unfold State.greadN
    grind [excFstInv, State.inv_gread]

theorem State.inv_leafWrite (s : State) (l : Leaf) (va : Nat) (bs : List Byte) (hs : s.inv) : (s.leafWrite l va bs).inv := by
  have land : ∀ (q : List HostStore) (h : List Host.Cell), Memory.wf h = true → Memory.wf (q.foldl landStore h) = true := by
    intro q
    induction q with
    | nil => exact fun _ h => h
    | cons w q ih => exact fun h wf => ih _ (Memory.wf_write _ _ _ wf)
  unfold State.leafWrite
  dsimp only
  split
  · exact ⟨hs.1, Memory.wf_write _ _ _ (land _ _ hs.2.1), hs.2.2⟩
  · exact ⟨Memory.wf_write _ _ _ hs.1, hs.2⟩

theorem State.inv_homeWrite (s : State) (p : Nat) (l : Leaf) (va : Nat) (bs : List Byte) (hs : s.inv) : (State.homeWrite s p l va bs).inv := by
  unfold State.homeWrite
  grind [State.inv_leafWrite, State.inv_dmaAdd, State.inv_retireAll, State.inv_homeTouch]

theorem State.inv_gwrite (s : State) (p : Nat) (va : Nat) (bs : List Byte) (hs : s.inv) : excInv (State.gwrite s p va bs) := by
  unfold State.gwrite
  grind [State.inv_walkFor, State.inv_homeWrite, excInv]

theorem State.inv_setVue (s : State) (f : Nat) (b : Nat) (code : Nat) (hs : s.inv) : (State.setVue s f b code).inv := by
  unfold State.setVue
  grind [State.inv_vecEvent, State.inv_modFn]

theorem State.inv_memFault (s : State) (p : Nat) (c : Nat) (va : Nat) (hs : s.inv) : (State.memFault s p c va).inv := by
  unfold State.memFault
  grind [State.inv_retireAll, State.inv_homeTouch, State.inv_setVue]

theorem State.inv_ringLost (s : State) (f : Nat) (hs : s.inv) : (State.ringLost s f).inv := by
  unfold State.ringLost
  grind [State.inv_setVue, State.inv_modFn]

theorem State.inv_ringPush (s : State) (f rec : Nat) (hs : s.inv) : (s.ringPush f rec).inv := by
  have hh (a : Nat) : State.inv { s with host := Memory.writeN s.host a 16 rec } := ⟨hs.1, Memory.wf_writeN _ _ _ _ hs.2.1, hs.2.2⟩
  unfold State.ringPush
  dsimp only
  split
  · exact inv_ringLost _ _ hs
  · split
    · split
      · exact inv_ringLost _ _ hs
      · exact inv_modFn (hh _) _ _
    · have := inv_gwrite s f ((s.fn f).ering.base + 16 * ((s.fn f).ering.wr.toNat % 2 ^ ((s.fn f).ering.sz + 8))) (leBytes 16 rec) hs
      split
      · exact inv_modFn (this _ ‹_›) _ _
      · exact inv_ringLost _ _ hs

theorem State.inv_errorOnly (s : State) (o : Org) (code : Nat) (hs : s.inv) : (State.errorOnly s o code).inv := by
  unfold State.errorOnly
  grind [State.inv_ringPush]

theorem State.inv_countSent (s : State) (a : Nat) (k : Nat) (d : Nat) (hs : s.inv) : (State.countSent s a k d).inv := by
  unfold State.countSent
  grind [Elem.inv, State.inv_modElem, State.inv_elem]

theorem State.inv_hedgeDrop (s : State) (o : Org) (tag : DWord) (fh : Word) (hs : s.inv) : (State.hedgeDrop s o tag fh).inv := by
  unfold State.hedgeDrop
  grind [State.inv_errorOnly]

theorem State.inv_post (s : State) (src : Place) (dst : Place) (vn : Nat) (cls : Nat) (own : Nat) (bus : Bool) (msg : Msg) (hs : s.inv) : (State.post s src dst vn cls own bus msg).inv := by
  unfold State.post
  grind [State.inv_with]

theorem State.inv_injectToken (s : State) (o : Org) (t : Token) (count : Bool) (hs : s.inv) : (State.injectToken s o t count).inv := by
  unfold State.injectToken
  grind [State.inv_hedgeDrop, State.inv_countSent, State.inv_post]

theorem State.inv_trapToken (s : State) (o : Org) (code : Nat) (hs : s.inv) : (State.trapToken s o code).inv := by
  unfold State.trapToken
  grind [State.inv_injectToken, State.inv_elem]

theorem State.inv_fault (s : State) (o : Org) (code : Nat) (hs : s.inv) : (State.fault s o code).inv := by
  unfold State.fault
  grind [State.inv_trapToken, State.inv_errorOnly]

theorem State.inv_arriveFault (s : State) (a : Nat) (k : Nat) (t : Token) (code : Nat) (hs : s.inv) : (State.arriveFault s a k t code).inv := by
  unfold State.arriveFault
  grind [State.inv_errorOnly, State.inv_fault]

theorem State.inv_countGot (s : State) (a : Nat) (k : Nat) (d : Nat) (hs : s.inv) : (State.countGot s a k d).inv := by
  unfold State.countGot
  grind [Elem.inv, State.inv_modElem, State.inv_elem]

theorem State.inv_progress (s : State) (a : Nat) (k : Nat) (hs : s.inv) : (State.progress s a k).inv := by
  unfold State.progress
  grind [State.inv_modRegion]

theorem State.inv_countRecv (s : State) (a : Nat) (k : Nat) (d : Nat) (hs : s.inv) : (State.countRecv s a k d).inv :=
  State.inv_progress _ _ _ (State.inv_countGot _ _ _ _ hs)

theorem State.inv_linkOne (s : State) (a : Nat) (x : ReadyEntry) (nxt : Option ReadyEntry) (hs : s.inv) : (State.linkOne s a x nxt).inv := by
  unfold State.linkOne
  grind [Elem.inv_setSlot, State.inv_setElem, State.inv_elem, Elem.inv]

theorem State.inv_linkAll (s : State) (a : Nat) (z2 : List ReadyEntry) (hs : s.inv) : (State.linkAll s a z2).inv := by
  induction z2 generalizing s with
  | nil => exact hs
  | cons x l ih =>
    cases l with
    | nil => exact State.inv_linkOne s a x none hs
    | cons y r => exact ih _ (State.inv_linkOne s a x (some y) hs)

theorem State.inv_relink (s : State) (a : Nat) (ch : Nat) (hs : s.inv) : (State.relink s a ch).inv := by
  unfold State.relink
  grind [State.inv_linkAll, State.inv_elem]

theorem State.inv_noteReady (s : State) (a : Nat) (fh : Word) (node : Nat) (ch : Nat) (hs : s.inv) : (State.noteReady s a fh node ch).inv := by
  unfold State.noteReady
  grind [State.inv_relink, Elem.inv, State.inv_setElem, State.inv_elem]

theorem State.inv_joinArrive (s : State) (a : Nat) (k : Nat) (y : HEntry) (h : FrameHdr) (j : Nat) (ch : Nat) (t : Token) (hs : s.inv) : (State.joinArrive s a k y h j ch t).inv := by
  unfold State.joinArrive
  grind [State.inv_arriveFault, Elem.inv_writeHdr, State.inv_noteReady, Elem.inv_setSlot, State.inv_setElem, State.inv_modElem, State.inv_elem, Elem.inv]

theorem State.inv_applyToken (s : State) (a : Nat) (t : Token) (hs : s.inv) : (State.applyToken s a t).inv := by
  unfold State.applyToken
  grind [Elem.inv_count, State.inv_arriveFault, State.inv_countRecv, State.inv_joinArrive, State.inv_noteReady, Elem.inv_setSlot, State.inv_modElem, State.inv_elem, Elem.inv]

theorem State.inv_countCont (s : State) (a : Nat) (k : Nat) (c : Option Cont) (hs : s.inv) : (State.countCont s a k c).inv := by
  unfold State.countCont
  grind [State.inv_countSent]

theorem State.inv_countRefused (s : State) (o : Org) (hs : s.inv) : (State.countRefused s o).inv := by
  unfold State.countRefused
  grind [State.inv_countGot]

theorem State.inv_sramCe (s : State) (a : Nat) (k : Nat) (array : Nat) (hs : s.inv) : (State.sramCe s a k array).inv := by
  unfold State.sramCe
  grind [State.inv_setVce, State.inv_ringPush]

theorem inv_logEvent (e : Elem) (f : Flip) (ctx : Nat) (he : e.inv) : (logEvent e f ctx).inv := by
  unfold logEvent
  grind [Elem.inv]

theorem State.inv_eccRead (s : State) (a : Nat) (k : Nat) (array : Nat) (idxs : List Nat) (hs : s.inv) : (State.eccRead s a k array idxs).1.inv := by
  unfold State.eccRead
  grind [Elem.inv_foldl, inv_logEvent, State.inv_sramCe, Elem.inv, State.inv_setElem, State.inv_elem, State.inv_foldl, State.inv_foldlFst, outInv, wresInv, issueInv, optInv, optFstInv, excInv, excFstInv]

theorem State.inv_eccMeet (s : State) (a k : Nat) (o : Org) (reads : List (Nat × List Nat)) (hs : s.inv) : (s.eccMeet a k o reads).inv := by
  unfold State.eccMeet
  refine inv_foldl _ _ hs fun s r h => ?_
  have h1 := State.inv_eccRead s a k r.1 r.2 h
  dsimp only
  split
  · exact h1
  · exact h1

theorem State.inv_meetToken (s : State) (a : Nat) (t : Token) (hs : s.inv) : (s.meetToken a t).inv := State.inv_eccMeet _ _ _ _ _ hs

theorem State.inv_deliver (s : State) (o : Org) (t : Token) (hs : s.inv) : (State.deliver s o t).inv := by
  unfold State.deliver
  grind [State.inv_applyToken, State.inv_meetToken, State.inv_injectToken]

theorem State.inv_fpx (s : State) (o : Org) (hs : s.inv) : (State.fpx s o).inv := by
  unfold State.fpx
  grind [State.inv_ringPush]

theorem State.inv_freeReq (s : State) (a : Nat) (slot : Option Nat) (hs : s.inv) : (State.freeReq s a slot).inv := by
  unfold State.freeReq
  grind [Elem.inv, State.inv_modElem, State.inv_elem]

theorem State.inv_replyTo (s : State) (o : Org) (payload : DWord) (e : Bool) (hs : s.inv) : (State.replyTo s o payload e).inv := by
  unfold State.replyTo
  grind [State.inv_freeReq, State.inv_deliver]

theorem State.inv_poisonTo (s : State) (o : Org) (code : Nat) (hs : s.inv) : (State.poisonTo s o code).inv := by
  unfold State.poisonTo
  grind [State.inv_replyTo]

theorem State.inv_replyFrom (s : State) (src : Place) (o : Org) (payload : DWord) (hs : s.inv) : (State.replyFrom s src o payload).inv := by
  unfold State.replyFrom
  grind [State.inv_post]

theorem Elem.inv_putData (e : Elem) (ps : List Piece) (he : e.inv) : (Elem.putData e ps).inv := ⟨Memory.wf_putPieces _ _ he.1, he.2⟩

theorem Elem.inv_endSeq (e : Elem) (k cycle : Nat) (he : e.inv) : (e.endSeq k cycle).inv := he

theorem State.inv_endSeq (s : State) (a : Nat) (k : Nat) (hs : s.inv) : (State.endSeq s a k).inv :=
  inv_modElem hs a _ fun _ he => Elem.inv_endSeq _ _ _ he

theorem State.inv_nextSeq (s : State) (a : Nat) (hs : s.inv) : (State.nextSeq s a).1.inv := by
  unfold State.nextSeq
  grind [Elem.inv, State.inv_setElem, State.inv_elem]

theorem State.inv_putAct (s : State) (a : Nat) (k : Nat) (act : Act) (hs : s.inv) : (State.putAct s a k act).inv := by
  unfold State.putAct
  grind [Elem.inv, State.inv_modElem, State.inv_elem]

theorem State.inv_syncFault (s : State) (a : Nat) (k : Nat) (act : Act) (code : Nat) (hs : s.inv) : (State.syncFault s a k act code).inv :=
  State.inv_fault _ _ _ (inv_modElem hs a _ fun _ he => he)

theorem State.inv_takeSlot (s : State) (a : Nat) (act : Act) (r : Req) (hs : s.inv) : optFstInv (State.takeSlot s a act r) := by
  unfold State.takeSlot
  grind [Elem.inv, State.inv_modElem, State.inv_elem, optFstInv]

theorem inv_barred (f : State → Nat → Act → WRes) (s : State) (a : Nat) (act : Act) (hs : s.inv) (hf : ∀ s a act, s.inv → wresInv (f s a act)) : wresInv (barred f s a act) := by
  unfold barred
  grind [State.inv_elem, wresInv]

theorem inv_gated (pr : BitVec 2) (pn : Bool) (f : State → Nat → Act → WRes) (s : State) (a : Nat) (act : Act) (hs : s.inv) (hf : ∀ s a act, s.inv → wresInv (f s a act)) : wresInv (gated pr pn f s a act) := by
  unfold gated
  grind [wresInv]

theorem inv_runWord (s : State) (f : State → Nat → Act → WRes) (hs : s.inv) (hf : ∀ s a act, s.inv → wresInv (f s a act)) : outInv (runWord s f) := by
  unfold runWord
  grind [State.inv_putAct, State.inv_syncFault, State.inv_elem, outInv, wresInv]

theorem inv_runBarred (pr : BitVec 2) (pn : Bool) (s : State) (f : State → Nat → Act → WRes) (hs : s.inv) (hf : ∀ s a act, s.inv → wresInv (f s a act)) : outInv (runBarred pr pn s f) := by
  unfold runBarred
  grind [inv_runWord, inv_gated, inv_barred, outInv, wresInv]

theorem inv_runPure (s : State) (f : State → Nat → Act → Act) (hs : s.inv) : outInv (runPure s f) := by
  unfold runPure
  grind [inv_runWord, outInv, wresInv]

theorem State.inv_fpxIf (s : State) (a : Nat) (act : Act) (wrote : Bool) (hs : s.inv) : (State.fpxIf s a act wrote).inv := by
  unfold State.fpxIf
  grind [State.inv_fpx]

theorem State.inv_srAdvance (s : State) (a : Nat) (rm : Nat) (hs : s.inv) : (State.srAdvance s a rm).inv := by
  unfold State.srAdvance
  grind [rngNext_ne_zero, Elem.inv, State.inv_modElem, State.inv_elem, outInv, wresInv, issueInv, optInv, optFstInv, excInv, excFstInv]

theorem State.inv_queueTok (s : State) (o : Org) (t : Token) (hs : s.inv) : (State.queueTok s o t).inv := by
  unfold State.queueTok
  grind [State.inv_nextSeq, Elem.inv, State.inv_modElem, State.inv_elem]

theorem Start.inv_send (x : Start) (s : State) (d : Dst) (t : Token) (hs : s.inv) : (Start.send x s d t).inv := by
  unfold Start.send
  grind [State.inv_queueTok]

theorem inv_checkedSend (s : State) (x : Start) (f : State → State) (hs : s.inv) (hf : ∀ s, s.inv → (f s).inv) : (checkedSend s x f).inv := by
  unfold checkedSend
  grind [State.inv_fault]

theorem inv_clearSlots (e : Elem) (y : HEntry) (js : List Nat) (he : e.inv) : (clearSlots e y js).inv := by
  unfold clearSlots
  exact Elem.inv_foldl _ _ he fun e j h => Elem.inv_setSlot _ _ _ _ h

theorem inv_frameRequest (s : State) (x : Start) (h : FrameHdr) (hs : s.inv) : (frameRequest s x h).inv := by
  unfold frameRequest
  grind [State.inv_fault, State.inv_nextSeq, State.inv_post, State.inv_countSent, Elem.inv, State.inv_modElem, State.inv_elem]

theorem inv_startHead (s : State) (kind : Nat) (o : OpN) (f : State → Start → State) (hs : s.inv) (hf : ∀ s x, s.inv → (f s x).inv) : outInv (startHead s kind o f) := by
  unfold startHead
  grind [inv_clearSlots, State.inv_noteReady, State.inv_relink, Elem.inv_count, State.inv_progress, Elem.inv, State.inv_setElem, State.inv_elem, outInv]

theorem inv_execCall (o : OpN) (s : State) (hs : s.inv) : outInv (execCall o s) := by
  unfold execCall
  grind [inv_startHead, State.inv_fault, inv_frameRequest, outInv]

theorem inv_execConst (o : OpN) (s : State) (hs : s.inv) : outInv (execConst o s) := by
  unfold execConst
  grind [inv_startHead, inv_checkedSend, Start.inv_send, outInv]

theorem inv_execExit (o : OpN) (s : State) (hs : s.inv) : outInv (execExit o s) := by
  unfold execExit
  grind [inv_startHead, State.inv_fault, Start.inv_send, outInv]

theorem inv_execGate (o : OpN) (s : State) (hs : s.inv) : outInv (execGate o s) := by
  unfold execGate
  grind [inv_startHead, inv_checkedSend, Start.inv_send, outInv]

theorem inv_execJoin (o : OpN) (s : State) (hs : s.inv) : outInv (execJoin o s) := by
  unfold execJoin
  grind [inv_startHead, inv_checkedSend, Start.inv_send, outInv]

theorem inv_execLoop (o : OpN) (s : State) (hs : s.inv) : outInv (execLoop o s) := by
  unfold execLoop
  grind [inv_startHead, State.inv_fault, inv_frameRequest, outInv]

theorem inv_execMerge (o : OpN) (s : State) (hs : s.inv) : outInv (execMerge o s) := by
  unfold execMerge
  grind [inv_startHead, inv_checkedSend, Start.inv_send, outInv]

theorem inv_execNext (o : OpN) (s : State) (hs : s.inv) : outInv (execNext o s) := by
  unfold execNext
  grind [inv_startHead, State.inv_fault, inv_frameRequest, outInv]

theorem inv_execPrune (o : OpN) (s : State) (hs : s.inv) : outInv (execPrune o s) := by
  unfold execPrune
  grind [inv_startHead, inv_checkedSend, Start.inv_send, outInv]

theorem inv_execRetn (o : OpN) (s : State) (hs : s.inv) : outInv (execRetn o s) := by
  unfold execRetn
  grind [inv_startHead, State.inv_fault, Start.inv_send, outInv]

theorem inv_execSeq (o : OpN) (s : State) (hs : s.inv) : outInv (execSeq o s) := by
  unfold execSeq
  grind [inv_startHead, State.inv_with, Elem.inv, State.inv_modElem, State.inv_elem, outInv]

theorem inv_execSink (o : OpN) (s : State) (hs : s.inv) : outInv (execSink o s) := by
  unfold execSink
  grind [inv_startHead, State.inv_fpx, outInv]

theorem inv_execSteer (o : OpN) (s : State) (hs : s.inv) : outInv (execSteer o s) := by
  unfold execSteer
  grind [inv_startHead, inv_checkedSend, Start.inv_send, outInv]

theorem State.inv_memqDrop (s : State) (a : Nat) (seq : Nat) (hs : s.inv) : (State.memqDrop s a seq).inv := by
  unfold State.memqDrop
  grind [Elem.inv, State.inv_modElem, State.inv_elem]

theorem State.inv_memqOut (s : State) (a : Nat) (seq : Nat) (hs : s.inv) : (State.memqOut s a seq).inv := by
  unfold State.memqOut
  grind [Elem.inv, State.inv_modElem, State.inv_elem]

theorem State.inv_rcDrop (s : State) (c : Nat) (ts : Nat) (p : Nat → Bool) (hs : s.inv) : (State.rcDrop s c ts p).inv := by
  unfold State.rcDrop
  grind [State.inv_modClus]

theorem inv_markDo (s : State) (a : Nat) (m : Acc) (hs : s.inv) : (markDo s a m).inv := by
  unfold markDo
  grind [State.inv_rcDrop, State.inv_replyTo]

theorem Elem.inv_putOwn (e : Elem) (ps : List Piece) (he : e.inv) : (e.putOwn ps).inv := ⟨Memory.wf_putPieces _ _ he.1, he.2⟩

theorem Elem.inv_landStl (e : Elem) (y : Acc) (he : e.inv) : (e.landStl y).inv := he

theorem inv_settleOne (s : State) (a : Nat) (hs : s.inv) : optInv (settleOne s a) := by
  unfold settleOne
  grind [State.inv_post, State.inv_memqOut, State.inv_memqDrop, Elem.inv_landStl, inv_markDo, State.inv_modElem, State.inv_elem, optInv]

theorem inv_settleGo (a : Nat) (z1 : Nat) (z2 : State) (hz2 : z2.inv) : (settleGo a z1 z2).inv := by
  induction z1 generalizing z2 with
  | zero => exact hz2
  | succ n ih =>
    unfold settleGo
    have := inv_settleOne z2 a hz2
    grind [optInv]

theorem State.inv_settle (s : State) (a : Nat) (hs : s.inv) : (State.settle s a).inv := by
  unfold State.settle
  grind [inv_settleGo, State.inv_elem]

theorem State.inv_issue (s : State) (a : Nat) (x : Acc) (hs : s.inv) : (State.issue s a x).inv := by
  unfold State.issue
  grind [State.inv_settle, Elem.inv, State.inv_modElem, State.inv_elem]

theorem Elem.inv_setSect (e : Elem) (x : Sect) (he : e.inv) : (Elem.setSect e x).inv := by
  unfold Elem.setSect
  grind [Elem.inv]

theorem Elem.inv_markStore (e : Elem) (fh : Word) (d : Nat) (las : List Nat) (he : e.inv) : (Elem.markStore e fh d las).inv := by
  unfold Elem.markStore
  grind [Elem.inv_setSect]

theorem State.inv_squashReqs (s : State) (a : Nat) (x : Sect) (hs : s.inv) : (State.squashReqs s a x).inv := by
  unfold State.squashReqs
  have h := inv_foldl ((x.hold.filter fun i => i.paid)) (fun s i => s.countRefused i.org) (inv_foldl ((((s.elem a).memq.filter fun y => x.issued a y.org && y.kind.clusTarget.isSome).map fun y => y.org) ++ x.stcs.map fun r => r.1)
    (fun s o => (s.freeReq a o.slot).countRefused o) hs fun s o h => State.inv_countRefused _ _ (State.inv_freeReq _ _ _ h)) fun s i h => State.inv_countRefused _ _ h
  exact State.inv_modElem (inv_foldl _ (fun s _ => s.countGot a x.ctx a) h fun s _ h => State.inv_countGot _ _ _ _ h) a
    (fun e => { e with memq := e.memq.filter fun y => !(x.issued a y.org && y.kind.clusTarget.isSome) }) fun _ he => he

theorem State.inv_squash (s : State) (a : Nat) (x : Sect) (direct : Bool) (hs : s.inv) : (State.squash s a x direct).inv := by
  unfold State.squash
  grind [Elem.inv_foldl, State.inv_squashReqs, Elem.inv_setSlot, State.inv_relink, State.inv_noteReady, Elem.inv, State.inv_setElem, State.inv_elem, State.inv_foldl, State.inv_foldlFst, outInv, wresInv, issueInv, optInv, optFstInv, excInv, excFstInv]

theorem State.inv_storeLocal (s : State) (a : Nat) (act : Act) (ps : List Piece) (hs : s.inv) : (State.storeLocal s a act ps).inv := by
  unfold State.storeLocal
  grind [State.inv_squash, Elem.inv_setSect, Elem.inv_markStore, State.inv_nextSeq, Elem.inv_putData, Elem.inv_putOwn, State.inv_issue, State.inv_setElem, State.inv_modElem, State.inv_elem, Elem.inv]

theorem inv_clusIssue (s : State) (a : Nat) (act : Act) (o : OpM) (kind : AccKind) (target : Nat) (ps : List Piece) (hs : s.inv) : wresInv (clusIssue s a act o kind target ps) := by
  unfold clusIssue
  grind [State.inv_takeSlot, State.inv_nextSeq, State.inv_issue, State.inv_countCont, wresInv, optFstInv]

theorem inv_execLdc (o : OpM) (s : State) (hs : s.inv) : outInv (execLdc o s) := by
  unfold execLdc
  grind [inv_runWord, Elem.inv_setSect, inv_clusIssue, State.inv_setElem, State.inv_elem, Elem.inv, outInv, wresInv]

theorem inv_execLdl (o : OpM) (s : State) (hs : s.inv) : outInv (execLdl o s) := by
  unfold execLdl
  grind [inv_runWord, State.inv_eccRead, Elem.inv_setSect, State.inv_setElem, State.inv_elem, Elem.inv, outInv, wresInv]

theorem inv_execStc (o : OpM) (s : State) (hs : s.inv) : outInv (execStc o s) := by
  unfold execStc
  grind [inv_runWord, State.inv_srAdvance, State.inv_fpxIf, State.inv_takeSlot, State.inv_nextSeq, State.inv_countCont, Elem.inv_setSect, State.inv_squash, inv_clusIssue, Elem.inv_markStore, State.inv_setElem, State.inv_modElem, State.inv_elem, Elem.inv, outInv, wresInv, optFstInv]

theorem inv_execStl (o : OpM) (s : State) (hs : s.inv) : outInv (execStl o s) := by
  unfold execStl
  grind [inv_runWord, State.inv_srAdvance, State.inv_storeLocal, State.inv_fpxIf, State.inv_elem, outInv, wresInv]

theorem State.inv_allocTouched (s : State) (a : Nat) (hs : s.inv) : (State.allocTouched s a).inv := by
  unfold State.allocTouched
  grind [Elem.inv, State.inv_modElem, State.inv_elem]

theorem State.inv_dropFlight (s : State) (n : Nat) (hs : s.inv) : (State.dropFlight s n).inv := by
  unfold State.dropFlight
  grind [State.inv_with]

theorem State.inv_freedDone (s : State) (o : Org) (hs : s.inv) : (State.freedDone s o).inv := by
  unfold State.freedDone
  grind [State.inv_settle, State.inv_memqDrop]

theorem inv_clearFrame (e : Elem) (y : HEntry) (n : Nat) (he : e.inv) : (clearFrame e y n).inv := by
  unfold clearFrame
  exact Elem.inv_foldl _ _ he fun e j h => Elem.inv_setSlot _ _ _ _ h

theorem State.inv_grantAt (s : State) (a : Nat) (r : AllocReq) (g : Nat) (esc : Bool) (hs : s.inv) : (State.grantAt s a r g esc).inv := by
  unfold State.grantAt
  grind [Elem.inv_noteTable, inv_clearFrame, Elem.inv_writeHdr, State.inv_allocTouched, Elem.inv_count, State.inv_applyToken, State.inv_post, Elem.inv, State.inv_setElem, State.inv_modRegion, State.inv_elem]

theorem State.inv_listTake (s : State) (a : Nat) (l : Nat) (i : Nat) (hs : s.inv) : (State.listTake s a l i).inv := by
  unfold State.listTake
  grind [Elem.inv, State.inv_modElem, State.inv_elem]

theorem State.inv_markFreed (s : State) (o : Org) (h : Word) (hs : s.inv) : (State.markFreed s o h).inv := by
  unfold State.markFreed
  grind [Elem.inv, State.inv_modElem, State.inv_elem]

theorem State.inv_queueMsg (s : State) (o : Org) (m : Msg) (scope : Option Nat) (otok : Bool) (hs : s.inv) : (State.queueMsg s o m scope otok).inv := by
  unfold State.queueMsg
  grind [Elem.inv, State.inv_modElem, State.inv_elem]

theorem State.inv_release (s : State) (a : Nat) (j : Nat) (y : HEntry) (h : Word) (hs : s.inv) : (State.release s a j y h).inv := by
  unfold State.release
  grind [State.inv_relink, Elem.inv, State.inv_modElem, State.inv_elem, State.inv_foldl, State.inv_foldlFst]

theorem State.inv_sendStorage (s : State) (d : Nat) (o : Org) (m : Msg) (hs : s.inv) : (State.sendStorage s d o m).inv := by
  unfold State.sendStorage
  grind [State.inv_queueMsg, State.inv_post, State.inv_elem]

theorem State.inv_tagTouched (s : State) (a : Nat) (hs : s.inv) : (State.tagTouched s a).inv := by
  unfold State.tagTouched
  grind [State.inv_modClus]

theorem State.inv_tryList (s : State) (a l : Nat) (hs : s.inv) : optInv (s.tryList a l) := by
  unfold State.tryList
  dsimp only
  split
  · intro t h; cases h
  · split
    · grind [optInv, inv_listTake, inv_grantAt]
    · split
      · grind [optInv, inv_listTake, inv_grantAt]
      · repeat' split
        any_goals (intro t h; cases h)
        exact inv_grantAt _ _ _ _ _ (inv_listTake _ _ _ _ (inv_modElem hs _ _ fun _ he => he))

theorem State.inv_visitLists (s : State) (a : Nat) (z2 : List Nat) (hs : s.inv) : (State.visitLists s a z2).inv := by
  induction z2 generalizing s with
  | nil => exact hs
  | cons x l ih =>
    unfold State.visitLists
    grind [optInv, State.inv_tryList, State.inv_modElem, Elem.inv]

theorem inv_execAlloc (o : OpM) (s : State) (hs : s.inv) : outInv (execAlloc o s) := by
  unfold execAlloc
  grind [inv_runBarred, State.inv_takeSlot, State.inv_nextSeq, State.inv_sendStorage, State.inv_countCont, outInv, wresInv, optFstInv]

theorem inv_onMsg (s : State) (n : Nat) (f : State → Flight → Option State) (hs : s.inv) (hf : ∀ s x, s.inv → optInv (f s x)) : outInv (onMsg s n f) := by
  unfold onMsg
  grind [State.inv_dropFlight, outInv, optInv]

theorem inv_execAllocRequestAccept (n : Nat) (s : State) (hs : s.inv) : outInv (execAllocRequestAccept n s) := by
  unfold execAllocRequestAccept
  grind [inv_onMsg, State.inv_post, State.inv_allocTouched, Elem.inv, State.inv_modElem, State.inv_elem, outInv, optInv]

theorem State.inv_meetList (s : State) (a l : Nat) (hs : s.inv) : (s.meetList a l).inv := State.inv_eccMeet _ _ _ _ _ hs

theorem inv_execAllocatorGrant (a : Nat) (s : State) (hs : s.inv) : outInv (execAllocatorGrant a s) := by
  unfold execAllocatorGrant
  dsimp only
  split
  · grind [outInv]
  · have h := State.inv_visitLists _ a ((((s.elem a).lists.rows.filter fun r => !r.2.isEmpty).map fun r => r.1).filter (fun l => decide ((s.elem a).lastList < l)) ++
      (((s.elem a).lists.rows.filter fun r => !r.2.isEmpty).map fun r => r.1).filter fun l => decide (l ≤ (s.elem a).lastList))
      (inv_foldl (((s.elem a).lists.rows.filter fun r => !r.2.isEmpty).map fun r => r.1) (fun s l => s.meetList a l) hs fun s l h => State.inv_meetList s a l h)
    intro t ht
    cases ht
    exact h

theorem inv_execAqry (o : OpM) (s : State) (hs : s.inv) : outInv (execAqry o s) := by
  unfold execAqry
  grind [inv_runBarred, State.inv_takeSlot, State.inv_nextSeq, State.inv_sendStorage, State.inv_countCont, outInv, wresInv, optFstInv]

theorem inv_execAqryQuery (n : Nat) (s : State) (hs : s.inv) : outInv (execAqryQuery n s) := by
  unfold execAqryQuery
  grind [inv_onMsg, State.inv_replyFrom, State.inv_post, State.inv_elem, outInv, optInv]

theorem inv_ownerMsg (s : State) (o : OpM) (store : Bool) (m : Org → Word → Msg) (hs : s.inv) : outInv (ownerMsg s o store m) := by
  unfold ownerMsg
  grind [inv_runBarred, State.inv_nextSeq, State.inv_markFreed, State.inv_queueMsg, outInv, wresInv]

theorem inv_execFree (o : OpM) (s : State) (hs : s.inv) : outInv (execFree o s) := by
  unfold execFree
  grind [inv_ownerMsg, outInv]

theorem inv_ownerEntry (s : State) (x : Flight) (o : Org) (h : Word) (f : Nat → HEntry → State) (hs : s.inv) (hf : ∀ a y, (f a y).inv) : optInv (ownerEntry s x o h f) := by
  unfold ownerEntry
  grind [State.inv_errorOnly, State.inv_elem, optInv]

theorem inv_execFreeMessage (n : Nat) (s : State) (hs : s.inv) : outInv (@execFreeMessage n s) := by
  unfold execFreeMessage
  refine inv_onMsg _ _ _ hs fun s x hs => ?_
  have hm (o : Option State) (g : State → State) (ho : optInv o) (hg : ∀ s, s.inv → (g s).inv) : optInv (o.map g) := by
    intro t h
    obtain ⟨u, hu, rfl⟩ := Option.map_eq_some_iff.mp h
    exact hg _ (ho _ hu)
  split
  · refine hm _ _ (inv_ownerEntry _ _ _ _ _ hs fun a y => ?_) fun s hs => State.inv_freedDone _ _ hs
    split
    · exact inv_errorOnly _ _ _ hs
    · split
      · exact inv_allocTouched _ _ (inv_release _ _ _ _ _ hs)
      · exact inv_allocTouched _ _ (inv_modElem hs _ _ fun e he => he)
  · intro t h; cases h

theorem inv_execHold (o : OpM) (s : State) (hs : s.inv) : outInv (execHold o s) := by
  unfold execHold
  grind [inv_ownerMsg, outInv]

theorem inv_execHoldMessage (n : Nat) (s : State) (hs : s.inv) : outInv (execHoldMessage n s) := by
  unfold execHoldMessage
  grind [inv_onMsg, inv_ownerEntry, State.inv_errorOnly, State.inv_allocTouched, Elem.inv, State.inv_modElem, State.inv_elem, outInv, optInv]

theorem inv_execTful (o : OpM) (s : State) (hs : s.inv) : outInv (execTful o s) := by
  unfold execTful
  grind [inv_ownerMsg, outInv]

theorem inv_execTfulMessage (n : Nat) (s : State) (hs : s.inv) : outInv (@execTfulMessage n s) := by
  unfold execTfulMessage
  refine inv_onMsg _ _ _ hs fun s x hs => ?_
  have hm (o : Option State) (g : State → State) (ho : optInv o) (hg : ∀ s, s.inv → (g s).inv) : optInv (o.map g) := by
    intro t h
    obtain ⟨u, hu, rfl⟩ := Option.map_eq_some_iff.mp h
    exact hg _ (ho _ hu)
  split
  · refine hm _ _ (inv_ownerEntry _ _ _ _ _ hs fun a y => ?_) fun s hs => State.inv_freedDone _ _ hs
    exact inv_tagTouched _ _ (inv_allocTouched _ _ (inv_modElem hs _ _ fun e he => he))
  · intro t h; cases h

theorem inv_execWindowRefill (a : Nat) (l : Nat) (s : State) (hs : s.inv) : outInv (execWindowRefill a l s) := by
  unfold execWindowRefill
  grind [State.inv_allocTouched, State.inv_dropFlight, State.inv_post, Elem.inv, State.inv_modElem, State.inv_elem, outInv]

theorem Elem.inv_apply (e : Elem) (l : Late) (he : e.inv) : (Elem.apply e l).inv := by
  unfold Elem.apply
  grind [Elem.inv_noteTable, Elem.inv_endSeq, Elem.inv]

theorem Elem.inv_lateTick (e : Elem) (he : e.inv) : (Elem.lateTick e).inv := by
  unfold Elem.lateTick
  split
  · exact he
  · have h := Elem.inv_foldl e.late Elem.apply he fun e l h => Elem.inv_apply e l h
    exact h

theorem State.inv_sendTok (s : State) (a : Nat) (act : Act) (t : Token) (hs : s.inv) : (State.sendTok s a act t).inv := by
  unfold State.sendTok
  grind [State.inv_nextSeq, State.inv_injectToken, Elem.inv_count, Elem.inv_setSect, State.inv_queueMsg, State.inv_modElem, State.inv_elem, Elem.inv]

theorem State.inv_sendHeld (s : State) (a : Nat) (x : Sending) (hs : s.inv) : (State.sendHeld s a x).inv := by
  unfold State.sendHeld
  grind [State.inv_sendTok, State.inv_post, State.inv_elem, State.inv_foldl, State.inv_foldlFst]

theorem State.inv_holdTick (s : State) (a : Nat) (hs : s.inv) : (State.holdTick s a).inv := by
  unfold State.holdTick
  grind [State.inv_sendHeld, Elem.inv, State.inv_modElem, State.inv_elem, State.inv_foldl, State.inv_foldlFst]

theorem inv_holdTicks (a n : Nat) (s : State) (hs : s.inv) : (holdTicks a n s).inv := by
  induction n generalizing s with
  | zero => exact hs
  | succ n ih =>
    unfold holdTicks
    split
    · exact ih _ (State.inv_holdTick _ _ hs)
    · exact hs

theorem State.inv_wordTick (s : State) (n : Nat) (hs : s.inv) : (s.wordTick n).inv := by
  unfold State.wordTick
  dsimp only
  exact inv_foldl _ _ ⟨hs.1, hs.2.1, inv_mapVals hs.2.2.1 _ fun _ e he => Elem.inv_lateTick e he, hs.2.2.2⟩ fun s r hs => inv_holdTicks _ _ _ hs

theorem inv_execEmit (o : OpK) (s : State) (hs : s.inv) : outInv (execEmit o s) := by
  unfold execEmit
  grind [inv_runWord, inv_gated, State.inv_sendTok, outInv, wresInv]

theorem inv_setMask (o : OpK) (s : State) (on : Bool) (hs : s.inv) : outInv (setMask o s on) := by
  unfold setMask
  grind [inv_runWord, inv_gated, Elem.inv, State.inv_modElem, State.inv_elem, outInv, wresInv]

theorem inv_execMask (o : OpK) (s : State) (hs : s.inv) : outInv (execMask o s) := by
  unfold execMask
  grind [inv_setMask, outInv]

theorem inv_execMcast (o : OpK) (s : State) (hs : s.inv) : outInv (execMcast o s) := by
  unfold execMcast
  grind [inv_runWord, inv_gated, State.inv_sendTok, Elem.inv, State.inv_modElem, State.inv_elem, State.inv_foldl, State.inv_foldlFst, outInv, wresInv]

theorem inv_execSend (o : OpK) (s : State) (hs : s.inv) : outInv (execSend o s) := by
  unfold execSend
  grind [inv_runWord, inv_gated, State.inv_sendTok, outInv, wresInv]

theorem inv_execSendc (o : OpK) (s : State) (hs : s.inv) : outInv (execSendc o s) := by
  unfold execSendc
  grind [inv_runWord, inv_gated, State.inv_sendTok, outInv, wresInv]

theorem inv_execUnmsk (o : OpK) (s : State) (hs : s.inv) : outInv (execUnmsk o s) := by
  unfold execUnmsk
  grind [inv_setMask, outInv]

end Sys2Proof.Machine
end

