-- ==== Sys2Proof/Laws/InvCluster.lean ====
section
/-! SUPPORT. The invariant of Safety.lean is kept by the operations on clusters: walkers, arrivals, phasers, the array, and the words of groups 4 and 6. -/

namespace Sys2Proof.Machine

set_option Elab.async false

open State

theorem State.inv_addRecord (s : State) (p : Nat) (j : Nat) (r : LaunchRec) (hs : s.inv) : (State.addRecord s p j r).inv := by
  unfold State.addRecord
  grind [State.inv_modRegion]

theorem State.inv_armUnit (s : State) (c : Nat) (u : Nat) (r : LaunchRec) (lo : Nat) (hi : Nat) (home : Nat) (hs : s.inv) : (State.armUnit s c u r lo hi home).inv := by
  unfold State.armUnit
  grind [State.inv_modWalker]

theorem inv_armMore (p : Nat) (j : Nat) (z2 : Nat) (z3 : State) (hz3 : z3.inv) : (armMore p j z2 z3).inv := by
  induction z2 generalizing z3 with
  | zero => exact hz3
  | succ n ih =>
    unfold armMore
    grind [State.inv_armUnit, State.inv_modRegion]

theorem State.inv_armAll (s : State) (c : Nat) (hs : s.inv) : (State.armAll s c).inv := by
  unfold State.armAll
  grind [inv_armMore, State.inv_foldl, State.inv_foldlFst]

theorem State.inv_reserve (s : State) (x : Flight) (hs : s.inv) : optInv (State.reserve s x) := by
  unfold State.reserve
  grind [State.inv_replyFrom, State.inv_post, State.inv_modWalker, optInv]

theorem inv_walkerIssue (s : State) (a : Nat) (act : Act) (d : Dst) (k : ReqKind) (f : State → Org → State) (hs : s.inv) (hf : ∀ s o, s.inv → (f s o).inv) : wresInv (walkerIssue s a act d k f) := by
  unfold walkerIssue
  grind [State.inv_takeSlot, State.inv_nextSeq, State.inv_countCont, wresInv, optFstInv]

theorem inv_execSplit (o : OpK) (s : State) (hs : s.inv) : outInv (execSplit o s) := by
  unfold execSplit
  grind [inv_runBarred, inv_walkerIssue, State.inv_post, outInv, wresInv]

theorem inv_execSplitApply (n : Nat) (s : State) (hs : s.inv) : outInv (execSplitApply n s) := by
  unfold execSplitApply
  grind [inv_onMsg, State.inv_reserve, State.inv_post, State.inv_replyFrom, State.inv_modWalker, outInv, optInv]

theorem inv_execWstat (o : OpK) (s : State) (hs : s.inv) : outInv (execWstat o s) := by
  unfold execWstat
  grind [inv_runWord, inv_gated, inv_walkerIssue, State.inv_post, outInv, wresInv]

theorem State.inv_promoteElem (s : State) (p : Nat) (a : Nat) (h : Word) (hs : s.inv) : (State.promoteElem s p a h).inv := by
  unfold State.promoteElem
  grind [State.inv_post, State.inv_elem, State.inv_foldl, State.inv_foldlFst]

theorem State.inv_promoteUnits (s : State) (p : Nat) (j : Nat) (h : Word) (hs : s.inv) : (State.promoteUnits s p j h).inv := by
  unfold State.promoteUnits
  grind [State.inv_post, State.inv_foldl, State.inv_foldlFst]

theorem State.inv_restUnit (s : State) (c : Nat) (u : Nat) (hs : s.inv) : (State.restUnit s c u).inv := by
  unfold State.restUnit
  grind [State.inv_armAll, State.inv_modWalker]

theorem State.inv_takeReply (s : State) (o : Org) (t : Option Token) (hs : s.inv) : (State.takeReply s o t).inv := by
  unfold State.takeReply
  grind [State.inv_freeReq, State.inv_deliver]

theorem State.inv_unitAnswered (s : State) (c : Nat) (u : Nat) (slot : Option Nat) (hs : s.inv) : (State.unitAnswered s c u slot).inv := by
  unfold State.unitAnswered
  grind [State.inv_restUnit, State.inv_modWalker]

theorem inv_execAllocRefusalArrival (n : Nat) (s : State) (hs : s.inv) : outInv (execAllocRefusalArrival n s) := by
  unfold execAllocRefusalArrival
  grind [inv_onMsg, State.inv_errorOnly, State.inv_countRefused, State.inv_unitAnswered, State.inv_fault, State.inv_freeReq, outInv, optInv]

theorem inv_execGrantDelivery (n : Nat) (s : State) (hs : s.inv) : outInv (execGrantDelivery n s) := by
  unfold execGrantDelivery
  grind [inv_onMsg, State.inv_freeReq, State.inv_replyTo, State.inv_takeReply, Elem.inv, State.inv_modElem, State.inv_elem, outInv, optInv]

theorem inv_execHorizonBroadcast (p : Nat) (j : Nat) (s : State) (hs : s.inv) : outInv (execHorizonBroadcast p j s) := by
  unfold execHorizonBroadcast
  grind [State.inv_allocTouched, State.inv_promoteUnits, State.inv_promoteElem, State.inv_modRegion, State.inv_foldl, State.inv_foldlFst, outInv]

theorem inv_execHorizonSnapshot (p : Nat) (j : Nat) (s : State) (hs : s.inv) : outInv (execHorizonSnapshot p j s) := by
  unfold execHorizonSnapshot
  grind [State.inv_modRegion, outInv]

theorem inv_execIdleFire (a : Nat) (t : Nat) (s : State) (hs : s.inv) : outInv (execIdleFire a t s) := by
  unfold execIdleFire
  grind [State.inv_post, State.inv_countSent, Elem.inv, State.inv_modElem, State.inv_elem, outInv]

theorem inv_execPromotion (n : Nat) (s : State) (hs : s.inv) : outInv (@execPromotion n s) := by
  unfold execPromotion
  refine inv_onMsg _ _ _ hs fun s x hs => ?_
  dsimp only
  repeat' split
  all_goals intro t h; cases h
  iterate 3 exact hs
  all_goals exact inv_allocTouched _ _ (inv_modElem hs _ _ fun e he => he)

theorem inv_execSplitResult (n : Nat) (s : State) (hs : s.inv) : outInv (execSplitResult n s) := by
  unfold execSplitResult
  grind [inv_onMsg, State.inv_replyTo, State.inv_armUnit, State.inv_restUnit, State.inv_modWalker, outInv, optInv]

theorem inv_execTokenArrival (n : Nat) (s : State) (hs : s.inv) : outInv (execTokenArrival n s) := by
  unfold execTokenArrival
  grind [inv_onMsg, State.inv_rcDrop, State.inv_applyToken, State.inv_elem, outInv, optInv]

theorem inv_execWalkerEmit (c : Nat) (u : Nat) (s : State) (hs : s.inv) : outInv (execWalkerEmit c u s) := by
  unfold execWalkerEmit
  grind [State.inv_post, State.inv_countSent, State.inv_restUnit, State.inv_modWalker, outInv]

theorem inv_execWalkerGrantDelivery (n : Nat) (s : State) (hs : s.inv) : outInv (execWalkerGrantDelivery n s) := by
  unfold execWalkerGrantDelivery
  grind [inv_onMsg, State.inv_unitAnswered, outInv, optInv]

theorem State.inv_phDue (s : State) (c : Nat) (n : Nat) (at_ : Nat) (hs : s.inv) : (State.phDue s c n at_).inv := by
  unfold State.phDue
  grind [State.inv_modPhaser]

theorem State.inv_phRefuse (s : State) (c : Nat) (p : Nat) (o : Org) (code : Nat) (wait : Bool) (hs : s.inv) : (State.phRefuse s c p o code wait).inv := by
  unfold State.phRefuse
  grind [State.inv_errorOnly, State.inv_post]

theorem State.inv_toWaiter (s : State) (src : Place) (p : Nat) (k : Cont) (m : Msg) (hs : s.inv) : (State.toWaiter s src p k m).inv := by
  unfold State.toWaiter
  grind [State.inv_post]

theorem inv_phCheck (c : Nat) (p : Nat) (n : Nat) (dropped : Bool) (s : State) (hs : s.inv) : (phCheck c p n dropped s).inv := by
  unfold phCheck
  grind [State.inv_toWaiter, State.inv_modPhaser]

theorem inv_phIdle (c : Nat) (n : Nat) (now : Nat) (z3 : Nat) (z4 : State) (hz4 : z4.inv) : (phIdle c n now z3 z4).inv := by
  induction z3 generalizing z4 with
  | zero => exact hz4
  | succ n ih =>
    unfold phIdle
    grind [inv_phCheck, State.inv_phDue]

theorem State.inv_phTick (s : State) (now : Nat) (hs : s.inv) : (State.phTick s now).inv := by
  unfold State.phTick
  grind [inv_phIdle, State.inv_foldl, State.inv_foldlFst]

theorem inv_phDrop (c : Nat) (p : Nat) (n : Nat) (st : State × Bool) (m : Org × PhOp) (hst : st.1.inv) : (phDrop c p n st m).1.inv := by
  unfold phDrop
  grind [State.inv_phRefuse, State.inv_modPhaser]

theorem inv_phReg (c : Nat) (n : Nat) (id : Nat) (s : State) (m : Org × PhOp) (hs : s.inv) : (phReg c n id s m).inv := by
  unfold phReg
  grind [State.inv_replyFrom, State.inv_errorOnly, State.inv_modPhaser]

theorem inv_phSignal (c : Nat) (p : Nat) (n : Nat) (s : State) (m : Org × PhOp) (hs : s.inv) : (phSignal c p n s m).inv := by
  unfold phSignal
  grind [State.inv_phRefuse, State.inv_modPhaser]

theorem inv_phWait (c : Nat) (p : Nat) (n : Nat) (s : State) (m : Org × PhOp) (hs : s.inv) : (phWait c p n s m).inv := by
  unfold phWait
  grind [State.inv_toWaiter, State.inv_phRefuse, State.inv_modPhaser]

theorem inv_phCycle (c : Nat) (p : Nat) (n : Nat) (ms : List (Org × Nat × PhOp)) (s : State) (hs : s.inv) : (phCycle c p n ms s).inv := by
  unfold phCycle
  grind [inv_phDrop, inv_phCheck, inv_phSignal, inv_phWait, inv_phReg, State.inv_phDue, State.inv_foldl, State.inv_foldlFst]

theorem inv_phEvent (n : Nat) (also : Option Nat) (kind : PhOp → Bool) (s : State) (hs : s.inv) : outInv (phEvent n also kind s) := by
  unfold phEvent
  dsimp only
  repeat' split
  all_goals
    intro t h
    cases h
    first
      | exact hs
      | exact inv_phCycle _ _ _ _ _ (inv_dropFlight _ _ hs)

theorem inv_execPhaserDrop (n : Nat) (also : Option Nat) (s : State) (hs : s.inv) : outInv (execPhaserDrop n also s) := by
  unfold execPhaserDrop
  grind [inv_phEvent, outInv]

theorem inv_execPhaserRegister (n : Nat) (also : Option Nat) (s : State) (hs : s.inv) : outInv (execPhaserRegister n also s) := by
  unfold execPhaserRegister
  grind [inv_phEvent, outInv]

theorem inv_execPhaserRelease (n : Nat) (s : State) (hs : s.inv) : outInv (execPhaserRelease n s) := by
  unfold execPhaserRelease
  grind [inv_onMsg, State.inv_applyToken, State.inv_rcDrop, State.inv_toWaiter, State.inv_elem, outInv, optInv]

theorem inv_execPhaserSignal (n : Nat) (also : Option Nat) (s : State) (hs : s.inv) : outInv (execPhaserSignal n also s) := by
  unfold execPhaserSignal
  grind [inv_phEvent, outInv]

theorem inv_execPhaserSignalWait (n : Nat) (also : Option Nat) (s : State) (hs : s.inv) : outInv (execPhaserSignalWait n also s) := by
  unfold execPhaserSignalWait
  grind [inv_phEvent, outInv]

theorem inv_execPhaserWait (n : Nat) (also : Option Nat) (s : State) (hs : s.inv) : outInv (execPhaserWait n also s) := by
  unfold execPhaserWait
  grind [inv_phEvent, outInv]

theorem inv_phaserSend (s : State) (o : OpS) (ok : Nat → Bool) (op : DWord → Cont → PhOp) (out : DWord → Option DWord) (waits : Bool) (hs : s.inv) : outInv (phaserSend s o ok op out waits) := by
  unfold phaserSend
  grind [inv_runBarred, State.inv_nextSeq, State.inv_queueMsg, State.inv_countCont, outInv, wresInv]

theorem inv_execPhdrp (o : OpS) (s : State) (hs : s.inv) : outInv (execPhdrp o s) := by
  unfold execPhdrp
  grind [inv_phaserSend, outInv]

theorem inv_execPhreg (o : OpS) (s : State) (hs : s.inv) : outInv (execPhreg o s) := by
  unfold execPhreg
  grind [inv_runBarred, State.inv_takeSlot, State.inv_nextSeq, State.inv_queueMsg, State.inv_countCont, outInv, wresInv, optFstInv]

theorem inv_execPhsig (o : OpS) (s : State) (hs : s.inv) : outInv (execPhsig o s) := by
  unfold execPhsig
  grind [inv_phaserSend, outInv]

theorem inv_execPhsw (o : OpS) (s : State) (hs : s.inv) : outInv (execPhsw o s) := by
  unfold execPhsw
  grind [inv_phaserSend, outInv]

theorem inv_execPhwt (o : OpS) (s : State) (hs : s.inv) : outInv (execPhwt o s) := by
  unfold execPhwt
  grind [inv_phaserSend, outInv]

theorem inv_execWaiterLinkWrite (n : Nat) (s : State) (hs : s.inv) : outInv (execWaiterLinkWrite n s) := by
  unfold execWaiterLinkWrite
  grind [inv_onMsg, Elem.inv_setSlot, State.inv_modElem, Elem.inv, State.inv_elem, outInv, optInv]

theorem State.inv_arrConfig (s : State) (c : Nat) (i : Nat) (g : Nat) (rows : Nat) (cols : Nat) (n : Nat) (m : Nat) (af : Ty) (wf : Ty) (f : Ty) (hs : s.inv) : (State.arrConfig s c i g rows cols n m af wf f).2.inv := by
  unfold State.arrConfig
  grind [Elem.inv, State.inv_modElem, State.inv_modClus, State.inv_elem, State.inv_foldl, State.inv_foldlFst]

theorem State.inv_arrReply (s : State) (c : Nat) (o : Org) (payload : Nat) (hs : s.inv) : (State.arrReply s c o payload).inv := by
  unfold State.arrReply
  grind [State.inv_replyFrom]

theorem State.inv_arrRefuse (s : State) (c : Nat) (o : Org) (op : ArrOp) (code : Nat) (hs : s.inv) : (State.arrRefuse s c o op code).inv := by
  unfold State.arrRefuse
  grind [State.inv_arrReply, State.inv_errorOnly]

theorem State.inv_markArrays (s : State) (c : Nat) (hs : s.inv) : (State.markArrays s c).inv := by
  unfold State.markArrays
  grind [State.inv_modClus]

theorem State.inv_arrTick (s : State) (hs : s.inv) : (State.arrTick s).inv := by
  unfold State.arrTick
  grind [State.inv_markArrays, State.inv_foldl, State.inv_foldlFst]

theorem State.inv_modArray (s : State) (c : Nat) (g : Nat) (f : ArrEnt → ArrEnt) (hs : s.inv) : (State.modArray s c g f).inv := by
  unfold State.modArray
  grind [State.inv_modClus]

theorem inv_arrApply (c : Nat) (o : Org) (op : ArrOp) (s : State) (hs : s.inv) : optInv (arrApply c o op s) := by
  unfold arrApply
  grind [State.inv_arrRefuse, State.inv_arrConfig, State.inv_arrReply, State.inv_modArray, Elem.inv, State.inv_modElem, State.inv_modClus, State.inv_elem, State.inv_foldl, State.inv_foldlFst, optInv]

theorem inv_arrPump (c : Nat) (z1 : List ArrMsg) (z2 : List Nat) (z3 : State) (z4 : List ArrMsg) (hz3 : z3.inv) : (arrPump c z1 z2 z3 z4).1.inv := by
  induction z1 generalizing z2 z3 z4 with
  | nil => exact hz3
  | cons x l ih =>
    unfold arrPump
    grind [inv_arrApply, optInv]

theorem State.inv_pumpArrays (s : State) (c : Nat) (hs : s.inv) : (State.pumpArrays s c).inv := by
  unfold State.pumpArrays
  grind [inv_arrPump, State.inv_modClus]

theorem State.inv_setTag (s : State) (o : Org) (h : Word) (b : Bool) (hs : s.inv) : (State.setTag s o h b).inv := by
  unfold State.setTag
  grind [State.inv_tagTouched, State.inv_allocTouched, Elem.inv, State.inv_modElem, State.inv_elem]

theorem inv_arrSend (s : State) (o : OpY) (f : Act → ArrOp) (hs : s.inv) : outInv (arrSend s o f) := by
  unfold arrSend
  grind [inv_runWord, State.inv_nextSeq, State.inv_post, State.inv_countCont, State.inv_takeSlot, outInv, wresInv, optFstInv]

theorem inv_drainAll (c : Nat) (x : ArrEnt) (rm : Nat) (d : Nat) (addr : Nat) (s : State) (hs : s.inv) : (drainAll c x rm d addr s).1.inv := by
  unfold drainAll
  grind [Memory.wf_write, Elem.inv_noteWrite, State.inv_srAdvance, Elem.inv, State.inv_modElem, State.inv_elem, State.inv_foldl, State.inv_foldlFst, outInv, wresInv, issueInv, optInv, optFstInv, excInv, excFstInv]

theorem inv_execArrayFiringEnd (c : Nat) (g : Nat) (s : State) (hs : s.inv) : outInv (execArrayFiringEnd c g s) := by
  unfold execArrayFiringEnd
  dsimp only
  split
  · grind [outInv]
  · rename_i x _
    split
    · grind [outInv]
    · have h1 : ∀ t : State, t.inv → (x.members.foldl (fun s j => s.modElem (idOfClus c j) fun e => if e.wdrop then { e with wdrop := false, wbuf := none } else e) t).inv :=
        fun t ht => inv_foldl x.members (fun s j => s.modElem (idOfClus c j) fun e => if e.wdrop then { e with wdrop := false, wbuf := none } else e) ht fun s j h =>
          inv_modElem h _ _ fun e he => by
            split
            · exact he
            · exact he
      grind [State.inv_setTag, State.inv_with, State.inv_modArray, State.inv_pumpArrays, State.inv_tagTouched, outInv]

theorem inv_execArrayMessage (n : Nat) (s : State) (hs : s.inv) : outInv (execArrayMessage n s) := by
  unfold execArrayMessage
  grind [inv_onMsg, State.inv_markArrays, State.inv_pumpArrays, State.inv_modClus, outInv, optInv]

theorem inv_execMbindOp (o : OpY) (s : State) (hs : s.inv) : outInv (execMbindOp o s) := by
  unfold execMbindOp
  grind [inv_arrSend, outInv]

theorem inv_execMbindW (o : OpY) (s : State) (hs : s.inv) : outInv (execMbindW o s) := by
  unfold execMbindW
  grind [inv_runWord, State.inv_tagTouched, Elem.inv, State.inv_modElem, State.inv_elem, outInv, wresInv]

theorem inv_execMcfg (o : OpY) (s : State) (hs : s.inv) : outInv (execMcfg o s) := by
  unfold execMcfg
  grind [inv_arrSend, outInv]

theorem inv_execMdrn (o : OpY) (s : State) (hs : s.inv) : outInv (execMdrn o s) := by
  unfold execMdrn
  grind [inv_arrSend, outInv]

theorem inv_execMdrnDrain (c : Nat) (g : Nat) (s : State) (hs : s.inv) : outInv (execMdrnDrain c g s) := by
  unfold execMdrnDrain
  grind [inv_drainAll, State.inv_fpx, State.inv_modArray, State.inv_setTag, State.inv_pumpArrays, State.inv_arrReply, State.inv_modClus, outInv]

theorem inv_execMfreeCfg (o : OpY) (s : State) (hs : s.inv) : outInv (execMfreeCfg o s) := by
  unfold execMfreeCfg
  grind [inv_arrSend, outInv]

theorem inv_execMfreeOp (o : OpY) (s : State) (hs : s.inv) : outInv (execMfreeOp o s) := by
  unfold execMfreeOp
  grind [inv_arrSend, outInv]

theorem inv_execMfreeW (z0 : OpY) (s : State) (hs : s.inv) : outInv (execMfreeW z0 s) := by
  unfold execMfreeW
  grind [inv_runWord, Elem.inv, State.inv_modElem, State.inv_elem, outInv, wresInv]

theorem inv_execMode (o : OpY) (s : State) (hs : s.inv) : outInv (execMode o s) := by
  unfold execMode
  grind [inv_runWord, Elem.inv, State.inv_modElem, State.inv_elem, outInv, wresInv]

theorem inv_execMstat (o : OpY) (s : State) (hs : s.inv) : outInv (execMstat o s) := by
  unfold execMstat
  grind [inv_arrSend, outInv]

theorem inv_flitAt (o : Org) (row : Nat) (col : Nat) (off : Nat) (data : List Byte) (last : Bool) (fin : Bool) (s : State) (a : Nat) (hs : s.inv) : (flitAt o row col off data last fin s a).inv := by
  unfold flitAt
  grind [Memory.wf_write, State.inv_errorOnly, Elem.inv_noteWrite, State.inv_tagTouched, Elem.inv, State.inv_setElem, State.inv_modElem, State.inv_elem, outInv, wresInv, issueInv, optInv, optFstInv, excInv, excFstInv]

theorem inv_execMwldFlit (n : Nat) (s : State) (hs : s.inv) : outInv (execMwldFlit n s) := by
  unfold execMwldFlit
  grind [inv_onMsg, inv_flitAt, State.inv_foldl, State.inv_foldlFst, outInv, optInv]

theorem inv_execScpr (o : OpY) (s : State) (hs : s.inv) : outInv (execScpr o s) := by
  unfold execScpr
  grind [inv_arrSend, outInv]

theorem inv_execScsnd (o : OpY) (s : State) (hs : s.inv) : outInv (execScsnd o s) := by
  unfold execScsnd
  grind [inv_arrSend, outInv]

theorem inv_execZskp (o : OpY) (s : State) (hs : s.inv) : outInv (execZskp o s) := by
  unfold execZskp
  grind [inv_arrSend, outInv]

theorem inv_globIssue (s : State) (a : Nat) (act : Act) (d : Dst) (k : ReqKind) (f : State → Org → Option Cont → State) (hs : s.inv) (hf : ∀ s o c, s.inv → (f s o c).inv) : wresInv (globIssue s a act d k f) := by
  unfold globIssue
  grind [State.inv_takeSlot, State.inv_nextSeq, State.inv_countCont, wresInv, optFstInv]

theorem inv_engineIssue (s : State) (a : Nat) (act : Act) (o : OpM) (k : EngKind) (hs : s.inv) : wresInv (engineIssue s a act o k) := by
  unfold engineIssue
  grind [inv_globIssue, State.inv_queueMsg, wresInv]

theorem inv_execClean (o : OpM) (s : State) (hs : s.inv) : outInv (execClean o s) := by
  unfold execClean
  grind [inv_runBarred, inv_globIssue, State.inv_issue, outInv, wresInv]

theorem inv_execCopy (o : OpM) (s : State) (hs : s.inv) : outInv (execCopy o s) := by
  unfold execCopy
  grind [inv_runBarred, inv_engineIssue, State.inv_srAdvance, State.inv_elem, outInv, wresInv]

theorem inv_execGath (o : OpM) (s : State) (hs : s.inv) : outInv (execGath o s) := by
  unfold execGath
  grind [inv_runWord, inv_engineIssue, State.inv_elem, outInv, wresInv]

theorem inv_execInval (o : OpM) (s : State) (hs : s.inv) : outInv (execInval o s) := by
  unfold execInval
  grind [inv_runBarred, State.inv_nextSeq, State.inv_issue, inv_globIssue, outInv, wresInv]

theorem inv_execLdg (o : OpM) (s : State) (hs : s.inv) : outInv (execLdg o s) := by
  unfold execLdg
  grind [inv_runWord, inv_globIssue, State.inv_issue, State.inv_elem, outInv, wresInv]

theorem inv_execPref (o : OpM) (s : State) (hs : s.inv) : outInv (execPref o s) := by
  unfold execPref
  grind [inv_runBarred, State.inv_nextSeq, State.inv_issue, outInv, wresInv]

theorem inv_execScat (o : OpM) (s : State) (hs : s.inv) : outInv (execScat o s) := by
  unfold execScat
  grind [inv_runWord, inv_engineIssue, State.inv_fpxIf, State.inv_srAdvance, State.inv_elem, outInv, wresInv]

theorem inv_execStg (o : OpM) (s : State) (hs : s.inv) : outInv (execStg o s) := by
  unfold execStg
  grind [inv_runWord, State.inv_srAdvance, inv_globIssue, State.inv_fpxIf, State.inv_issue, State.inv_elem, outInv, wresInv]

theorem State.inv_bindReply (s : State) (c : Nat) (o : Org) (code : Nat) (hs : s.inv) : (State.bindReply s c o code).inv := by
  unfold State.bindReply
  grind [State.inv_replyFrom]

theorem inv_atomic (s : State) (o : OpS) (fetch : Bool) (cas : Act → Option DWord) (idx : Sel) (hs : s.inv) : outInv (atomic s o fetch cas idx) := by
  unfold atomic
  grind [inv_runBarred, inv_globIssue, State.inv_issue, outInv, wresInv]

theorem inv_bindSend (s : State) (o : OpS) (undo : Bool) (hs : s.inv) : outInv (bindSend s o undo) := by
  unfold bindSend
  grind [inv_runBarred, State.inv_nextSeq, State.inv_queueMsg, inv_globIssue, outInv, wresInv]

theorem inv_commitReplies (s : State) (a : Nat) (x : Sect) (t : State) (ht : t.inv) : (commitReplies s a x t).inv := by
  unfold commitReplies
  grind [State.inv_fault, State.inv_countRefused, State.inv_freeReq, State.inv_replyTo, State.inv_foldl, State.inv_foldlFst]

theorem inv_commitStores (s : State) (x : Sect) (hs : s.inv) : (commitStores s x).inv := by
  unfold commitStores
  grind [Elem.inv_putData, State.inv_modElem, Elem.inv, State.inv_elem, State.inv_foldl, State.inv_foldlFst]

theorem inv_phaserMark (s : State) (o : OpS) (k : Word → AccKind) (hs : s.inv) : outInv (phaserMark s o k) := by
  unfold phaserMark
  grind [inv_runBarred, State.inv_nextSeq, State.inv_issue, outInv, wresInv]

theorem inv_execAcq (o : OpS) (s : State) (hs : s.inv) : outInv (execAcq o s) := by
  unfold execAcq
  grind [inv_phaserMark, outInv]

theorem inv_execAmo (o : OpS) (s : State) (hs : s.inv) : outInv (execAmo o s) := by
  unfold execAmo
  grind [inv_atomic, outInv]

theorem inv_execBind (o : OpS) (s : State) (hs : s.inv) : outInv (execBind o s) := by
  unfold execBind
  grind [inv_bindSend, outInv]

theorem inv_execBindApply (n : Nat) (s : State) (hs : s.inv) : outInv (execBindApply n s) := by
  unfold execBindApply
  grind [inv_onMsg, State.inv_settle, State.inv_bindReply, State.inv_errorOnly, State.inv_modClus, outInv, optInv]

theorem inv_execCas (o : OpS) (s : State) (hs : s.inv) : outInv (execCas o s) := by
  unfold execCas
  grind [inv_atomic, outInv]

theorem inv_execFamo (o : OpS) (s : State) (hs : s.inv) : outInv (execFamo o s) := by
  unfold execFamo
  grind [inv_atomic, outInv]

theorem inv_execFence (o : OpS) (s : State) (hs : s.inv) : outInv (execFence o s) := by
  unfold execFence
  grind [inv_runBarred, State.inv_nextSeq, State.inv_issue, outInv, wresInv]

theorem inv_futureOp (s : State) (o : OpS) (f : Act → Option Cont → AccKind) (ack : Bool) (hs : s.inv) : outInv (futureOp s o f ack) := by
  unfold futureOp
  grind [inv_runBarred, inv_globIssue, State.inv_issue, outInv, wresInv]

theorem inv_execFreg (o : OpS) (s : State) (hs : s.inv) : outInv (execFreg o s) := by
  unfold execFreg
  grind [inv_futureOp, outInv]

theorem inv_execFres (o : OpS) (s : State) (hs : s.inv) : outInv (execFres o s) := by
  unfold execFres
  grind [inv_futureOp, outInv]

theorem inv_execFutn (o : OpS) (s : State) (hs : s.inv) : outInv (execFutn o s) := by
  unfold execFutn
  grind [inv_futureOp, outInv]

theorem inv_execOend (z0 : OpS) (s : State) (hs : s.inv) : outInv (execOend z0 s) := by
  unfold execOend
  grind [inv_runWord, Elem.inv_setSect, State.inv_setElem, State.inv_elem, Elem.inv, outInv, wresInv]

theorem inv_execOsec (o : OpS) (s : State) (hs : s.inv) : outInv (execOsec o s) := by
  unfold execOsec
  grind [inv_runWord, Elem.inv_setSect, Elem.inv, State.inv_setElem, State.inv_elem, outInv, wresInv]

theorem inv_execOtok (o : OpS) (s : State) (hs : s.inv) : outInv (execOtok o s) := by
  unfold execOtok
  grind [inv_runWord, inv_gated, State.inv_nextSeq, State.inv_injectToken, Elem.inv_count, Elem.inv_setSect, State.inv_queueMsg, State.inv_modElem, State.inv_elem, Elem.inv, outInv, wresInv]

theorem inv_execRel (o : OpS) (s : State) (hs : s.inv) : outInv (execRel o s) := by
  unfold execRel
  grind [inv_phaserMark, outInv]

theorem inv_execSectionCommit (a : Nat) (k : Nat) (s : State) (hs : s.inv) : outInv (execSectionCommit a k s) := by
  unfold execSectionCommit
  grind [inv_commitStores, inv_commitReplies, State.inv_squash, Elem.inv, State.inv_modElem, State.inv_modRegion, State.inv_elem, State.inv_foldl, State.inv_foldlFst, outInv]

theorem inv_execUnbnd (o : OpS) (s : State) (hs : s.inv) : outInv (execUnbnd o s) := by
  unfold execUnbnd
  grind [inv_bindSend, outInv]

theorem inv_execUnbndApply (n : Nat) (s : State) (hs : s.inv) : outInv (execUnbndApply n s) := by
  unfold execUnbndApply
  grind [inv_onMsg, State.inv_settle, State.inv_bindReply, State.inv_modClus, outInv, optInv]

end Sys2Proof.Machine
end

