-- ==== Sys2Proof/Laws/InvMemory.lean ====
section
/-! SUPPORT. The invariant of Safety.lean is kept by the operations on memory, networks, the fabric and the meter. -/

namespace Sys2Proof.Machine

set_option Elab.async false

open State

theorem State.inv_handOver (s : State) (m : RMsg) (hs : s.inv) : (State.handOver s m).1.inv := by
  unfold State.handOver
  grind [State.inv_with, State.inv_modPort]

theorem State.inv_sendMsg (s : State) (die : Nat) (dmod : Nat) (sslot : Nat) (dslot : Nat) (b : RBody) (hs : s.inv) : (State.sendMsg s die dmod sslot dslot b).1.inv := by
  unfold State.sendMsg
  grind [State.inv_handOver, State.inv_with]

theorem State.inv_collTell (s : State) (die : Nat) (r : CollRun) (code : Nat) (hs : s.inv) : (State.collTell s die r code).inv := by
  unfold State.collTell
  grind [State.inv_sendMsg, State.inv_foldl, State.inv_foldlFst]

theorem State.inv_collReset (s : State) (p : Nat) (hs : s.inv) : (State.collReset s p).inv := by
  unfold State.collReset
  grind [State.inv_collTell, State.inv_sendMsg, State.inv_with, State.inv_foldl, State.inv_foldlFst]

theorem State.inv_gget (s : State) (p : Nat) (va : Nat) (n : Nat) (hs : s.inv) : excFstInv (State.gget s p va n) := by
  unfold State.gget
  grind [State.inv_greadN, excFstInv]

theorem State.inv_gwriteN (s : State) (p : Nat) (va : Nat) (z3 : Nat) (z4 : List Byte) (hs : s.inv) : excInv (State.gwriteN s p va z3 z4) := by
  induction z3 generalizing s va z4 with
  | zero => unfold State.gwriteN; grind [excInv]
  | succ n ih =>
    unfold State.gwriteN
    grind [excInv, State.inv_gwrite]

theorem State.inv_gput (s : State) (p : Nat) (va : Nat) (bs : List Byte) (hs : s.inv) : excInv (State.gput s p va bs) := by
  unfold State.gput
  grind [State.inv_gwriteN, excInv]

theorem Elem.inv_cleared (e : Elem) (now : Nat) (he : e.inv) : (Elem.cleared e now).inv := ⟨Memory.wf_nil, he.2⟩

theorem Elem.inv_clearedHalf (e : Elem) (p : Nat) (ts : Nat) (lo : Nat) (hi : Nat) (now : Nat) (he : e.inv) : (Elem.clearedHalf e p ts lo hi now).inv := ⟨Memory.wf_clear _ _ _ he.1, he.2⟩

theorem State.inv_clearSlot (s : State) (p : Nat) (hs : s.inv) : (s.clearSlot p).inv := by
  refine ⟨hs.1, hs.2.1, inv_mapVals hs.2.2.1 _ fun a e he => ?_, hs.2.2.2⟩
  dsimp only
  split
  · exact he
  · split
    · exact Elem.inv_clearedHalf _ _ _ _ _ _ he
    · exact Elem.inv_cleared _ _ he

theorem State.inv_cpFault (s : State) (p : Nat) (f : Nat) (code : Nat) (va : Nat) (hs : s.inv) : (State.cpFault s p f code va).inv := by
  unfold State.cpFault
  grind [State.inv_ringPush, State.inv_memFault]

theorem State.inv_qcbWrite (s : State) (f : Nat) (q : Nat) (hs : s.inv) : excInv (State.qcbWrite s f q) := by
  unfold State.qcbWrite
  grind [State.inv_gwrite, excInv]

theorem State.inv_queueTo (s : State) (f : Nat) (q : Nat) (st : Nat) (code : Nat) (event : Bool) (hs : s.inv) : (State.queueTo s f q st code event).inv := by
  unfold State.queueTo
  grind [State.inv_qcbWrite, State.inv_vecEvent, State.inv_cpFault, State.inv_modQueue, excInv]

theorem State.inv_queueReset (s : State) (f : Nat) (q : Nat) (hs : s.inv) : (State.queueReset s f q).inv := by
  unfold State.queueReset
  grind [State.inv_queueTo, State.inv_ringPush, State.inv_setVue, State.inv_modQueue]

theorem State.inv_resetPart (s : State) (p : Nat) (o : Option Org) (hs : s.inv) : (State.resetPart s p o).inv := by
  unfold State.resetPart
  grind [State.inv_clearSlot, State.inv_collReset, State.inv_setVue, State.inv_ringPush, State.inv_queueReset, State.inv_with, State.inv_foldl, State.inv_foldlFst]

theorem State.inv_fatal (s : State) (p : Nat) (o : Org) (code : Nat) (hs : s.inv) : (State.fatal s p o code).inv := by
  unfold State.fatal
  grind [State.inv_resetPart, State.inv_errorOnly]

theorem State.inv_eccFatal (s : State) (a : Nat) (k : Nat) (o : Org) (reads : List (Nat × List Nat)) (hs : s.inv) : (State.eccFatal s a k o reads).1.inv := by
  unfold State.eccFatal
  grind [State.inv_eccRead, State.inv_fatal, State.inv_foldl, State.inv_foldlFst]

theorem inv_execWalk (o : OpK) (s : State) (hs : s.inv) : outInv (@execWalk o s) := by
  unfold execWalk
  refine inv_runBarred _ _ _ _ hs fun s a act hs => ?_
  dsimp only
  have h := State.inv_eccFatal s a act.ctx (act.org a 0) [(0, wordsAt (act.src .n32 o.lit o.a 0).v.toNat 64)] hs
  have hw (t : State) (ht : t.inv) (f : State → Org → State) (hf : ∀ s o, s.inv → (f s o).inv) := inv_walkerIssue t a act o.dst .walker f ht hf
  split
  · grind [wresInv]
  · split
    · grind [wresInv]
    · split
      · grind [wresInv]
      · split
        · grind [wresInv]
        · refine hw _ h _ fun s o hs => ?_
          grind [inv_replyFrom, inv_armUnit, inv_addRecord]

theorem inv_execMwld (o : OpY) (s : State) (hs : s.inv) : outInv (execMwld o s) := by
  unfold execMwld
  grind [State.inv_eccFatal, inv_runWord, State.inv_nextSeq, State.inv_post, Elem.inv, State.inv_modElem, State.inv_elem, outInv, wresInv]

theorem State.inv_harvest (s : State) (cause : Nat) (hs : s.inv) : (State.harvest s cause).inv := ⟨Memory.wf_write _ _ _ hs.1, hs.2⟩

theorem State.inv_qcbPut (s : State) (f : Nat) (q : Nat) (hs : s.inv) : (State.qcbPut s f q).inv := by
  unfold State.qcbPut
  grind [State.inv_queueTo]

theorem State.inv_accDone (s : State) (a : Nat) (y : Acc) (hs : s.inv) : (State.accDone s a y).inv := by
  unfold State.accDone
  grind [State.inv_settle, State.inv_memqDrop]

theorem State.inv_asyncRec (s : State) (o : Org) (code : Nat) (kind : Nat) (va : Nat) (hs : s.inv) : (State.asyncRec s o code kind va).inv := by
  unfold State.asyncRec
  grind [State.inv_ringPush, State.inv_setVue]

theorem State.inv_postMem (s : State) (src dst : Place) (vn own port : Nat) (route : List Nat) (msg : Msg) (hs : s.inv) : (s.postMem src dst vn own port route msg).inv := hs

theorem State.inv_memReply (s : State) (o : Org) (m : Msg) (src : Option Nat) (hs : s.inv) : (State.memReply s o m src).inv := by
  unfold State.memReply
  grind [State.inv_post, State.inv_postMem]

theorem State.inv_poisonReply (s : State) (o : Org) (k : Option Cont) (code : Nat) (src : Option Nat) (hs : s.inv) : (State.poisonReply s o k code src).inv := by
  unfold State.poisonReply
  grind [State.inv_memReply]

theorem State.inv_queueFault (s : State) (p : Nat) (rec : Nat) (w : FqWait) (hs : s.inv) : (s.queueFault p rec w).inv := by
  have hh (a : Nat) : State.inv { s.dmaAdd p 16 with host := Memory.writeN s.host a 16 rec } := ⟨hs.1, Memory.wf_writeN _ _ _ _ hs.2.1, hs.2.2⟩
  unfold State.queueFault
  dsimp only
  split
  · refine inv_sendMsix _ _ _ (inv_modPart ?_ _ _)
    split
    · exact hs
    · exact hh _
  · refine inv_modPart ?_ _ _
    split
    · exact hs
    · exact hh _

theorem State.inv_unjoin (s : State) (a : Nat) (y : Acc) (hs : s.inv) : (State.unjoin s a y).inv := by
  unfold State.unjoin
  grind [Elem.inv, State.inv_modElem, State.inv_elem, State.inv_foldl, State.inv_foldlFst]

theorem State.inv_dropReq (s : State) (a : Nat) (y : Acc) (hs : s.inv) : (s.dropReq a y).inv := hs

theorem State.inv_accFault (s : State) (a : Nat) (y : Acc) (code : Nat) (va : Nat) (src : Option Nat) (hs : s.inv) : (State.accFault s a y code va src).inv := by
  unfold State.accFault
  grind [State.inv_dropReq, State.inv_settle, State.inv_memqDrop, State.inv_asyncRec, State.inv_unjoin, State.inv_queueFault, State.inv_resetPart, State.inv_poisonReply, Elem.inv, State.inv_modElem, State.inv_elem]

theorem State.inv_acqNote (s : State) (pa : Nat) (w : Option Nat) (hs : s.inv) : (State.acqNote s pa w).inv := by
  unfold State.acqNote
  grind [State.inv_with]

theorem State.inv_askWalk (s : State) (c : Nat) (p : Nat) (va : Nat) (hs : s.inv) : (State.askWalk s c p va).inv := by
  unfold State.askWalk
  grind [State.inv_with]

theorem State.inv_putAcc (s : State) (a : Nat) (y : Acc) (hs : s.inv) : (State.putAcc s a y).inv := by
  unfold State.putAcc
  grind [Elem.inv, State.inv_modElem, State.inv_elem]

theorem State.inv_atomAck (s : State) (a : Nat) (y : Acc) (line : Nat) (payload : DWord) (src : Option Nat) (hs : s.inv) : (State.atomAck s a y line payload src).inv := by
  unfold State.atomAck
  grind [State.inv_memReply, State.inv_rcDrop, State.inv_putAcc, State.inv_accDone]

theorem State.inv_engFault (s : State) (c : Nat) (y : EngCmd) (code : Nat) (va : Nat) (hs : s.inv) : (State.engFault s c y code va).inv := by
  unfold State.engFault
  grind [State.inv_asyncRec, State.inv_queueFault, State.inv_resetPart, State.inv_modClus]

theorem State.inv_fillCluster (s : State) (c : Nat) (p : Nat) (l : Leaf) (hs : s.inv) : (State.fillCluster s c p l).inv := by
  unfold State.fillCluster
  grind [State.inv_modClus]

theorem State.inv_fillQuad (s : State) (c : Nat) (p : Nat) (l : Leaf) (hs : s.inv) : (State.fillQuad s c p l).inv := by
  unfold State.fillQuad
  grind [State.inv_with]

theorem State.inv_homeRead (s : State) (p : Nat) (l : Leaf) (va : Nat) (n : Nat) (need : List Nat) (hs : s.inv) : (State.homeRead s p l va n need).1.inv := by
  unfold State.homeRead
  grind [State.inv_dmaAdd, State.inv_homeTouch, State.inv_retireAll, Elem.inv]

theorem State.inv_futApply (s : State) (a : Nat) (k : Nat) (ok : AccKind → Bool) (f : State → Acc → State.FutAt → State × Nat × Nat) (hs : s.inv) (hf : ∀ s y x, s.inv → (f s y x).1.inv) : outInv (State.futApply s a k ok f) := by
  unfold State.futApply
  dsimp only
  split
  · grind [outInv]
  · split
    · grind [outInv]
    · split
      · grind [outInv]
      · have h0 := State.inv_dropFlight s ‹Nat› hs
        split
        · grind [outInv]
        · grind [outInv, State.inv_accFault]
        · have h1 := fun (p : Nat) (l : Leaf) (va : Nat) (need : List Nat) => State.inv_homeRead _ p l va 8 need h0
          grind [State.inv_accFault, State.inv_homeRead, State.inv_homeWrite, State.inv_atomAck, outInv]

theorem State.inv_futRec (s : State) (o : Org) (code : Nat) (va : Nat) (hs : s.inv) : (State.futRec s o code va).inv := by
  unfold State.futRec
  grind [State.inv_ringPush]

theorem State.inv_futSend (s : State) (o : Org) (k : Cont) (payload : DWord) (e : Bool) (acq : Bool) (hs : s.inv) : (State.futSend s o k payload e acq).inv := by
  unfold State.futSend
  grind [State.inv_post, State.inv_elem]

theorem State.inv_healWords (s : State) (l : Leaf) (ps : List Piece) (hs : s.inv) : (State.healWords s l ps).inv := by
  unfold State.healWords
  grind [State.inv_with]

theorem State.inv_homeAtomic (s : State) (a : Nat) (y : Acc) (op : AtomOp) (xl : List Leaf) (src : Option Nat) (hs : s.inv) : (State.homeAtomic s a y op xl src).inv := by
  unfold State.homeAtomic
  grind [State.inv_homeRead, State.inv_accFault, State.inv_homeWrite, State.inv_fpx, State.inv_atomAck, State.inv_elem, State.inv_foldl, State.inv_foldlFst]

theorem State.inv_homeClean (s : State) (a : Nat) (y : Acc) (va : Nat) (len : Nat) (xl : List Leaf) (hs : s.inv) : (State.homeClean s a y va len xl).inv := by
  unfold State.homeClean
  grind [State.inv_retireAll, State.inv_writeBack, State.inv_accDone, State.inv_memReply, State.inv_with, State.inv_foldl, State.inv_foldlFst]

theorem State.inv_hostAccept (s : State) (o : Org) (p : Nat) (l : Leaf) (ps : List Piece) (hs : s.inv) : (State.hostAccept s o p l ps).inv := by
  unfold State.hostAccept
  grind [State.inv_dmaAdd, State.inv_with, Elem.inv, State.inv_foldl, State.inv_foldlFst]

theorem State.inv_rcErrors (s : State) (c : Nat) (p : Nat) (ts : Nat) (line : Nat) (hs : s.inv) : (State.rcErrors s c p ts line).inv := by
  unfold State.rcErrors
  grind [State.inv_ringPush, State.inv_rcDrop, State.inv_with, State.inv_foldl, State.inv_foldlFst]

theorem State.inv_rcWrote (s : State) (c ts line : Nat) (ws : List Nat) (hs : s.inv) : (s.rcWrote c ts line ws).inv := by
  unfold State.rcWrote
  grind [State.inv_with]

theorem State.inv_rcFill (s : State) (c : Nat) (ts : Nat) (line : Nat) (data : List Byte) (bad : List Nat) (hs : s.inv) : (State.rcFill s c ts line data bad).inv := by
  unfold State.rcFill
  grind [State.inv_rcWrote, State.inv_modClus]

theorem State.inv_rcUse (s : State) (c : Nat) (ts : Nat) (line : Nat) (hs : s.inv) : (State.rcUse s c ts line).inv := by
  unfold State.rcUse
  grind [State.inv_modClus]

theorem State.inv_cacheLine (s : State) (c p line : Nat) (need : List Nat) (hs : s.inv) : (s.cacheLine c p line need).1.inv := by
  unfold State.cacheLine
  grind [State.inv_rcErrors, State.inv_rcUse]

theorem State.inv_fetchLine (s : State) (c p : Nat) (l : Leaf) (line : Nat) (need : List Nat) (fill : Bool) (hs : s.inv) : (s.fetchLine c p l line need fill).1.inv := by
  unfold State.fetchLine
  grind [State.inv_homeRead, State.inv_rcFill]

theorem State.inv_loadLine (s : State) (c : Nat) (p : Nat) (l : Leaf) (line : Nat) (need : List Nat) (home : Bool) (fill : Bool) (hs : s.inv) : (State.loadLine s c p l line need home fill).1.inv := by
  unfold State.loadLine
  grind [State.inv_cacheLine, State.inv_fetchLine]

theorem State.inv_rcStore (s : State) (c : Nat) (ts : Nat) (line : Nat) (ps : List Piece) (hs : s.inv) : (State.rcStore s c ts line ps).inv := by
  unfold State.rcStore
  grind [State.inv_rcWrote, State.inv_modClus, State.inv_foldl, State.inv_foldlFst]

theorem State.inv_storePieces (s : State) (p : Nat) (l : Leaf) (ps : List Piece) (hs : s.inv) : (State.storePieces s p l ps).inv := by
  unfold State.storePieces
  grind [State.inv_leafWrite, State.inv_dmaAdd, State.inv_retireAll, State.inv_homeTouch, Elem.inv, State.inv_foldl, State.inv_foldlFst]

theorem State.inv_lineRead (s : State) (a : Nat) (y : Acc) (xl : List Leaf) (line : Nat) (r : State × Except Nat (List Byte)) (src : Option Nat) (hr : r.1.inv) :
    (s.lineRead a y xl line r src).inv := by
  unfold State.lineRead
  grind [State.inv_accDone, State.inv_memReply, State.inv_putAcc, State.inv_accFault]

theorem State.inv_homeLine (s : State) (a : Nat) (y : Acc) (xl : List Leaf) (line : Nat) (src : Option Nat) (hs : s.inv) : (State.homeLine s a y xl line src).inv := by
  unfold State.homeLine
  grind [State.inv_hostAccept, State.inv_healWords, State.inv_storePieces, State.inv_rcStore, State.inv_accDone, State.inv_memReply, State.inv_putAcc, State.inv_fetchLine, State.inv_lineRead]

theorem State.inv_sendReq (s : State) (a : Nat) (y : Acc) (xl : List Leaf) (line : Nat) (hs : s.inv) : (s.sendReq a y xl line).inv :=
  State.inv_postMem _ _ _ _ _ _ _ _ (State.inv_putAcc _ _ _ hs)

theorem State.inv_nextAccess (s : State) (a : Nat) (y : Acc) (xl : List Leaf) (line : Nat) (hs : s.inv) : (s.nextAccess a y xl line).inv := by
  have h := State.inv_cacheLine s (clusNo a) (s.ownOf a y.org.ctx) line ((State.linePieces y line).map fun q => q.va) hs
  unfold State.nextAccess
  grind [State.inv_lineRead, State.inv_sendReq]

theorem State.inv_tellJoined (s : State) (p : Nat) (page : Nat) (res : Except Nat Leaf) (c : Nat) (hs : s.inv) : (State.tellJoined s p page res c).inv := by
  unfold State.tellJoined
  grind [State.inv_fillCluster, State.inv_fillQuad, State.inv_putAcc, State.inv_accFault, State.inv_engFault, State.inv_modClus, State.inv_foldl, State.inv_foldlFst]

theorem State.inv_freeStale (s : State) (p c : Nat) (hs : s.inv) : (s.freeStale p c).inv := by
  refine ⟨hs.1, hs.2.1, inv_mapVals hs.2.2.1 _ fun a e he => ?_, hs.2.2.2⟩
  dsimp only
  split
  · exact he
  · exact he

theorem inv_execAccessAck (n : Nat) (s : State) (hs : s.inv) : outInv (execAccessAck n s) := by
  unfold execAccessAck
  grind [inv_onMsg, State.inv_replyTo, State.inv_settle, State.inv_memqDrop, State.inv_takeReply, outInv, optInv]

theorem inv_execClusterAccess (n : Nat) (s : State) (hs : s.inv) : outInv (execClusterAccess n s) := by
  unfold execClusterAccess
  grind [inv_onMsg, State.inv_post, State.inv_eccFatal, Elem.inv_putData, Elem.inv, State.inv_modElem, State.inv_elem, outInv, optInv]

theorem Elem.inv_markLoaded (e : Elem) (a : Nat) (o : Org) (las : List Nat) (he : e.inv) : (e.markLoaded a o las).inv := by
  unfold Elem.markLoaded
  grind [Elem.inv_setSect]

theorem State.inv_sectReply (s : State) (a : Nat) (o : Org) (payload : DWord) (hs : s.inv) : (s.sectReply a o payload).inv := by
  unfold State.sectReply
  grind [State.inv_replyTo, State.inv_freeReq, Elem.inv_setSect, State.inv_modElem]

theorem inv_execClusterReply (n : Nat) (s : State) (hs : s.inv) : outInv (execClusterReply n s) := by
  unfold execClusterReply
  grind [inv_onMsg, State.inv_settle, State.inv_memqDrop, State.inv_fault, State.inv_countRefused, State.inv_freeReq, State.inv_replyTo, State.inv_squash, Elem.inv_setSect, Elem.inv_markLoaded, State.inv_sectReply, Elem.inv_putData, State.inv_takeReply, Elem.inv, State.inv_setElem, State.inv_modElem, State.inv_elem, outInv, optInv]

theorem inv_execFregApply (elem : Nat) (k : Nat) (s : State) (hs : s.inv) : outInv (execFregApply elem k s) := by
  unfold execFregApply
  grind [State.inv_futApply, State.inv_acqNote, State.inv_futSend, State.inv_futRec, outInv]

theorem inv_execFresApply (elem : Nat) (k : Nat) (s : State) (hs : s.inv) : outInv (execFresApply elem k s) := by
  unfold execFresApply
  grind [State.inv_futApply, State.inv_acqNote, State.inv_futSend, State.inv_futRec, outInv]

theorem inv_execFutnApply (elem : Nat) (k : Nat) (s : State) (hs : s.inv) : outInv (execFutnApply elem k s) := by
  unfold execFutnApply
  grind [State.inv_futApply, State.inv_futRec, outInv]

theorem inv_execGlobalReply (n : Nat) (s : State) (hs : s.inv) : outInv (execGlobalReply n s) := by
  unfold execGlobalReply
  grind [inv_onMsg, State.inv_replyTo, Elem.inv_putData, State.inv_takeReply, State.inv_modElem, Elem.inv, State.inv_elem, outInv, optInv]

theorem inv_execHomeAccess (elem : Nat) (k : Nat) (s : State) (hs : s.inv) : outInv (execHomeAccess elem k s) := by
  unfold execHomeAccess
  dsimp only
  split
  · grind [outInv]
  · split
    · split
      · grind [outInv]
      · have h0 := State.inv_dropFlight s ‹Nat› hs
        grind [State.inv_accFault, State.inv_homeAtomic, State.inv_homeLine, outInv]
    · grind [State.inv_nextAccess, State.inv_accFault, State.inv_homeClean, State.inv_accDone, State.inv_memReply, outInv]

theorem inv_execPageWalk (pool : Nat) (k : Nat) (s : State) (hs : s.inv) : outInv (execPageWalk pool k s) := by
  unfold execPageWalk
  grind [State.inv_freeStale, State.inv_walkFor, State.inv_tellJoined, State.inv_with, State.inv_foldl, State.inv_foldlFst, outInv]

theorem inv_execTlbMiss (elem : Nat) (k : Nat) (s : State) (hs : s.inv) : outInv (execTlbMiss elem k s) := by
  unfold execTlbMiss
  grind [State.inv_accFault, State.inv_putAcc, State.inv_fillCluster, State.inv_askWalk, State.inv_elem, outInv]

theorem State.inv_copyOpen (s : State) (y : EngCmd) (dl : Bool) (sl : Bool) (cv : Bool) (ts : Ty) (ty : Ty) (dst : Nat) (src : Nat) (n : Nat) (hs : s.inv) : (State.copyOpen s y dl sl cv ts ty dst src n).inv := by
  unfold State.copyOpen
  grind [Elem.inv_putData, State.inv_homeWrite, State.inv_with, State.inv_modElem, Elem.inv, State.inv_elem, State.inv_foldl, State.inv_foldlFst]

theorem State.inv_copyWrite (s : State) (p : Nat) (a : Nat) (dl : Bool) (xl : List Leaf) (keep : Nat → Bool) (at_ : Nat) (bs : List Byte) (hs : s.inv) : (State.copyWrite s p a dl xl keep at_ bs).inv := by
  unfold State.copyWrite
  grind [Elem.inv_putData, State.inv_homeWrite, State.inv_modElem, Elem.inv, State.inv_elem, State.inv_foldl, State.inv_foldlFst]

theorem State.inv_engRead (s : State) (c : Nat) (p : Nat) (xl : List Leaf) (va : Nat) (n : Nat) (home : Bool) (hs : s.inv) : (State.engRead s c p xl va n home).1.inv := by
  unfold State.engRead
  grind [State.inv_rcErrors, State.inv_rcUse, State.inv_homeRead]

theorem State.inv_modEng (s : State) (c : Nat) (y : EngCmd) (f : EngCmd → EngCmd) (hs : s.inv) : (State.modEng s c y f).inv := by
  unfold State.modEng
  grind [State.inv_modClus]

theorem State.inv_copyStep (s : State) (c : Nat) (y : EngCmd) (xl : List Leaf) (dl : Bool) (sl : Bool) (cv : Bool) (ts : Ty) (ty : Ty) (rm : Nat) (dst : Nat) (src : Nat) (n : Nat) (rng : Word) (hs : s.inv) : (State.copyStep s c y xl dl sl cv ts ty rm dst src n rng).inv := by
  unfold State.copyStep
  grind [State.inv_engFault, State.inv_eccFatal, State.inv_engRead, State.inv_copyWrite, State.inv_modEng, Elem.inv, State.inv_elem]

theorem State.inv_gathStep (s : State) (c : Nat) (y : EngCmd) (xl : List Leaf) (k : Option Nat) (pcs : List Piece) (hs : s.inv) : (State.gathStep s c y xl k pcs).inv := by
  unfold State.gathStep
  grind [State.inv_engFault, State.inv_loadLine, State.inv_modEng]

theorem State.inv_scatStep (s : State) (c : Nat) (y : EngCmd) (xl : List Leaf) (lanes : List (List Piece)) (hs : s.inv) : (State.scatStep s c y xl lanes).inv := by
  unfold State.scatStep
  grind [State.inv_engFault, State.inv_storePieces, State.inv_healWords, State.inv_modEng, State.inv_foldl, State.inv_foldlFst]

theorem State.inv_engStep (s : State) (c : Nat) (y : EngCmd) (xl : List Leaf) (hs : s.inv) : (State.engStep s c y xl).inv := by
  unfold State.engStep
  grind [State.inv_modEng, State.inv_copyOpen, State.inv_copyStep, State.inv_gathStep, State.inv_scatStep]

theorem inv_execEngineCommand (cluster : Nat) (k : Nat) (s : State) (hs : s.inv) : outInv (execEngineCommand cluster k s) := by
  unfold execEngineCommand
  grind [State.inv_modEng, State.inv_engStep, State.inv_engFault, State.inv_fillCluster, State.inv_askWalk, outInv]

theorem inv_execEngineCompletion (cluster : Nat) (k : Nat) (s : State) (hs : s.inv) : outInv (execEngineCompletion cluster k s) := by
  unfold execEngineCompletion
  grind [State.inv_rcDrop, State.inv_copyOpen, State.inv_fpx, State.inv_poisonReply, State.inv_memReply, State.inv_modClus, outInv]

theorem State.inv_arbitrate (s : State) (out : Nat) (hs : s.inv) : (State.arbitrate s out).inv := by
  unfold State.arbitrate
  grind [State.inv_with]

theorem State.inv_egressTick (s : State) (n : Nat) (hs : s.inv) : (State.egressTick s n).inv := by
  unfold State.egressTick
  grind [State.inv_with]

theorem State.inv_hedgeBreach (s : State) (own : Nat) (hs : s.inv) : (State.hedgeBreach s own).inv := by
  unfold State.hedgeBreach
  grind [State.inv_ringPush, State.inv_resetPart, State.inv_harvest]

theorem State.inv_linkChk (s : State) (pl : Option Nat × Nat) (hs : s.inv) : (State.linkChk s pl).inv := by
  unfold State.linkChk
  grind [State.inv_resetPart, State.inv_ringPush, State.inv_foldl, State.inv_foldlFst]

theorem State.inv_lostReq (s : State) (x : Flight) (hs : s.inv) : (s.lostReq x).inv := by
  unfold State.lostReq
  grind [State.inv_putAcc]

theorem State.inv_mergeInto (s : State) (w : Flight) (js : List Flight) (hs : s.inv) : (s.mergeInto w js).inv := by
  unfold State.mergeInto
  grind [State.inv_putAcc, State.inv_foldl]

theorem State.inv_crossMem (s : State) (out : Nat) (ws : List ((Nat × Flight) × List (Nat × Flight))) (turn : Nat × Nat) (hs : s.inv) : (s.crossMem out ws turn).inv := by
  have h := inv_foldl ws (fun (s : State) w => if w.2.isEmpty then s else s.mergeInto w.1.2 (w.2.map fun j => j.2)) hs fun s w h => by
    split
    · exact h
    · exact State.inv_mergeInto _ _ _ h
  exact h

theorem State.inv_arbitrateMem (s : State) (out : Nat) (hs : s.inv) : (s.arbitrateMem out).inv := by
  unfold State.arbitrateMem
  grind [State.inv_crossMem]

theorem inv_execEgressArbitration (out : Nat) (s : State) (hs : s.inv) : outInv (execEgressArbitration out s) := by
  unfold execEgressArbitration
  grind [State.inv_arbitrate, State.inv_arbitrateMem, outInv]

theorem inv_execFlitReceive (n : Nat) (s : State) (hs : s.inv) : outInv (execFlitReceive n s) := by
  unfold execFlitReceive
  grind [State.inv_linkChk, State.inv_lostReq, State.inv_dropFlight, State.inv_hedgeBreach, State.inv_with, outInv]

theorem State.inv_askFrost (s : State) (p : Nat) (hs : s.inv) : (State.askFrost s p).inv := by
  unfold State.askFrost
  grind [State.inv_with]

theorem State.inv_haltStack (s : State) (p : Nat) (j : Nat) (x : StackRun) (hs : s.inv) : (State.haltStack s p j x).inv := by
  unfold State.haltStack
  grind [State.inv_with, Elem.inv, State.inv_modElem, State.inv_modRegion, State.inv_elem, State.inv_foldl, State.inv_foldlFst]

theorem State.inv_sample (s : State) (p : Nat) (hs : s.inv) : (State.sample s p).inv := by
  unfold State.sample
  grind [State.inv_with, State.inv_modPart]

theorem State.inv_stalled (s : State) (a : Nat) (p : Nat) (hs : s.inv) : (State.stalled s a p).inv := by
  unfold State.stalled
  grind [Elem.inv_count, State.inv_with, State.inv_modElem, Elem.inv, State.inv_elem]

theorem inv_execBrk (o : OpX) (s : State) (hs : s.inv) : outInv (execBrk o s) := by
  unfold execBrk
  grind [inv_runWord, inv_gated, State.inv_askFrost, State.inv_ringPush, State.inv_elem, outInv, wresInv]

theorem inv_execCsrr (o : OpX) (s : State) (hs : s.inv) : outInv (execCsrr o s) := by
  unfold execCsrr
  grind [inv_runWord, inv_gated, Elem.inv, State.inv_modElem, State.inv_elem, outInv, wresInv]

theorem inv_execCsrw (o : OpX) (s : State) (hs : s.inv) : outInv (execCsrw o s) := by
  unfold execCsrw
  grind [inv_runWord, inv_gated, Elem.inv, State.inv_modElem, State.inv_elem, outInv, wresInv]

theorem inv_execErri (o : OpX) (s : State) (hs : s.inv) : outInv (execErri o s) := by
  unfold execErri
  grind [inv_runWord, inv_gated, State.inv_ringPush, outInv, wresInv]

theorem inv_execFrzr (o : OpX) (s : State) (hs : s.inv) : outInv (execFrzr o s) := by
  unfold execFrzr
  grind [inv_runWord, inv_gated, State.inv_askFrost, State.inv_ringPush, State.inv_takeSlot, State.inv_nextSeq, State.inv_countCont, State.inv_modPart, outInv, wresInv, optFstInv]

theorem inv_execHalt (o : OpX) (s : State) (hs : s.inv) : outInv (execHalt o s) := by
  unfold execHalt
  grind [inv_runWord, inv_gated, State.inv_haltStack, outInv, wresInv]

theorem inv_sysRead (s : State) (o : OpX) (f : State → Nat → Act → State × Nat) (hs : s.inv) (hf : ∀ s a act, s.inv → (f s a act).1.inv) : outInv (sysRead s o f) := by
  unfold sysRead
  grind [inv_runWord, inv_gated, outInv, wresInv]

theorem inv_execMetr (o : OpX) (s : State) (hs : s.inv) : outInv (execMetr o s) := by
  unfold execMetr
  grind [inv_sysRead, State.inv_sample, outInv]

theorem inv_execNop (z0 : OpX) (s : State) (hs : s.inv) : outInv (execNop z0 s) := by
  unfold execNop
  grind [inv_runWord, outInv, wresInv]

theorem inv_execPerf (o : OpX) (s : State) (hs : s.inv) : outInv (execPerf o s) := by
  unfold execPerf
  grind [inv_sysRead, State.inv_stalled, State.inv_elem, outInv]

theorem inv_execRseed (o : OpX) (s : State) (hs : s.inv) : outInv (execRseed o s) := by
  unfold execRseed
  grind [inv_runWord, inv_gated, Elem.inv, State.inv_modElem, State.inv_elem, outInv, wresInv]

theorem inv_execRtime (o : OpX) (s : State) (hs : s.inv) : outInv (execRtime o s) := by
  unfold execRtime
  grind [inv_sysRead, outInv]

theorem inv_execSysc (o : OpX) (s : State) (hs : s.inv) : outInv (execSysc o s) := by
  unfold execSysc
  grind [inv_runWord, inv_gated, State.inv_nextSeq, State.inv_queueMsg, outInv, wresInv]

theorem inv_execTime (o : OpX) (s : State) (hs : s.inv) : outInv (execTime o s) := by
  unfold execTime
  grind [inv_sysRead, outInv]

theorem inv_execTrap (o : OpX) (s : State) (hs : s.inv) : outInv (execTrap o s) := by
  unfold execTrap
  grind [inv_runWord, inv_gated, outInv, wresInv]

theorem inv_commandIssue (s : State) (a : Nat) (act : Act) (d : Dst) (k : ReqKind) (f : State → Org → State) (hs : s.inv) (hf : ∀ s o, s.inv → (f s o).inv) : wresInv (commandIssue s a act d k f) := by
  unfold commandIssue
  grind [inv_globIssue, wresInv]

theorem inv_execColl (o : OpK) (s : State) (hs : s.inv) : outInv (execColl o s) := by
  unfold execColl
  grind [inv_runBarred, inv_commandIssue, State.inv_queueMsg, outInv, wresInv]

theorem inv_execDflsh (o : OpK) (s : State) (hs : s.inv) : outInv (execDflsh o s) := by
  unfold execDflsh
  grind [inv_runWord, inv_gated, inv_commandIssue, State.inv_queueMsg, outInv, wresInv]

theorem inv_execDisp (o : OpK) (s : State) (hs : s.inv) : outInv (execDisp o s) := by
  unfold execDisp
  grind [inv_runBarred, State.inv_nextSeq, State.inv_queueMsg, outInv, wresInv]

theorem inv_execKick (o : OpK) (s : State) (hs : s.inv) : outInv (execKick o s) := by
  unfold execKick
  grind [inv_runBarred, State.inv_nextSeq, State.inv_queueMsg, outInv, wresInv]

theorem inv_execLnch (o : OpK) (s : State) (hs : s.inv) : outInv (execLnch o s) := by
  unfold execLnch
  grind [inv_runBarred, State.inv_eccFatal, inv_commandIssue, State.inv_queueMsg, Elem.inv, State.inv_elem, outInv, wresInv]

theorem inv_execRstat (o : OpK) (s : State) (hs : s.inv) : outInv (execRstat o s) := by
  unfold execRstat
  grind [inv_runWord, inv_gated, inv_commandIssue, State.inv_replyFrom, outInv, wresInv]

theorem State.inv_modColl (s : State) (die : Nat) (f : CollEng → CollEng) (hs : s.inv) : (State.modColl s die f).inv := by
  unfold State.modColl
  grind [State.inv_with]

theorem State.inv_collEnd (s : State) (die : Nat) (r : CollRun) (code : Nat) (hs : s.inv) : (State.collEnd s die r code).inv := by
  unfold State.collEnd
  grind [State.inv_modColl, State.inv_rcDrop, State.inv_fpx, State.inv_replyFrom]

theorem State.inv_fabFault (s : State) (o : Org) (code : Nat) (va : Nat) (kind : Nat) (hs : s.inv) : (State.fabFault s o code va kind).inv := by
  unfold State.fabFault
  grind [State.inv_asyncRec, State.inv_queueFault, State.inv_resetPart]

theorem State.inv_modDisp (s : State) (die : Nat) (f : DispEng → DispEng) (hs : s.inv) : (State.modDisp s die f).inv := by
  unfold State.modDisp
  grind [State.inv_with]

theorem State.inv_flushDone (s : State) (die : Nat) (hs : s.inv) : (State.flushDone s die).inv := by
  unfold State.flushDone
  grind [State.inv_modDisp, State.inv_replyFrom, State.inv_foldl, State.inv_foldlFst]

theorem State.inv_settleEnt (s : State) (die : Nat) (e : DispEnt) (kind : Nat) (hs : s.inv) : (State.settleEnt s die e kind).inv := by
  unfold State.settleEnt
  grind [State.inv_modDisp]

theorem State.inv_entFault (s : State) (die : Nat) (e : DispEnt) (code : Nat) (va : Nat) (stage : Nat) (hs : s.inv) : (State.entFault s die e code va stage).inv := by
  unfold State.entFault
  grind [State.inv_modDisp, State.inv_settleEnt, State.inv_fabFault]

theorem State.inv_formEnt (s : State) (die : Nat) (e : DispEnt) (hs : s.inv) : (State.formEnt s die e).1.inv := by
  unfold State.formEnt
  grind [State.inv_gget, State.inv_entFault, State.inv_modDisp, excFstInv]

theorem State.inv_loseEnt (s : State) (die : Nat) (e : DispEnt) (code : Nat) (hs : s.inv) : (State.loseEnt s die e code).inv := by
  unfold State.loseEnt
  grind [State.inv_settleEnt, State.inv_errorOnly]

theorem State.inv_sendEnts (s : State) (die : Nat) (es : List (DispEnt × DispWire)) (hs : s.inv) : (State.sendEnts s die es).inv := by
  unfold State.sendEnts
  grind [State.inv_sendMsg, State.inv_loseEnt, State.inv_foldl, State.inv_foldlFst]

theorem State.inv_sendList (s : State) (die : Nat) (p : DispEnt → Bool) (hs : s.inv) : (State.sendList s die p).inv := by
  unfold State.sendList
  grind [State.inv_formEnt, State.inv_flushDone, State.inv_sendEnts, State.inv_foldl, State.inv_foldlFst]

theorem State.inv_maybeSend (s : State) (die : Nat) (l : Nat) (hs : s.inv) : (State.maybeSend s die l).inv := by
  unfold State.maybeSend
  grind [State.inv_sendList, State.inv_with]

theorem State.inv_tableRead (s : State) (p : Nat) (t : Nat) (e : Nat) (hs : s.inv) : (State.tableRead s p t e).1.inv := by
  unfold State.tableRead
  grind [State.inv_gget, excFstInv]

theorem State.inv_dispAppend (s : State) (die : Nat) (o : Org) (c : DispCmd) (hs : s.inv) : (State.dispAppend s die o c).inv := by
  unfold State.dispAppend
  grind [State.inv_tableRead, State.inv_modDisp, State.inv_errorOnly, State.inv_fabFault, State.inv_maybeSend]

theorem State.inv_dispFlush (s : State) (die : Nat) (o : Org) (l : Nat) (all : Bool) (hs : s.inv) : (State.dispFlush s die o l all).inv := by
  unfold State.dispFlush
  grind [State.inv_modDisp, State.inv_sendList, State.inv_foldl, State.inv_foldlFst]

theorem State.inv_emitFlit (s : State) (k : Nat) (seq : BitVec 12) (kind : RKind) (hs : s.inv) : (State.emitFlit s k seq kind).inv := by
  unfold State.emitFlit
  grind [State.inv_with]

theorem State.inv_rosCount (s : State) (p : Nat) (hs : s.inv) : (State.rosCount s p).inv := by
  unfold State.rosCount
  grind [State.inv_modPart]

theorem State.inv_wholeMsg (s : State) (m : RMsg) (hs : s.inv) : (s.wholeMsg m).inv := by
  unfold State.wholeMsg
  grind [State.inv_sendMsg, State.inv_with]

theorem State.inv_releaseOne (s : State) (k : Nat) (f : RFlit) (hs : s.inv) : (State.releaseOne s k f).inv := by
  unfold State.releaseOne
  dsimp only
  have h1 (m : RMsg) := State.inv_rosCount s m.dslot hs
  have hp (m : RMsg) (f : Port → Port) := State.inv_modPort (h1 m) k f
  repeat' split
  all_goals first
    | exact hs
    | exact h1 _
    | exact State.inv_modPort hs _ _
    | exact hp _ _
    | exact State.inv_wholeMsg _ _ (hp _ _)

theorem State.inv_releaseAll (k : Nat) (z1 : Nat) (z2 : State) (hz2 : z2.inv) : (State.releaseAll k z1 z2).inv := by
  induction z1 generalizing z2 with
  | zero => exact hz2
  | succ n ih =>
    unfold State.releaseAll
    grind [State.inv_releaseOne, State.inv_modPort]

theorem State.inv_enterFlit (s : State) (k : Nat) (f : RFlit) (hs : s.inv) : (State.enterFlit s k f).inv := by
  unfold State.enterFlit
  grind [State.inv_releaseAll, State.inv_modPort]

theorem State.inv_inboundFault (s : State) (p : Nat) (code : Nat) (va : Nat) (hs : s.inv) : (State.inboundFault s p code va).inv := by
  unfold State.inboundFault
  grind [State.inv_cpFault]

theorem State.inv_overflowAt (s : State) (die : Nat) (e : DispEnt) (k : Nat) (hs : s.inv) : (State.overflowAt s die e k).inv := by
  unfold State.overflowAt
  grind [State.inv_gput, State.inv_entFault, State.inv_settleEnt, State.inv_loseEnt, excInv]

theorem State.inv_overflow (s : State) (die : Nat) (e : DispEnt) (hs : s.inv) : (State.overflow s die e).inv := by
  unfold State.overflow
  grind [State.inv_overflowAt, State.inv_gget, State.inv_entFault, State.inv_gput, excInv, excFstInv]

theorem State.inv_onFull (s : State) (die : Nat) (e : DispEnt) (hs : s.inv) : (State.onFull s die e).inv := by
  unfold State.onFull
  grind [State.inv_tableRead, State.inv_loseEnt, State.inv_entFault, State.inv_modDisp, State.inv_sendList, State.inv_maybeSend, State.inv_overflow]

theorem State.inv_actOn (s : State) (die : Nat) (e : DispEnt) (r : Option (BitVec 8)) (hs : s.inv) : (s.actOn die e r).inv := by
  unfold State.actOn
  grind [State.inv_flushDone, State.inv_settleEnt, State.inv_onFull, State.inv_loseEnt]

theorem State.inv_onResult (s : State) (r : Nat × Option (BitVec 8)) (hs : s.inv) : (State.onResult s r).inv := by
  unfold State.onResult
  grind [State.inv_actOn, State.inv_modDisp]

theorem State.inv_resumeHeld (s : State) (die : Nat) (hs : s.inv) : (s.resumeHeld die).inv :=
  inv_foldl (s.dispEng die).held (fun s r => s.onResult r) (State.inv_modDisp _ _ _ hs) fun _ _ h => State.inv_onResult _ _ h

theorem State.inv_lostMsg (s : State) (m : RMsg) (code : Nat) (hs : s.inv) : (State.lostMsg s m code).inv := by
  unfold State.lostMsg
  grind [State.inv_onResult, State.inv_collEnd, State.inv_foldl, State.inv_foldlFst]

theorem State.inv_onAck (s : State) (k : Nat) (q : BitVec 12) (hs : s.inv) : (State.onAck s k q).inv := by
  unfold State.onAck
  grind [State.inv_modPort]

theorem State.inv_retryMsg (s : State) (m : RMsg) (hs : s.inv) : (State.retryMsg s m).inv := by
  unfold State.retryMsg
  grind [State.inv_lostMsg, State.inv_handOver, State.inv_with]

theorem State.inv_portStops (s : State) (k : Nat) (state : Nat) (hs : s.inv) : (State.portStops s k state).inv := by
  unfold State.portStops
  grind [State.inv_handOver, State.inv_retryMsg, State.inv_lostMsg, State.inv_with, State.inv_modPort, State.inv_foldl, State.inv_foldlFst]

theorem State.inv_onNak (s : State) (k : Nat) (q : BitVec 12) (hs : s.inv) : (State.onNak s k q).inv := by
  unfold State.onNak
  grind [State.inv_portStops, State.inv_modPort]

theorem State.inv_placeEnt (s : State) (m : RMsg) (w : DispWire) (hs : s.inv) : excFstInv (s.placeEnt m w) := by
  unfold State.placeEnt
  dsimp only
  intro t ht
  split at ht
  · cases ht
  · split at ht
    · cases ht
    · have h1 := inv_gget _ _ _ _ hs _ ‹_›
      split at ht
      · cases ht
      · have h2 := inv_gput _ _ _ _ h1 _ ‹_›
        split at ht
        · split at ht
          · cases ht
          · cases ht
            exact inv_gput _ _ _ _ h2 _ ‹_›
        · cases ht
          exact h2

theorem State.inv_putColl (s : State) (die : Nat) (r : CollRun) (hs : s.inv) : (State.putColl s die r).inv := by
  unfold State.putColl
  grind [State.inv_modColl]

theorem State.inv_putRx (s : State) (n : Nat) (x : RxMsg) (hs : s.inv) : (State.putRx s n x).inv := by
  unfold State.putRx
  grind [State.inv_with]

theorem State.inv_replaySlot (s : State) (k : Nat) (w : TxSlot) (hs : s.inv) : (State.replaySlot s k w).inv := by
  unfold State.replaySlot
  grind [State.inv_handOver, State.inv_emitFlit, State.inv_ringPush, State.inv_with, State.inv_modPort]

theorem State.inv_retryEnt (s : State) (die : Nat) (e : DispEnt) (hs : s.inv) : (State.retryEnt s die e).inv := by
  unfold State.retryEnt
  grind [State.inv_resumeHeld, State.inv_modDisp, State.inv_tableRead, State.inv_flushDone, State.inv_loseEnt, State.inv_entFault, State.inv_sendList, State.inv_maybeSend, State.inv_onFull, State.inv_overflow]

theorem State.inv_retryDisp (s : State) (w : FqWait) (hs : s.inv) : (State.retryDisp s w).inv := by
  unfold State.retryDisp
  grind [State.inv_retryEnt]

theorem inv_execDispAppend (n : Nat) (s : State) (hs : s.inv) : outInv (execDispAppend n s) := by
  unfold execDispAppend
  grind [inv_onMsg, State.inv_dispAppend, State.inv_dispFlush, outInv, optInv]

theorem inv_execDispatchOutcome (n : Nat) (s : State) (hs : s.inv) : outInv (execDispatchOutcome n s) := by
  unfold execDispatchOutcome
  grind [State.inv_onResult, State.inv_putRx, State.inv_foldl, State.inv_foldlFst, outInv]

theorem State.inv_placeAll (m : RMsg) (s : State) (ws : List DispWire) (hs : s.inv) : excFstInv (State.placeAll m s ws) := by
  induction ws generalizing s with
  | nil => unfold State.placeAll; grind [excFstInv]
  | cons w ws ih =>
    unfold State.placeAll
    have h := State.inv_placeEnt s m w hs
    grind [excFstInv]

theorem State.inv_placeMsg (s : State) (m : RMsg) (es : List DispWire) (hs : s.inv) : (s.placeMsg m es).1.inv := by
  unfold State.placeMsg
  have h := State.inv_placeAll m s es hs
  grind [excFstInv, State.inv_inboundFault]

theorem inv_execDispatchPlace (n : Nat) (k : Nat) (s : State) (hs : s.inv) : outInv (execDispatchPlace n k s) := by
  unfold execDispatchPlace
  grind [State.inv_placeMsg, State.inv_putRx, outInv]

theorem inv_execEndToEndAck (n : Nat) (s : State) (hs : s.inv) : outInv (execEndToEndAck n s) := by
  unfold execEndToEndAck
  grind [State.inv_with, outInv]

theorem inv_execFailReceive (n : Nat) (s : State) (hs : s.inv) : outInv (execFailReceive n s) := by
  unfold execFailReceive
  grind [State.inv_retryMsg, State.inv_with, outInv]

theorem inv_execInboundAccess (n : Nat) (s : State) (hs : s.inv) : outInv (execInboundAccess n s) := by
  unfold execInboundAccess
  grind [State.inv_putRx, outInv]

theorem inv_execNakReceive (port : Nat) (q : BitVec 12) (s : State) (hs : s.inv) : outInv (execNakReceive port q s) := by
  unfold execNakReceive
  grind [State.inv_onNak, outInv]

theorem inv_execReplayTimeout (port : Nat) (s : State) (hs : s.inv) : outInv (execReplayTimeout port s) := by
  unfold execReplayTimeout
  grind [State.inv_modPort, outInv]

theorem inv_execRosgenFlitReceive (port : Nat) (f : RFlit) (s : State) (hs : s.inv) : outInv (execRosgenFlitReceive port f s) := by
  unfold execRosgenFlitReceive
  grind [State.inv_onAck, State.inv_enterFlit, State.inv_onNak, outInv]

theorem inv_execRosgenMessageApply (n : Nat) (s : State) (hs : s.inv) : outInv (execRosgenMessageApply n s) := by
  unfold execRosgenMessageApply
  grind [State.inv_sendMsg, State.inv_with, outInv]

theorem inv_execRosgenPortDown (port : Nat) (s : State) (hs : s.inv) : outInv (execRosgenPortDown port s) := by
  unfold execRosgenPortDown
  grind [State.inv_portStops, outInv]

theorem inv_execRosgenPortSend (port : Nat) (s : State) (hs : s.inv) : outInv (execRosgenPortSend port s) := by
  unfold execRosgenPortSend
  grind [State.inv_emitFlit, State.inv_replaySlot, State.inv_rosCount, State.inv_modPort, outInv]

theorem inv_execRosgenPortUp (port : Nat) (peer : Nat) (s : State) (hs : s.inv) : outInv (execRosgenPortUp port peer s) := by
  unfold execRosgenPortUp
  grind [State.inv_modPort, outInv]

theorem State.inv_collSend (s : State) (die : Nat) (r : CollRun) (k : Nat) (phase : Nat) (chunk : Nat) (xs : List WireLane) (hs : s.inv) : (State.collSend s die r k phase chunk xs).inv := by
  unfold State.collSend
  grind [State.inv_sendMsg, State.inv_collEnd, State.inv_foldl, State.inv_foldlFst]

theorem State.inv_collStore (s : State) (die : Nat) (r : CollRun) (at_ : Nat) (xs : List WireLane) (hs : s.inv) : (State.collStore s die r at_ xs).inv := by
  unfold State.collStore
  grind [State.inv_gput, State.inv_fabFault, State.inv_putColl, State.inv_collEnd, State.inv_with, excInv]

theorem State.inv_onColl (s : State) (r : CollRun) (f : State → Nat → CollRun → State) (hs : s.inv) (hf : ∀ s d x, s.inv → (f s d x).inv) : (State.onColl s r f).inv := by
  unfold State.onColl
  grind

theorem State.inv_ringFinal (s : State) (r : CollRun) (k : Nat) (xs : List WireLane) (hs : s.inv) : (State.ringFinal s r k xs).inv := by
  unfold State.ringFinal
  grind [State.inv_onColl, State.inv_collStore, State.inv_putColl, State.inv_collSend]

theorem State.inv_ringPart (s : State) (r : CollRun) (k : Nat) (xs : List WireLane) (hs : s.inv) : (State.ringPart s r k xs).inv := by
  unfold State.ringPart
  grind [State.inv_onColl, State.inv_putColl, State.inv_ringFinal, State.inv_collSend]

theorem State.inv_treeFinal (s : State) (r : CollRun) (k : Nat) (xs : List WireLane) (hs : s.inv) : (State.treeFinal s r k xs).inv := by
  unfold State.treeFinal
  grind [State.inv_onColl, State.inv_collStore, State.inv_putColl, State.inv_collSend, State.inv_foldl, State.inv_foldlFst]

theorem State.inv_treeRoot (s : State) (r : CollRun) (hs : s.inv) : (State.treeRoot s r).inv := by
  unfold State.treeRoot
  grind [State.inv_treeFinal, State.inv_foldl, State.inv_foldlFst]

theorem State.inv_treeUp (s : State) (r : CollRun) (hs : s.inv) : (State.treeUp s r).inv := by
  unfold State.treeUp
  grind [State.inv_onColl, State.inv_treeRoot, State.inv_collSend]

theorem State.inv_treePart (s : State) (r : CollRun) (k : Nat) (xs : List WireLane) (hs : s.inv) : (State.treePart s r k xs).inv := by
  unfold State.treePart
  grind [State.inv_treeFinal, State.inv_onColl, State.inv_collSend, State.inv_treeUp, State.inv_putColl]

theorem State.inv_collApply (s : State) (die : Nat) (r : CollRun) (m : RMsg) (phase : Nat) (chunk : Nat) (xs : List WireLane) (hs : s.inv) : (State.collApply s die r m phase chunk xs).inv := by
  unfold State.collApply
  grind [State.inv_putColl, State.inv_ringPart, State.inv_ringFinal, State.inv_treePart, State.inv_treeFinal]

theorem State.inv_collFirst (s : State) (r : CollRun) (hs : s.inv) : (State.collFirst s r).inv := by
  unfold State.collFirst
  grind [State.inv_ringFinal, State.inv_onColl, State.inv_collSend, State.inv_treePart, State.inv_treeUp]

theorem State.inv_collRest (s : State) (p : Nat) (gid : Word) (k : Nat) (hs : s.inv) : (State.collRest s p gid k).inv := by
  unfold State.collRest
  grind [State.inv_collEnd]

theorem State.inv_landing_ (s : State) (r : CollRun) (va : Nat) (hs : s.inv) : excInv (State.landing_ s r va) := by
  unfold State.landing_
  grind [State.inv_gput, State.inv_with, excInv]

theorem State.inv_collBreaks (s : State) (die : Nat) (r : CollRun) (hs : s.inv) : (s.collBreaks die r).inv :=
  State.inv_collEnd _ _ _ _ (State.inv_collTell _ _ _ _ hs)

theorem State.inv_collRecv (s : State) (die : Nat) (r : CollRun) (m : RMsg) (adm : Nat) (hs : s.inv) : (State.collRecv s die r m adm).inv := by
  unfold State.collRecv
  grind [State.inv_collBreaks, State.inv_sendMsg, State.inv_collEnd, State.inv_collTell, State.inv_landing_, State.inv_fabFault, State.inv_putColl, State.inv_collRest, State.inv_collApply, excInv]

theorem State.inv_collOwed (s : State) (die : Nat) (r : CollRun) (hs : s.inv) : (State.collOwed s die r).inv := by
  unfold State.collOwed
  grind [State.inv_putColl, State.inv_onColl, State.inv_collStore, State.inv_collRest, State.inv_collRecv, State.inv_foldl, State.inv_foldlFst]

theorem State.inv_collRead (s : State) (die : Nat) (r0 : CollRun) (hs : s.inv) : (State.collRead s die r0).inv := by
  unfold State.collRead
  grind [State.inv_modColl, State.inv_gget, State.inv_fabFault, State.inv_collEnd, State.inv_collRest, State.inv_collFirst, State.inv_onColl, State.inv_collRecv, State.inv_with, State.inv_foldl, State.inv_foldlFst, excFstInv]

theorem State.inv_countColl (s : State) (p : Nat) (gid : Word) (hs : s.inv) : (State.countColl s p gid).inv := by
  unfold State.countColl
  grind [State.inv_with]

theorem State.inv_collStart (s : State) (die : Nat) (o : Org) (c : CollCmd) (hs : s.inv) : (State.collStart s die o c).inv := by
  unfold State.collStart
  grind [State.inv_collBreaks, State.inv_modColl, State.inv_fabFault, State.inv_collEnd, State.inv_gget, State.inv_countColl, State.inv_collTell, State.inv_collRead, outInv, wresInv, issueInv, optInv, optFstInv, excInv, excFstInv]

theorem State.inv_retryColl (s : State) (w : FqWait) (hs : s.inv) : (State.retryColl s w).inv := by
  unfold State.retryColl
  grind [State.inv_modColl, State.inv_collRead, State.inv_collStart, State.inv_collOwed]

theorem inv_execCollMessage (n : Nat) (s : State) (hs : s.inv) : outInv (execCollMessage n s) := by
  unfold execCollMessage
  grind [State.inv_putRx, State.inv_collRecv, State.inv_with, outInv]

theorem State.inv_leaveDrop (s : State) (o : Org) (fh : Word) (hs : s.inv) : (State.leaveDrop s o fh).inv := by
  unfold State.leaveDrop
  grind [State.inv_countRefused, State.inv_freeReq, State.inv_hedgeDrop]

theorem State.inv_letGo (s : State) (i : SendItem) (hs : s.inv) : (State.letGo s i).inv := by
  unfold State.letGo
  grind [State.inv_injectToken, Elem.inv_count, State.inv_post, State.inv_leaveDrop, State.inv_collStart, State.inv_vecEvent, State.inv_ringPush, State.inv_modElem, State.inv_modClus, Elem.inv, State.inv_elem]

theorem inv_execTokenLeave (elem : Nat) (s : State) (hs : s.inv) : outInv (execTokenLeave elem s) := by
  unfold execTokenLeave
  grind [State.inv_letGo, Elem.inv, State.inv_modElem, State.inv_elem, outInv]

theorem State.inv_scrubFree (s : State) (a : Nat) (words : List Nat) (hs : s.inv) : (State.scrubFree s a words).inv := by
  unfold State.scrubFree
  dsimp only
  split
  · exact hs
  · refine State.inv_foldl _ _ (State.inv_setElem hs _ _ (Elem.inv_foldl _ _ ?_ fun e f h => inv_logEvent e f 0 h)) fun s _ h => State.inv_ringPush _ _ _ h
    exact State.inv_elem hs a

theorem inv_execPatrolScrub (elem : Nat) (k : Nat) (s : State) (hs : s.inv) : outInv (execPatrolScrub elem k s) := by
  unfold execPatrolScrub
  grind [State.inv_eccFatal, State.inv_scrubFree, outInv]

theorem inv_execThirdWakeDone (elem : Nat) (k : Nat) (s : State) (hs : s.inv) : outInv (execThirdWakeDone elem k s) := by
  unfold execThirdWakeDone
  grind [Memory.wf_clear, State.inv_allocTouched, Elem.inv, State.inv_modElem, State.inv_elem, outInv, wresInv, issueInv, optInv, optFstInv, excInv, excFstInv]

theorem inv_execWaysWakeDone (kind : Nat) (unit : Nat) (group : Nat) (s : State) (hs : s.inv) : outInv (execWaysWakeDone kind unit group s) := by
  unfold execWaysWakeDone
  grind [State.inv_with, State.inv_modClus, outInv]

theorem State.inv_meterPut (s : State) (f : Nat) (bytes : List Byte) (hs : s.inv) : optInv (s.meterPut f bytes) := by
  unfold State.meterPut
  dsimp only
  repeat' split
  any_goals (intro t h; cases h)
  · exact ⟨hs.1, Memory.wf_write _ _ _ hs.2.1, hs.2.2⟩
  · exact inv_modFn (inv_gput s f _ _ hs _ ‹_›) _ _

theorem State.inv_meterDrain (s : State) (hs : s.inv) : (State.meterDrain s).inv := by
  unfold State.meterDrain
  grind [State.inv_meterPut, State.inv_with, State.inv_foldl, State.inv_foldlFst, optInv]

theorem State.inv_meterSend (s : State) (f : Nat) (bytes : List Byte) (hs : s.inv) : (State.meterSend s f bytes).inv := by
  unfold State.meterSend
  grind [State.inv_meterDrain, State.inv_with]

theorem State.inv_emitRecord (s : State) (p : Nat) (kind : Nat) (hs : s.inv) : (State.emitRecord s p kind).inv := by
  unfold State.emitRecord
  grind [State.inv_sample, State.inv_meterSend, State.inv_with, State.inv_modPart]

theorem inv_execMeterPeriodicRecord (slot : Nat) (s : State) (hs : s.inv) : outInv (execMeterPeriodicRecord slot s) := by
  unfold execMeterPeriodicRecord
  grind [State.inv_emitRecord, outInv]

theorem inv_firingErrors (s : State) (o : Org) (rs : List (Nat × List Nat)) (hs : s.inv) : (firingErrors s o rs).1.inv := by
  unfold firingErrors
  grind [State.inv_eccFatal, State.inv_elem, State.inv_foldl, State.inv_foldlFst]

theorem inv_execArrayFiringStart (c : Nat) (g : Nat) (s : State) (hs : s.inv) : outInv (execArrayFiringStart c g s) := by
  unfold execArrayFiringStart
  grind [State.inv_modArray, State.inv_errorOnly, inv_firingErrors, State.inv_with, State.inv_modClus, State.inv_elem, outInv]

end Sys2Proof.Machine
end

