-- ==== Sys2Proof/Laws/InvHost.lean ====
section
/-! SUPPORT. The invariant of Safety.lean is kept by the operations on the control complex, the policy core and the device. -/

namespace Sys2Proof.Machine

set_option Elab.async false

open State

theorem Elem.inv_loadStack (e : Elem) (ts : Nat) (j : Nat) (service : Bool) (img : StackImg) (he : e.inv) : (Elem.loadStack e ts j service img).inv := by
  unfold Elem.loadStack
  exact Elem.inv_foldl (e := e) img.ctxs _ he fun _ _ h => h

theorem State.inv_modPkt (s : State) (pid : Nat) (f : Pkt → Pkt) (hs : s.inv) : (State.modPkt s pid f).inv := by
  unfold State.modPkt
  grind [State.inv_with]

theorem State.inv_endPkt (s : State) (pid : Nat) (code : Option Nat) (detail : Nat) (hs : s.inv) : (State.endPkt s pid code detail).inv := by
  unfold State.endPkt
  grind [State.inv_modPkt]

theorem State.inv_loadRoutes (s : State) (p : Nat) (rs : List ClassRoute) (hs : s.inv) : (State.loadRoutes s p rs).inv := by
  unfold State.loadRoutes
  grind [State.inv_modClus, State.inv_foldl, State.inv_foldlFst]

theorem State.inv_enterStack (s : State) (p : Nat) (j : Nat) (x : StackRun) (img : StackImg) (hs : s.inv) : (State.enterStack s p j x img).inv := by
  unfold State.enterStack
  grind [Elem.inv_loadStack, State.inv_loadRoutes, State.inv_modElem, Elem.inv, State.inv_elem, State.inv_foldl, State.inv_foldlFst]

theorem State.inv_faultPkt (s : State) (pid : Nat) (f : Nat) (code : Nat) (va : Nat) (hs : s.inv) : (State.faultPkt s pid f code va).inv := by
  unfold State.faultPkt
  grind [State.inv_endPkt, State.inv_cpFault]

theorem State.inv_leaveStack (s : State) (p : Nat) (x : StackRun) (hs : s.inv) : (State.leaveStack s p x).inv := by
  unfold State.leaveStack
  grind [Elem.inv, State.inv_modElem, State.inv_elem, State.inv_foldl, State.inv_foldlFst]

theorem State.inv_startCtx (s : State) (p : Nat) (j : Nat) (x : StackRun) (hs : s.inv) : (State.startCtx s p j x).inv := by
  unfold State.startCtx
  grind [inv_armMore, State.inv_modRegion]

theorem State.inv_runStack (s : State) (p : Nat) (j : Nat) (x : StackRun) (hs : s.inv) : (State.runStack s p j x).inv := by
  unfold State.runStack
  grind [State.inv_startCtx, State.inv_modRegion, State.inv_foldl, State.inv_foldlFst]

theorem State.inv_placeStack (s : State) (pid : Nat) (x : Pkt) (img : StackImg) (hs : s.inv) : (State.placeStack s pid x img).inv := by
  unfold State.placeStack
  grind [State.inv_modPkt, State.inv_runStack, State.inv_enterStack, State.inv_endPkt, State.inv_modRegion]

theorem State.inv_readNumbers (s : State) (p : Nat) (va : Nat) (k : Nat) (n : Nat) (hs : s.inv) : excFstInv (State.readNumbers s p va k n) := by
  unfold State.readNumbers
  grind [State.inv_gget, excFstInv]

theorem State.inv_readCtxs (s : State) (p : Nat) (z2 : List Nat) (hs : s.inv) : excFstInv (State.readCtxs s p z2) := by
  induction z2 generalizing s with
  | nil => unfold State.readCtxs; grind [excFstInv]
  | cons x l ih =>
    unfold State.readCtxs
    grind [excFstInv, State.inv_readNumbers]

theorem State.inv_readStack (s : State) (p cstk recs nrec : Nat) (hs : s.inv) : excFstInv (s.readStack p cstk recs nrec) := by
  unfold State.readStack
  simp only [bind, Except.bind, pure, Except.pure]
  intro t h
  have rn := fun s va k n hs => inv_readNumbers s p va k n hs
  split at h
  · cases h
  · have a1 := rn _ _ _ _ hs _ ‹_›
    split at h
    · cases h
    · have a2 := rn _ _ _ _ a1 _ ‹_›
      split at h
      · cases h
      · have a3 := inv_readCtxs _ _ _ a2 _ ‹_›
        split at h
        · cases h
        · have a4 := rn _ _ _ _ a3 _ ‹_›
          split at h
          · cases h
          · have a5 := rn _ _ _ _ a4 _ ‹_›
            cases h
            exact a5

theorem State.inv_readLaunch (s : State) (pid : Nat) (x : Pkt) (hs : s.inv) : (State.readLaunch s pid x).inv := by
  unfold State.readLaunch
  grind [State.inv_readStack, State.inv_faultPkt, State.inv_endPkt, State.inv_placeStack, State.inv_modPkt, excFstInv]

theorem inv_execLaunch (pid : Nat) (s : State) (hs : s.inv) : outInv (execLaunch pid s) := by
  unfold execLaunch
  grind [State.inv_readLaunch, State.inv_placeStack, outInv]

theorem State.inv_acquireAt (s : State) (p : Nat) (asc : Nat) (hs : s.inv) : (State.acquireAt s p asc).inv := by
  unfold State.acquireAt
  grind [State.inv_rcDrop, State.inv_foldl, State.inv_foldlFst]

theorem State.inv_adminDone (s : State) (result : Nat) (detail : Word) (hs : s.inv) : (State.adminDone s result detail).inv := by
  unfold State.adminDone
  grind [State.inv_sendMsix, State.inv_with]

theorem State.inv_adminGo (s : State) (hs : s.inv) : (State.adminGo s).inv := by
  unfold State.adminGo
  grind [State.inv_adminDone, State.inv_with]

theorem State.inv_adminPage (s : State) (off : Nat) (v : Word) (hs : s.inv) : (State.adminPage s off v).inv := by
  unfold State.adminPage
  grind [State.inv_adminGo, State.inv_with]

theorem State.inv_enable (s : State) (f : Nat) (q : Nat) (hs : s.inv) : (State.enable s f q).inv := by
  unfold State.enable
  grind [State.inv_qcbWrite, State.inv_cpFault, State.inv_modQueue, excInv]

theorem State.inv_errorPage (s : State) (f : Nat) (off : Nat) (v : Word) (hs : s.inv) : (State.errorPage s f off v).inv := by
  unfold State.errorPage
  grind [State.inv_meterDrain, State.inv_modFn]

theorem State.inv_haltFault (s : State) (f : Nat) (q : Nat) (code : Nat) (va : Nat) (hs : s.inv) : (State.haltFault s f q code va).inv := by
  unfold State.haltFault
  grind [State.inv_queueTo, State.inv_cpFault]

theorem State.inv_kick (s : State) (f : Nat) (q : Nat) (w : Word) (hs : s.inv) : (State.kick s f q w).inv := by
  unfold State.kick
  grind [State.inv_ringPush, State.inv_modFn, State.inv_modQueue]

theorem State.inv_kickMsg (s : State) (f : Nat) (q : Nat) (w : Word) (hs : s.inv) : (State.kickMsg s f q w).inv := by
  unfold State.kickMsg
  grind [State.inv_kick, State.inv_ringPush]

theorem State.inv_resume (s : State) (f : Nat) (q : Nat) (hs : s.inv) : (State.resume s f q).inv := by
  unfold State.resume
  grind [State.inv_queueTo, State.inv_modQueue]

theorem State.inv_qctl (s : State) (f : Nat) (q : Nat) (v : Word) (hs : s.inv) : (State.qctl s f q v).inv := by
  unfold State.qctl
  grind [State.inv_enable, State.inv_queueTo, State.inv_resume, State.inv_modQueue]

theorem State.inv_kickPage (s : State) (f : Nat) (off : Nat) (v : Word) (hs : s.inv) : (State.kickPage s f off v).inv := by
  unfold State.kickPage
  grind [State.inv_kick, State.inv_qctl, State.inv_modFn, State.inv_modQueue]

theorem State.inv_putSlots (s : State) (p : Nat) (z2 : List (Nat × List Byte)) (hs : s.inv) : excInv (State.putSlots s p z2) := by
  induction z2 generalizing s with
  | nil => unfold State.putSlots; grind [excInv]
  | cons x l ih =>
    unfold State.putSlots
    grind [excInv, State.inv_gput]

theorem State.inv_slotsBusy (s : State) (p : Nat) (z2 : List (Nat × List Byte)) (hs : s.inv) : excFstInv (State.slotsBusy s p z2) := by
  induction z2 generalizing s with
  | nil => unfold State.slotsBusy; grind [excFstInv]
  | cons x l ih =>
    unfold State.slotsBusy
    grind [excFstInv, State.inv_gget]

theorem State.inv_lnchAt (s : State) (o : Org) (q : Nat) (index : Nat) (pkts : List (List Byte)) (hs : s.inv) : (State.lnchAt s o q index pkts).1.inv := by
  unfold State.lnchAt
  grind [State.inv_slotsBusy, State.inv_memFault, State.inv_putSlots, State.inv_modPkt, State.inv_with, excInv, excFstInv]

theorem State.inv_noteRead (s : State) (f : Nat) (q : Nat) (hs : s.inv) : (State.noteRead s f q).inv := by
  unfold State.noteRead
  grind [State.inv_gget, State.inv_modFn, State.inv_modQueue, excFstInv]

theorem State.inv_readPacket (s : State) (p : Nat) (x : Queue) (i : Word) (hs : s.inv) : excFstInv (s.readPacket p x i) := by
  unfold State.readPacket
  split
  · intro t h; cases h
  · rename_i h
    have h1 := inv_gget s p _ _ hs _ h
    have : ∀ (l : List Nat) (r : Except (Nat × Nat) (State × List Byte)), excFstInv r → excFstInv (l.foldl (fun r k => match r with
      | .error e => .error e
      | .ok (s2, cs) => match s2.gget p (slotVa x (i + 1 + BitVec.ofNat 32 k)) 64 with
        | .error e => .error e
        | .ok (s3, ds) => .ok (s3, cs ++ ds)) r) := by
      intro l
      induction l with
      | nil => exact fun r h => h
      | cons k l ih =>
        intro r h
        refine ih _ ?_
        grind [excFstInv, inv_gget]
    exact this _ _ (by grind [excFstInv])

theorem State.inv_startPkt (s : State) (x : Pkt) (hs : s.inv) : (State.startPkt s x).inv := by
  unfold State.startPkt
  grind [State.inv_acquireAt, State.inv_with]

theorem State.inv_startReplay (s : State) (f : Nat) (q : Nat) (hs : s.inv) : (State.startReplay s f q).inv := by
  unfold State.startReplay
  grind [State.inv_queueTo, State.inv_startPkt, State.inv_modQueue]

theorem State.inv_startSlot (s : State) (f : Nat) (q : Nat) (hs : s.inv) : (State.startSlot s f q).inv := by
  unfold State.startSlot
  grind [State.inv_readPacket, State.inv_haltFault, State.inv_queueTo, State.inv_ringPush, State.inv_gput, State.inv_qcbPut, State.inv_startPkt, State.inv_with, State.inv_modQueue, excInv, excFstInv]

theorem State.inv_writePage (s : State) (f : Nat) (page : Nat) (off : Nat) (v : Word) (hs : s.inv) : (State.writePage s f page off v).inv := by
  unfold State.writePage
  grind [State.inv_kickPage, State.inv_errorPage, State.inv_adminPage]

theorem inv_execIcbMessage (fn : Nat) (v : Nat) (s : State) (hs : s.inv) : outInv (execIcbMessage fn v s) := by
  unfold execIcbMessage
  grind [State.inv_icbDue, outInv]

theorem inv_execKickWrite (n : Option Nat) (fn : Nat) (q : Nat) (w : Word) (s : State) (hs : s.inv) : outInv (execKickWrite n fn q w s) := by
  unfold execKickWrite
  grind [State.inv_kick, inv_onMsg, State.inv_kickMsg, outInv, optInv]

theorem inv_execLnchApply (n : Nat) (s : State) (hs : s.inv) : outInv (execLnchApply n s) := by
  unfold execLnchApply
  grind [inv_onMsg, State.inv_lnchAt, State.inv_replyFrom, outInv, optInv]

theorem inv_execMsixUnmask (fn : Nat) (v : Nat) (s : State) (hs : s.inv) : outInv (execMsixUnmask fn v s) := by
  unfold execMsixUnmask
  grind [State.inv_sendMsix, State.inv_modFn, outInv]

theorem inv_execPacketCoreRestart (core : Nat) (s : State) (hs : s.inv) : outInv (execPacketCoreRestart core s) := by
  unfold execPacketCoreRestart
  grind [State.inv_with, outInv]

theorem inv_execQueueDisable (fn : Nat) (q : Nat) (v : Word) (s : State) (hs : s.inv) : outInv (execQueueDisable fn q v s) := by
  unfold execQueueDisable
  grind [State.inv_qctl, outInv]

theorem inv_execQueueEnable (fn : Nat) (q : Nat) (v : Word) (s : State) (hs : s.inv) : outInv (execQueueEnable fn q v s) := by
  unfold execQueueEnable
  grind [State.inv_qctl, outInv]

theorem inv_execQueueResume (fn : Nat) (q : Nat) (v : Word) (s : State) (hs : s.inv) : outInv (execQueueResume fn q v s) := by
  unfold execQueueResume
  grind [State.inv_qctl, outInv]

theorem inv_execRegisterWrite (fn : Nat) (page : Nat) (off : Nat) (size : Nat) (v : DWord) (s : State) (hs : s.inv) : outInv (execRegisterWrite fn page off size v s) := by
  unfold execRegisterWrite
  grind [State.inv_writePage, outInv]

theorem inv_execRingSlotRead (fn : Nat) (q : Nat) (s : State) (hs : s.inv) : outInv (execRingSlotRead fn q s) := by
  unfold execRingSlotRead
  grind [State.inv_gget, State.inv_haltFault, State.inv_modQueue, outInv, excFstInv]

theorem inv_execStartDecision (core : Nat) (s : State) (hs : s.inv) : outInv (execStartDecision core s) := by
  unfold execStartDecision
  grind [State.inv_noteRead, State.inv_startReplay, State.inv_startSlot, State.inv_with, State.inv_modFn, State.inv_foldl, State.inv_foldlFst, outInv]

theorem State.inv_word64 (s : State) (p : Nat) (va : Nat) (hs : s.inv) : excFstInv (State.word64 s p va) := by
  unfold State.word64
  grind [State.inv_gget, excFstInv]

theorem State.inv_readSignals (s : State) (p : Nat) (z2 : List Nat) (hs : s.inv) : excFstInv (s.readSignals p z2) := by
  induction z2 generalizing s with
  | nil => unfold State.readSignals; grind [excFstInv]
  | cons x l ih =>
    unfold State.readSignals
    grind [excFstInv, State.inv_word64]

theorem State.inv_barrier (s : State) (pid : Nat) (x : Pkt) (all : Bool) (hs : s.inv) : (State.barrier s pid x all).inv := by
  unfold State.barrier
  grind [State.inv_readSignals, State.inv_faultPkt, State.inv_endPkt, excFstInv]

theorem State.inv_copyBytes (s : State) (p src len sa da k : Nat) (hs : s.inv) : (s.copyBytes p src len sa da k).1.inv := by
  induction k generalizing s sa da with
  | zero => exact hs
  | succ k ih =>
    unfold State.copyBytes
    split
    · exact hs
    · have h1 := inv_gget _ _ _ _ hs _ ‹_›
      split
      · exact h1
      · have h2 := inv_gput _ _ _ _ h1 _ ‹_›
        refine ih _ _ _ ?_
        split
        · exact h1
        · exact h2

theorem State.inv_freeBytes (s : State) (p : Nat) (src : Nat) (n : Nat) (z4 : Nat) (z5 : List Nat) (hs : s.inv) : (State.freeBytes s p src n z4 z5).inv := by
  induction z5 generalizing s z4 with
  | nil => unfold State.freeBytes; grind
  | cons b l ih =>
    unfold State.freeBytes
    grind [excInv, State.inv_gput]

theorem State.inv_copyOver (s : State) (p : Nat) (src : Nat) (dst : Nat) (len : Nat) (n : Nat) (hs : s.inv) : (State.copyOver s p src dst len n).inv := by
  unfold State.copyOver
  grind [State.inv_freeBytes, State.inv_with]

theorem State.inv_decSignal (s : State) (p : Nat) (va : Nat) (hs : s.inv) : excInv (State.decSignal s p va) := by
  unfold State.decSignal
  grind [State.inv_word64, State.inv_gput, excInv, excFstInv]

theorem State.inv_graphErr (s : State) (pid : Nat) (code : Nat) (detail : Nat) (hs : s.inv) : (State.graphErr s pid code detail).inv := by
  unfold State.graphErr
  grind [State.inv_modPkt]

theorem State.inv_graphPacket (s : State) (p : Nat) (base : Nat) (i : Nat) (hs : s.inv) : excFstInv (State.graphPacket s p base i) := by
  unfold State.graphPacket
  grind [State.inv_gget, excFstInv]

theorem State.inv_modGraph (s : State) (pid : Nat) (f : GraphRun → GraphRun) (hs : s.inv) : (State.modGraph s pid f).inv := by
  unfold State.modGraph
  grind [State.inv_modPkt]

theorem State.inv_graphGo (s : State) (pid : Nat) (x : Pkt) (g : GraphRun) (hs : s.inv) : (State.graphGo s pid x g).inv := by
  unfold State.graphGo
  grind [State.inv_endPkt, State.inv_modGraph, State.inv_graphPacket, State.inv_graphErr, State.inv_cpFault, State.inv_startPkt, excFstInv]

theorem State.inv_haltPkt (s : State) (x : Pkt) (code : Nat) (hs : s.inv) : (State.haltPkt s x code).inv := by
  unfold State.haltPkt
  grind [State.inv_queueTo, State.inv_ringPush]

theorem State.inv_logDone (s : State) (x : Pkt) (hs : s.inv) : (State.logDone s x).inv := by
  unfold State.logDone
  grind [State.inv_modQueue]

theorem State.inv_signalPkt (s : State) (x : Pkt) (hs : s.inv) : (State.signalPkt s x).1.inv := by
  unfold State.signalPkt
  grind [State.inv_gput, State.inv_decSignal, State.inv_cpFault, excInv]

theorem State.inv_signalWrite (s : State) (p : Nat) (b : Nat) (hs : s.inv) : excInv (State.signalWrite s p b) := by
  unfold State.signalWrite
  grind [State.inv_gput, State.inv_word64, excInv, excFstInv]

theorem State.inv_tellDone (s : State) (x : Pkt) (code : Option Nat) (hs : s.inv) : (State.tellDone s x code).inv := by
  unfold State.tellDone
  grind [State.inv_modPkt, State.inv_graphErr, State.inv_haltPkt]

theorem State.inv_writeWords (s : State) (p va : Nat) (z3 : List Nat) (hs : s.inv) : (s.writeWords p va z3).1.inv := by
  induction z3 generalizing s va with
  | nil => exact hs
  | cons x l ih =>
    unfold State.writeWords
    grind [excInv, State.inv_gput]

theorem inv_execBarrierAnd (pid : Nat) (s : State) (hs : s.inv) : outInv (execBarrierAnd pid s) := by
  unfold execBarrierAnd
  grind [State.inv_barrier, outInv]

theorem inv_execBarrierOr (pid : Nat) (s : State) (hs : s.inv) : outInv (execBarrierOr pid s) := by
  unfold execBarrierOr
  grind [State.inv_barrier, outInv]

theorem inv_execBarrierPoll (pid : Nat) (s : State) (hs : s.inv) : outInv (execBarrierPoll pid s) := by
  unfold execBarrierPoll
  grind [State.inv_barrier, outInv]

theorem inv_execCond (pid : Nat) (s : State) (hs : s.inv) : outInv (execCond pid s) := by
  unfold execCond
  grind [State.inv_word64, State.inv_faultPkt, State.inv_endPkt, State.inv_modGraph, State.inv_graphErr, outInv, excFstInv]

theorem inv_execCopyPacket (pid : Nat) (s : State) (hs : s.inv) : outInv (execCopyPacket pid s) := by
  unfold execCopyPacket
  grind [State.inv_copyBytes, State.inv_faultPkt, State.inv_copyOver, State.inv_modPkt, State.inv_endPkt, outInv]

theorem inv_execGraph (pid : Nat) (s : State) (hs : s.inv) : outInv (execGraph pid s) := by
  unfold execGraph
  grind [State.inv_modPkt, State.inv_graphGo, outInv]

theorem inv_execNopPacket (pid : Nat) (s : State) (hs : s.inv) : outInv (execNopPacket pid s) := by
  unfold execNopPacket
  grind [State.inv_endPkt, outInv]

theorem inv_execPacketComplete (pid : Nat) (s : State) (hs : s.inv) : outInv (execPacketComplete pid s) := by
  unfold execPacketComplete
  grind [State.inv_signalPkt, State.inv_tellDone, State.inv_logDone, State.inv_with, outInv]

theorem inv_execSignalPacket (pid : Nat) (s : State) (hs : s.inv) : outInv (execSignalPacket pid s) := by
  unfold execSignalPacket
  grind [State.inv_signalWrite, State.inv_faultPkt, State.inv_vecEvent, State.inv_endPkt, outInv, excInv]

theorem inv_execWritePacket (pid : Nat) (s : State) (hs : s.inv) : outInv (execWritePacket pid s) := by
  unfold execWritePacket
  grind [State.inv_writeWords, State.inv_faultPkt, State.inv_endPkt, outInv]

theorem State.inv_logRec (s : State) (x : Pkt) (i : Option Nat) (hs : s.inv) : (State.logRec s x i).inv := by
  unfold State.logRec
  grind [State.inv_modQueue]

theorem State.inv_resolveAt (s : State) (f : Nat) (p : Nat) (va : Nat) (v : Nat) (o : Org) (hs : s.inv) : excInv (State.resolveAt s f p va v o) := by
  unfold State.resolveAt
  grind [State.inv_word64, State.inv_gput, State.inv_acqNote, State.inv_futSend, State.inv_ringPush, excInv, excFstInv]

theorem State.inv_completeRec (s : State) (p : Nat) (y : StackRun) (o : Org) (st : State × Option Nat) (r : Option Nat × LaunchRec) (hst : st.1.inv) : (State.completeRec s p y o st r).1.inv := by
  unfold State.completeRec
  grind [State.inv_resolveAt, State.inv_decSignal, State.inv_logRec, State.inv_cpFault, excInv]

theorem State.inv_dropReady (s : State) (p : Nat) (x : StackRun) (hs : s.inv) : (State.dropReady s p x).inv := by
  unfold State.dropReady
  grind [Elem.inv, State.inv_modElem, State.inv_elem, State.inv_foldl, State.inv_foldlFst]

theorem State.inv_unpark (s : State) (p : Nat) (j : Nat) (y : StackRun) (hs : s.inv) : (State.unpark s p j y).inv := by
  unfold State.unpark
  grind [inv_armMore, State.inv_modRegion]

theorem State.inv_endStack (s : State) (p : Nat) (j : Nat) (x : StackRun) (code : Option Nat) (hs : s.inv) : (State.endStack s p j x code).inv := by
  unfold State.endStack
  grind [State.inv_endPkt, State.inv_leaveStack, State.inv_dropReady, State.inv_unpark, State.inv_runStack, State.inv_modRegion]

theorem State.inv_closeCtx (s : State) (p : Nat) (j : Nat) (x : StackRun) (hs : s.inv) : (State.closeCtx s p j x).inv := by
  unfold State.closeCtx
  grind [State.inv_completeRec, State.inv_startCtx, State.inv_endStack, State.inv_foldl, State.inv_foldlFst]

theorem State.inv_hangPart (s : State) (p : Nat) (code : Nat) (hs : s.inv) : (State.hangPart s p code).inv := by
  unfold State.hangPart
  grind [State.inv_resetPart, State.inv_setVue]

theorem State.inv_watch (s : State) (hs : s.inv) : (State.watch s).inv := by
  unfold State.watch
  grind [State.inv_with]

theorem inv_execAllocStall (slot : Nat) (region : Nat) (s : State) (hs : s.inv) : outInv (execAllocStall slot region s) := by
  unfold execAllocStall
  grind [State.inv_hangPart, State.inv_ringPush, State.inv_foldl, State.inv_foldlFst, outInv]

theorem inv_execHang (slot : Nat) (region : Nat) (s : State) (hs : s.inv) : outInv (execHang slot region s) := by
  unfold execHang
  grind [State.inv_hangPart, outInv]

theorem inv_execParkHang (slot : Nat) (region : Nat) (s : State) (hs : s.inv) : outInv (execParkHang slot region s) := by
  unfold execParkHang
  grind [State.inv_hangPart, outInv]

theorem inv_execParkSwitch (slot : Nat) (region : Nat) (s : State) (hs : s.inv) : outInv (execParkSwitch slot region s) := by
  unfold execParkSwitch
  grind [State.inv_runStack, State.inv_modRegion, outInv]

theorem inv_execTerminationWave (slot : Nat) (region : Nat) (s : State) (hs : s.inv) : outInv (execTerminationWave slot region s) := by
  unfold execTerminationWave
  grind [State.inv_endStack, inv_armMore, State.inv_closeCtx, State.inv_modRegion, outInv]

theorem Elem.inv_gateThird (e : Elem) (k : Nat) (he : e.inv) : (Elem.gateThird e k).1.inv := by
  unfold Elem.gateThird
  split
  · exact he
  · split
    · exact he
    · exact ⟨Memory.wf_clear _ _ _ he.1, he.2⟩

theorem State.inv_bindFn (s : State) (p : Nat) (hs : s.inv) : (State.bindFn s p).inv := by
  unfold State.bindFn
  grind [State.inv_modFn]

theorem State.inv_dropPkts (s : State) (p : Nat) (hs : s.inv) : (State.dropPkts s p).inv := by
  unfold State.dropPkts
  grind [State.inv_with]

theorem State.inv_initElems (s : State) (p : Nat) (hs : s.inv) : (State.initElems s p).inv := by
  unfold State.initElems
  grind [relId_ne, Elem.inv, State.inv_modElem, State.inv_elem, State.inv_foldl, State.inv_foldlFst, outInv, wresInv, issueInv, optInv, optFstInv, excInv, excFstInv]

theorem State.inv_setHedges (s : State) (p : Nat) (on : Bool) (hs : s.inv) : (State.setHedges s p on).inv := by
  unfold State.setHedges
  grind [State.inv_with, State.inv_modClus, State.inv_foldl, State.inv_foldlFst]

theorem State.inv_createPart (s : State) (p : Nat) (x : Part) (maps : List Mapping) (hs : s.inv) : (State.createPart s p x maps).inv := by
  unfold State.createPart
  grind [State.inv_emitRecord, State.inv_bindFn, State.inv_buildTables, State.inv_initElems, State.inv_clearSlot, State.inv_setHedges, State.inv_dropPkts, State.inv_with]

theorem State.inv_freeze (s : State) (p : Nat) (hs : s.inv) : (s.freeze p).inv := by
  refine ⟨hs.1, hs.2.1, inv_mapVals hs.2.2.1 _ fun a e he => ?_, hs.2.2.2⟩
  split
  · exact he
  · exact he

theorem State.inv_queuesOff (s : State) (p : Nat) (hs : s.inv) : (State.queuesOff s p).inv := by
  unfold State.queuesOff
  grind [State.inv_modQueue, State.inv_foldl, State.inv_foldlFst]

theorem State.inv_retryAcc (s : State) (p : Nat) (w : FqWait) (hs : s.inv) : (State.retryAcc s p w).inv := by
  unfold State.retryAcc
  grind [State.inv_accFault, State.inv_putAcc, State.inv_elem]

theorem State.inv_retryEng (s : State) (p : Nat) (w : FqWait) (hs : s.inv) : (State.retryEng s p w).inv := by
  unfold State.retryEng
  grind [State.inv_engFault, State.inv_modEng]

theorem State.inv_retryAll (s : State) (p : Nat) (hs : s.inv) : (State.retryAll s p).inv := by
  unfold State.retryAll
  grind [State.inv_retryEng, State.inv_retryDisp, State.inv_retryColl, State.inv_retryAcc, State.inv_with, State.inv_modPart, State.inv_foldl, State.inv_foldlFst]

theorem State.inv_unfreeze (s : State) (p : Nat) (hs : s.inv) : (s.unfreeze p).inv := by
  unfold State.unfreeze
  exact inv_foldl _ _ (inv_foldl _ _ ⟨hs.1, hs.2.1, inv_mapVals hs.2.2.1 _ fun _ _ he => he, hs.2.2.2⟩ fun s a h => State.inv_settle s a h) fun s o hs => inv_replyFrom _ _ _ _ hs

theorem inv_adminRun (s : State) (code : Nat) (slotted : Bool) (masks : List Nat) (ok : List Nat → Bool) (f : Nat → List Nat → State) (hs : s.inv) (hf : ∀ p w, (f p w).inv) : outInv (adminRun s code slotted masks ok f) := by
  unfold adminRun
  grind [State.inv_adminDone, outInv]

theorem inv_execCreate (s : State) (hs : s.inv) : outInv (execCreate s) := by
  unfold execCreate
  grind [inv_adminRun, State.inv_adminDone, State.inv_createPart, outInv]

theorem inv_execDestroy (s : State) (hs : s.inv) : outInv (execDestroy s) := by
  unfold execDestroy
  grind [inv_adminRun, State.inv_adminDone, State.inv_freeTables, State.inv_dropPkts, State.inv_queuesOff, State.inv_collReset, State.inv_emitRecord, State.inv_setHedges, State.inv_clearSlot, State.inv_with, State.inv_modFn, outInv]

theorem inv_execDieGate (s : State) (hs : s.inv) : outInv (execDieGate s) := by
  unfold execDieGate
  grind [inv_adminRun, State.inv_adminDone, State.inv_with, outInv]

theorem inv_execDieWake (s : State) (hs : s.inv) : outInv (execDieWake s) := by
  unfold execDieWake
  grind [inv_adminRun, State.inv_adminDone, State.inv_with, outInv]

theorem inv_execExportWindow (s : State) (hs : s.inv) : outInv (execExportWindow s) := by
  unfold execExportWindow
  grind [inv_adminRun, State.inv_adminDone, State.inv_modPart, outInv]

theorem inv_execFabric (s : State) (hs : s.inv) : outInv (execFabric s) := by
  unfold execFabric
  refine inv_adminRun _ _ _ _ _ _ hs fun p w => ?_
  dsimp only
  split
  · exact inv_adminDone _ _ _ hs
  · split
    · exact inv_adminDone _ _ _ hs
    · refine inv_adminDone _ _ _ (inv_foldl _ _ ?_ fun s k hs => ?_)
      · split
        · exact hs
        · exact hs
      · split
        · exact inv_modPort hs _ _
        · exact hs

theorem State.inv_sendFrost (s : State) (p : Nat) (hs : s.inv) : (s.sendFrost p).inv := by
  unfold State.sendFrost
  grind [State.inv_post, State.inv_foldl]

theorem inv_execFrost (slot : Option Nat) (s : State) (hs : s.inv) : outInv (execFrost slot s) := by
  unfold execFrost
  grind [State.inv_sendFrost, State.inv_freeze, inv_adminRun, State.inv_adminDone, outInv]

theorem inv_execGateThird (s : State) (hs : s.inv) : outInv (execGateThird s) := by
  unfold execGateThird
  grind [inv_adminRun, Elem.inv_gateThird, State.inv_allocTouched, State.inv_adminDone, State.inv_setElem, State.inv_elem, Elem.inv, State.inv_foldl, State.inv_foldlFst, outInv]

theorem inv_execGateWays (s : State) (hs : s.inv) : outInv (execGateWays s) := by
  unfold execGateWays
  grind [inv_adminRun, State.inv_adminDone, State.inv_retireAll, State.inv_writeBack, State.inv_with, State.inv_setClus, State.inv_foldl, State.inv_foldlFst, outInv]

theorem inv_execHarvestRead (s : State) (hs : s.inv) : outInv (execHarvestRead s) := by
  unfold execHarvestRead
  dsimp only
  repeat' split
  all_goals
    intro t h
    cases h
    first
      | exact hs
      | exact inv_adminDone _ _ _ hs
      | exact inv_adminDone _ _ _ ⟨hs.1, Memory.wf_write _ _ _ hs.2.1, hs.2.2⟩

theorem State.inv_dev {s : State} (hs : s.inv) (d : Device) : State.inv { s with dev := d } := hs

theorem inv_execInject (s : State) (hs : s.inv) : outInv (execInject s) := by
  unfold execInject
  refine inv_adminRun _ _ _ _ _ _ hs fun p w => ?_
  extract_lets k mode mask
  clear_value mask
  split
  · exact inv_adminDone _ _ _ (inv_modElem hs _ _ fun e he => ⟨he.1, he.2⟩)
  · exact inv_adminDone _ _ _ (State.inv_dev hs _)

theorem inv_execMapPages (s : State) (hs : s.inv) : outInv (execMapPages s) := by
  unfold execMapPages
  grind [inv_adminRun, State.inv_adminDone, State.inv_buildTables, State.inv_modPart, outInv]

theorem inv_execMeterRing (s : State) (hs : s.inv) : outInv (execMeterRing s) := by
  unfold execMeterRing
  grind [inv_adminRun, State.inv_adminDone, State.inv_meterDrain, State.inv_with, State.inv_modFn, outInv]

theorem inv_execPstate (s : State) (hs : s.inv) : outInv (execPstate s) := by
  unfold execPstate
  grind [inv_adminRun, State.inv_adminDone, State.inv_with, outInv]

theorem inv_execService (s : State) (hs : s.inv) : outInv (execService s) := by
  unfold execService
  grind [inv_adminRun, State.inv_adminDone, State.inv_retryAll, outInv]

theorem inv_execSetLimits (s : State) (hs : s.inv) : outInv (execSetLimits s) := by
  unfold execSetLimits
  grind [inv_adminRun, State.inv_adminDone, State.inv_modPart, outInv]

theorem inv_execThaw (s : State) (hs : s.inv) : outInv (execThaw s) := by
  unfold execThaw
  grind [inv_adminRun, State.inv_adminDone, State.inv_unfreeze, outInv]

theorem inv_execUnmapPages (s : State) (hs : s.inv) : outInv (execUnmapPages s) := by
  unfold execUnmapPages
  grind [inv_adminRun, State.inv_adminDone, State.inv_buildTables, State.inv_dropLeaves, Elem.inv, State.inv_modPart, outInv]

theorem inv_execWakeThird (s : State) (hs : s.inv) : outInv (execWakeThird s) := by
  unfold execWakeThird
  grind [inv_adminRun, State.inv_adminDone, Elem.inv, State.inv_modElem, State.inv_elem, State.inv_foldl, State.inv_foldlFst, outInv]

theorem inv_execWakeWays (s : State) (hs : s.inv) : outInv (execWakeWays s) := by
  unfold execWakeWays
  grind [inv_adminRun, State.inv_adminDone, State.inv_with, State.inv_modClus, outInv]

theorem Elem.inv_placed (mine there : Elem) (shared : Bool) (h1 : mine.inv) (h2 : there.inv) : (mine.placed there shared).inv := by
  unfold Elem.placed
  split
  · exact ⟨Memory.wf_foldPut _ _ _ _ h2.1, h2.2⟩
  · exact h1

theorem Elem.inv_rebased (e : Elem) (t : Nat) (now : Nat) (he : e.inv) : (Elem.rebased e t now).inv := by
  unfold Elem.rebased
  grind [Elem.inv]

theorem Move.inv_element (m : Move) (e : Elem) (he : e.inv) : (Move.element m e).inv := by
  unfold Move.element
  grind [Elem.inv]

theorem State.inv_bringPages (s : State) (img : Image) (hs : s.inv) (_himg : img.inv) : (State.bringPages s img).inv := ⟨Memory.wf_foldPut _ _ _ _ hs.1, hs.2⟩

theorem State.inv_bringPkts (s : State) (p : Nat) (img : Image) (off : Nat) (hs : s.inv) (_himg : img.inv) : (State.bringPkts s p img off).inv := by
  unfold State.bringPkts
  grind [State.inv_with, State.inv_foldl, State.inv_foldlFst]

theorem State.inv_lateReplies (s : State) (p : Nat) (hs : s.inv) : (State.lateReplies s p).inv := by
  unfold State.lateReplies
  grind [State.inv_dropReq, State.inv_poisonReply, State.inv_memqDrop, State.inv_unjoin, State.inv_foldl, State.inv_foldlFst]

theorem State.inv_mineElem (s : State) (p : Nat) (a : Nat) (e : Elem) (_hs : s.inv) (he : e.inv) : (State.mineElem s p a e).inv := by
  unfold State.mineElem
  grind [Elem.inv_clearedHalf, Elem.inv]

theorem State.inv_soundElem (s : State) (e : Elem) (_hs : s.inv) (he : e.inv) : (State.soundElem s e).inv := by
  unfold State.soundElem
  grind [Elem.inv]

theorem State.inv_putImage (s : State) (p : Nat) (img : Image) (own : Bool) (x y ns : Nat) (hs : s.inv) (hi : img.inv) : (s.putImage p img own x y ns).inv := by
  unfold State.putImage
  dsimp only
  refine inv_emitRecord _ _ _ (inv_buildTables _ _ ?_)
  have h0 : (if img.move then s.bringPages img else s).inv := by
    split
    · exact inv_bringPages _ _ hs hi
    · exact hs
  have h2 (m : Move) (k : State → Cluster → Cluster) (t : State) (ht : t.inv) :
      (img.clusters.foldl (fun s r => s.modClus (m.clus r.1) fun z => (s.soundClus (k s r.2)).placed z (s.shared (m.clus r.1))) t).inv :=
    inv_foldl _ _ ht fun s r hs => inv_modClus hs _ _
  have h3 (m : Move) (k : State → Elem → Elem) (hk : ∀ s e, e.inv → (k s e).inv) (t : State) (ht : t.inv) :
      (img.elems.foldl (fun s r => s.modElem (m.elem r.1) fun z => (s.soundElem (k s r.2)).placed z (s.shared (clusNo (m.elem r.1)))) t).inv := by
    have : ∀ l : List (Nat × Elem), (∀ r ∈ l, r.2.inv) → ∀ t : State, t.inv →
        (l.foldl (fun s r => s.modElem (m.elem r.1) fun z => (s.soundElem (k s r.2)).placed z (s.shared (clusNo (m.elem r.1)))) t).inv := by
      intro l
      induction l with
      | nil => exact fun _ _ h => h
      | cons r l ih =>
        intro hl t ht
        refine ih (fun q hq => hl q (List.mem_cons_of_mem _ hq)) _ (inv_modElem ht _ _ fun e he => ?_)
        exact Elem.inv_placed _ _ _ (State.inv_soundElem _ _ ht (hk _ _ (hl r List.mem_cons_self))) he
    exact this _ hi t ht
  have h4 (m : Move) (t : State) (e : Elem) (he : e.inv) : (if own then m.element e else (m.element e).rebased img.part.frozeAt t.cycle).inv := by
    split
    · exact Move.inv_element _ _ he
    · exact Elem.inv_rebased _ _ _ (Move.inv_element _ _ he)
  have h5 (m : Move) (q : Part) := h3 m (fun s e => if own then m.element e else (m.element e).rebased img.part.frozeAt s.cycle) (fun s e he => h4 m s e he) _
    (h2 m (fun s z => if own then m.cluster z else Cluster.rebased (m.cluster z) img.part.frozeAt s.cycle) _ (inv_setHedges ({ (if img.move then s.bringPages img else s) with parts := (if img.move then s.bringPages img else s).parts.put p q } : State) p true h0))
  have h6 := h5 ⟨img.part.x0, img.part.y0, x, y, img.slot, p⟩ (s.restoredPart p img own x y ns ⟨img.part.x0, img.part.y0, x, y, img.slot, p⟩)
  cases own
  · rw [if_neg Bool.false_ne_true]
    refine inv_modFn (inv_bringPkts _ _ _ _ ?_ hi) _ _
    exact ⟨h6.1, h6.2⟩
  · exact ⟨h6.1, h6.2⟩

theorem State.inv_release_ (s : State) (p : Nat) (move : Bool) (hs : s.inv) : (s.release_ p move).inv := by
  have h1 := inv_setHedges _ p false (inv_clearSlot s p hs)
  refine inv_modPart ?_ _ _
  split
  · exact inv_freeTables _ _ ⟨Memory.wf_filter _ _ h1.1, h1.2⟩
  · exact ⟨Memory.wf_filter _ _ h1.1, h1.2⟩

theorem State.inv_imageOf (s : State) (p : Nat) (move : Bool) (hs : s.inv) : (s.imageOf p move).inv := by
  intro r hr
  simp only [State.imageOf, List.mem_map, List.mem_filter] at hr
  obtain ⟨q, ⟨hq, _⟩, rfl⟩ := hr
  exact State.inv_mineElem _ _ _ _ hs (hs.2.2.1 _ hq)

theorem inv_execEvict (s : State) (hs : s.inv) : outInv (execEvict s) := by
  unfold execEvict
  refine inv_adminRun _ _ _ _ _ _ hs fun p w => ?_
  dsimp only
  split
  · exact inv_adminDone _ _ _ hs
  · split
    · exact hs
    · split
      · exact inv_adminDone _ _ _ hs
      · have h1 := inv_emitRecord _ p 3 (inv_modPart (State.inv_lateReplies s p hs) p fun x => { x with dma := x.dma + (Config.imageBytes s.free).length })
        have h2 := State.inv_imagePut _ (pairAt w 1) _ (inv_release_ _ p (nth w 3 0 == 1) h1) (State.inv_imageOf _ p (nth w 3 0 == 1) h1)
        exact inv_adminDone _ _ _ h2

theorem inv_execRestore (s : State) (hs : s.inv) : outInv (execRestore s) := by
  unfold execRestore
  refine inv_adminRun _ _ _ _ _ _ hs fun p w => ?_
  have h1 (c a : Nat) : (s.adminDone c a).inv := inv_adminDone s _ _ hs
  dsimp only
  split
  · exact h1 _ _
  · split
    · exact h1 _ _
    · rename_i h
      have h2 := hs.2.2.2.1 _ (List.mem_of_find?_eq_some h)
      split
      · exact h1 _ _
      · split
        · exact h1 _ _
        · split
          · exact h1 _ _
          · exact inv_adminDone _ _ _ (State.inv_dmaAdd _ _ _ (inv_putImage _ _ _ _ _ _ _ hs h2))

theorem State.inv_restart (s : State) (mode : Mode) (hs : s.inv) : (State.restart s mode).inv := ⟨rfl, hs.2.1, by simp [State.restart, State.reset, Table.empty], hs.2.2.2⟩

theorem inv_execAtsInvalidation (fn : Nat) (va : Nat) (len : Nat) (s : State) (hs : s.inv) : outInv (execAtsInvalidation fn va len s) := by
  unfold execAtsInvalidation
  grind [State.inv_dropLeaves, outInv]

theorem inv_execDeviceReset (s : State) (hs : s.inv) : outInv (execDeviceReset s) := by
  unfold execDeviceReset
  grind [State.inv_restart, outInv]

theorem inv_execDieBistPass (die : Nat) (s : State) (hs : s.inv) : outInv (execDieBistPass die s) := by
  unfold execDieBistPass
  grind [State.inv_ringPush, State.inv_with, outInv]

theorem inv_execDroop (die : Nat) (s : State) (hs : s.inv) : outInv (execDroop die s) := by
  unfold execDroop
  grind [State.inv_ringPush, State.inv_setVce, State.inv_with, State.inv_foldl, State.inv_foldlFst, outInv]

theorem inv_execDroopEnd (die : Nat) (s : State) (hs : s.inv) : outInv (execDroopEnd die s) := by
  unfold execDroopEnd
  grind [State.inv_with, outInv]

theorem inv_execFirmwareUpdate (img : FwImage) (s : State) (hs : s.inv) : outInv (execFirmwareUpdate img s) := by
  unfold execFirmwareUpdate
  grind [State.inv_with, outInv]

theorem inv_execPolicyWatchdogExpiry (s : State) (hs : s.inv) : outInv (execPolicyWatchdogExpiry s) := by
  unfold execPolicyWatchdogExpiry
  grind [State.inv_harvest, outInv]

theorem inv_execPowerLoss (s : State) (hs : s.inv) : outInv (execPowerLoss s) := by
  unfold execPowerLoss
  grind [State.inv_restart, State.inv_with, outInv]

theorem inv_execPowerOn (s : State) (hs : s.inv) : outInv (execPowerOn s) := by
  unfold execPowerOn
  grind [State.inv_restart, outInv]

theorem inv_execTirzonMemoryUe (s : State) (hs : s.inv) : outInv (execTirzonMemoryUe s) := by
  unfold execTirzonMemoryUe
  grind [State.inv_harvest, outInv]

end Sys2Proof.Machine
end

