-- ==== Sys2Proof/Laws/InvStep.lean ====
section
/-! SUPPORT. The invariant of Safety.lean is kept by the operations on what an element runs and each instruction. -/

namespace Sys2Proof.Machine

set_option Elab.async false

open State

theorem inv_scalar (o : OpA) (s : State) (f : Act → Act) (hs : s.inv) : outInv (scalar o s f) := by
  unfold scalar
  grind [inv_runPure, outInv]

theorem inv_arith (o : OpA) (s : State) (fi : Int → Int → Int) (ff : Val → Val → Val × Exc) (hs : s.inv) : outInv (arith o s fi ff) := by
  unfold arith
  grind [inv_scalar, outInv]

theorem inv_execAdd (o : OpA) (s : State) (hs : s.inv) : outInv (execAdd o s) := by
  unfold execAdd
  grind [inv_arith, outInv]

theorem inv_execAnd (o : OpA) (s : State) (hs : s.inv) : outInv (execAnd o s) := by
  unfold execAnd
  grind [inv_scalar, outInv]

theorem inv_execAndn (o : OpA) (s : State) (hs : s.inv) : outInv (execAndn o s) := by
  unfold execAndn
  grind [inv_scalar, outInv]

theorem inv_execBext (o : OpA) (s : State) (hs : s.inv) : outInv (execBext o s) := by
  unfold execBext
  grind [inv_scalar, outInv]

theorem inv_execBins (o : OpA) (s : State) (hs : s.inv) : outInv (execBins o s) := by
  unfold execBins
  grind [inv_scalar, outInv]

theorem inv_execClz (o : OpA) (s : State) (hs : s.inv) : outInv (execClz o s) := by
  unfold execClz
  grind [inv_scalar, outInv]

theorem inv_execCmp (o : OpA) (s : State) (hs : s.inv) : outInv (execCmp o s) := by
  unfold execCmp
  grind [inv_scalar, outInv]

theorem inv_execDiv (o : OpA) (s : State) (hs : s.inv) : outInv (execDiv o s) := by
  unfold execDiv
  grind [inv_scalar, outInv]

theorem inv_execIdr (o : OpA) (s : State) (hs : s.inv) : outInv (execIdr o s) := by
  unfold execIdr
  grind [inv_runPure, outInv]

theorem inv_execLea (o : OpA) (s : State) (hs : s.inv) : outInv (execLea o s) := by
  unfold execLea
  grind [inv_scalar, outInv]

theorem inv_execLit (o : OpA) (s : State) (hs : s.inv) : outInv (execLit o s) := by
  unfold execLit
  grind [inv_scalar, outInv]

theorem inv_execLith (o : OpA) (s : State) (hs : s.inv) : outInv (execLith o s) := by
  unfold execLith
  grind [inv_scalar, outInv]

theorem inv_execMax (o : OpA) (s : State) (hs : s.inv) : outInv (execMax o s) := by
  unfold execMax
  grind [inv_scalar, outInv]

theorem inv_execMin (o : OpA) (s : State) (hs : s.inv) : outInv (execMin o s) := by
  unfold execMin
  grind [inv_scalar, outInv]

theorem inv_execMov (o : OpA) (s : State) (hs : s.inv) : outInv (execMov o s) := by
  unfold execMov
  grind [inv_scalar, outInv]

theorem inv_execMul (o : OpA) (s : State) (hs : s.inv) : outInv (execMul o s) := by
  unfold execMul
  grind [inv_arith, outInv]

theorem inv_execMulh (o : OpA) (s : State) (hs : s.inv) : outInv (execMulh o s) := by
  unfold execMulh
  grind [inv_scalar, outInv]

theorem inv_execOr (o : OpA) (s : State) (hs : s.inv) : outInv (execOr o s) := by
  unfold execOr
  grind [inv_scalar, outInv]

theorem inv_execPlog (o : OpA) (s : State) (hs : s.inv) : outInv (execPlog o s) := by
  unfold execPlog
  grind [inv_runPure, outInv]

theorem inv_execPopc (o : OpA) (s : State) (hs : s.inv) : outInv (execPopc o s) := by
  unfold execPopc
  grind [inv_scalar, outInv]

theorem inv_execRem (o : OpA) (s : State) (hs : s.inv) : outInv (execRem o s) := by
  unfold execRem
  grind [inv_scalar, outInv]

theorem inv_shift (o : OpA) (s : State) (kind : Nat) (hs : s.inv) : outInv (shift o s kind) := by
  unfold shift
  grind [inv_scalar, outInv]

theorem inv_execRot (o : OpA) (s : State) (hs : s.inv) : outInv (execRot o s) := by
  unfold execRot
  grind [inv_shift, outInv]

theorem inv_execSar (o : OpA) (s : State) (hs : s.inv) : outInv (execSar o s) := by
  unfold execSar
  grind [inv_shift, outInv]

theorem inv_execSel (o : OpA) (s : State) (hs : s.inv) : outInv (execSel o s) := by
  unfold execSel
  grind [inv_scalar, outInv]

theorem inv_execShl (o : OpA) (s : State) (hs : s.inv) : outInv (execShl o s) := by
  unfold execShl
  grind [inv_shift, outInv]

theorem inv_execShr (o : OpA) (s : State) (hs : s.inv) : outInv (execShr o s) := by
  unfold execShr
  grind [inv_shift, outInv]

theorem inv_execSub (o : OpA) (s : State) (hs : s.inv) : outInv (execSub o s) := by
  unfold execSub
  grind [inv_arith, outInv]

theorem inv_execTagr (o : OpA) (s : State) (hs : s.inv) : outInv (execTagr o s) := by
  unfold execTagr
  grind [inv_scalar, outInv]

theorem inv_execXor (o : OpA) (s : State) (hs : s.inv) : outInv (execXor o s) := by
  unfold execXor
  grind [inv_scalar, outInv]

theorem inv_lanewise (o : OpA) (s : State) (f : Act → Nat → Lane × Exc) (hs : s.inv) : outInv (lanewise o s f) := by
  unfold lanewise
  grind [inv_runPure, State.inv_foldl, State.inv_foldlFst, outInv]

theorem inv_elementwise (o : OpA) (s : State) (ff : Val → Val → Val × Exc) (fi : Int → Int → Int) (hs : s.inv) : outInv (elementwise o s ff fi) := by
  unfold elementwise
  grind [inv_lanewise, outInv]

theorem inv_execColr (o : OpA) (s : State) (hs : s.inv) : outInv (execColr o s) := by
  unfold execColr
  grind [inv_runPure, outInv]

theorem inv_execVabs (o : OpA) (s : State) (hs : s.inv) : outInv (execVabs o s) := by
  unfold execVabs
  grind [inv_lanewise, outInv]

theorem inv_execVadd (o : OpA) (s : State) (hs : s.inv) : outInv (execVadd o s) := by
  unfold execVadd
  grind [inv_elementwise, outInv]

theorem inv_moves (o : OpA) (s : State) (f : Act → Nat → Lane) (hs : s.inv) : outInv (moves o s f) := by
  unfold moves
  grind [inv_lanewise, outInv]

theorem inv_execVbcst (o : OpA) (s : State) (hs : s.inv) : outInv (execVbcst o s) := by
  unfold execVbcst
  grind [inv_moves, outInv]

theorem inv_execVbit (o : OpA) (s : State) (hs : s.inv) : outInv (execVbit o s) := by
  unfold execVbit
  grind [inv_lanewise, outInv]

theorem inv_execVcmp (o : OpA) (s : State) (hs : s.inv) : outInv (execVcmp o s) := by
  unfold execVcmp
  grind [inv_runPure, outInv]

theorem inv_execVcvt (o : OpA) (s : State) (hs : s.inv) : outInv (execVcvt o s) := by
  unfold execVcvt
  grind [inv_lanewise, outInv]

theorem inv_execVdiv (o : OpA) (s : State) (hs : s.inv) : outInv (execVdiv o s) := by
  unfold execVdiv
  grind [inv_lanewise, outInv]

theorem inv_specials (o : OpA) (s : State) (fn : Nat) (hs : s.inv) : outInv (specials o s fn) := by
  unfold specials
  grind [inv_lanewise, outInv]

theorem inv_execVexp (o : OpA) (s : State) (hs : s.inv) : outInv (execVexp o s) := by
  unfold execVexp
  grind [inv_specials, outInv]

theorem inv_execVfma (o : OpA) (s : State) (hs : s.inv) : outInv (execVfma o s) := by
  unfold execVfma
  grind [inv_lanewise, outInv]

theorem inv_execViota (o : OpA) (s : State) (hs : s.inv) : outInv (execViota o s) := by
  unfold execViota
  grind [inv_lanewise, outInv]

theorem inv_execVlog (o : OpA) (s : State) (hs : s.inv) : outInv (execVlog o s) := by
  unfold execVlog
  grind [inv_specials, outInv]

theorem inv_execVmax (o : OpA) (s : State) (hs : s.inv) : outInv (execVmax o s) := by
  unfold execVmax
  grind [inv_moves, outInv]

theorem inv_execVmin (o : OpA) (s : State) (hs : s.inv) : outInv (execVmin o s) := by
  unfold execVmin
  grind [inv_moves, outInv]

theorem inv_execVmov (o : OpA) (s : State) (hs : s.inv) : outInv (execVmov o s) := by
  unfold execVmov
  grind [inv_moves, outInv]

theorem inv_execVmul (o : OpA) (s : State) (hs : s.inv) : outInv (execVmul o s) := by
  unfold execVmul
  grind [inv_elementwise, outInv]

theorem inv_execVneg (o : OpA) (s : State) (hs : s.inv) : outInv (execVneg o s) := by
  unfold execVneg
  grind [inv_lanewise, outInv]

theorem inv_execVpack (o : OpA) (s : State) (hs : s.inv) : outInv (execVpack o s) := by
  unfold execVpack
  grind [inv_moves, outInv]

theorem inv_execVrcp (o : OpA) (s : State) (hs : s.inv) : outInv (execVrcp o s) := by
  unfold execVrcp
  grind [inv_specials, outInv]

theorem inv_execVred (o : OpA) (s : State) (hs : s.inv) : outInv (execVred o s) := by
  unfold execVred
  grind [inv_runPure, outInv]

theorem inv_execVrnd (o : OpA) (s : State) (hs : s.inv) : outInv (execVrnd o s) := by
  unfold execVrnd
  grind [inv_runWord, State.inv_fpxIf, State.inv_srAdvance, State.inv_elem, State.inv_foldl, State.inv_foldlFst, outInv, wresInv]

theorem inv_execVrsq (o : OpA) (s : State) (hs : s.inv) : outInv (execVrsq o s) := by
  unfold execVrsq
  grind [inv_specials, outInv]

theorem inv_execVscan (o : OpA) (s : State) (hs : s.inv) : outInv (execVscan o s) := by
  unfold execVscan
  grind [inv_runPure, outInv]

theorem inv_execVscl (o : OpA) (s : State) (hs : s.inv) : outInv (execVscl o s) := by
  unfold execVscl
  grind [inv_runPure, State.inv_foldl, State.inv_foldlFst, outInv]

theorem inv_execVsel (o : OpA) (s : State) (hs : s.inv) : outInv (execVsel o s) := by
  unfold execVsel
  grind [inv_moves, outInv]

theorem inv_execVshuf (o : OpA) (s : State) (hs : s.inv) : outInv (execVshuf o s) := by
  unfold execVshuf
  grind [inv_moves, outInv]

theorem inv_execVsqrt (o : OpA) (s : State) (hs : s.inv) : outInv (execVsqrt o s) := by
  unfold execVsqrt
  grind [inv_specials, outInv]

theorem inv_execVsub (o : OpA) (s : State) (hs : s.inv) : outInv (execVsub o s) := by
  unfold execVsub
  grind [inv_elementwise, outInv]

theorem inv_execVtail (o : OpA) (s : State) (hs : s.inv) : outInv (execVtail o s) := by
  unfold execVtail
  grind [inv_moves, outInv]

theorem inv_execVtanh (o : OpA) (s : State) (hs : s.inv) : outInv (execVtanh o s) := by
  unfold execVtanh
  grind [inv_specials, outInv]

theorem inv_execVtrn (o : OpA) (s : State) (hs : s.inv) : outInv (execVtrn o s) := by
  unfold execVtrn
  grind [inv_runPure, outInv]

theorem inv_execVunpk (o : OpA) (s : State) (hs : s.inv) : outInv (execVunpk o s) := by
  unfold execVunpk
  grind [inv_moves, outInv]

theorem inv_exec (i : Instr) (s : State) (hs : s.inv) : outInv (exec i s) :=
  match i with
  | .seq o => inv_execSeq o s hs
  | .steer o => inv_execSteer o s hs
  | .merge o => inv_execMerge o s hs
  | .gate o => inv_execGate o s hs
  | .loop o => inv_execLoop o s hs
  | .next o => inv_execNext o s hs
  | .exit o => inv_execExit o s hs
  | .call o => inv_execCall o s hs
  | .retn o => inv_execRetn o s hs
  | .join o => inv_execJoin o s hs
  | .sink o => inv_execSink o s hs
  | .const o => inv_execConst o s hs
  | .prune o => inv_execPrune o s hs
  | .add o => inv_execAdd o s hs
  | .sub o => inv_execSub o s hs
  | .mul o => inv_execMul o s hs
  | .mulh o => inv_execMulh o s hs
  | .div o => inv_execDiv o s hs
  | .rem o => inv_execRem o s hs
  | .min o => inv_execMin o s hs
  | .max o => inv_execMax o s hs
  | .and o => inv_execAnd o s hs
  | .or o => inv_execOr o s hs
  | .xor o => inv_execXor o s hs
  | .andn o => inv_execAndn o s hs
  | .shl o => inv_execShl o s hs
  | .shr o => inv_execShr o s hs
  | .sar o => inv_execSar o s hs
  | .rot o => inv_execRot o s hs
  | .clz o => inv_execClz o s hs
  | .popc o => inv_execPopc o s hs
  | .bext o => inv_execBext o s hs
  | .bins o => inv_execBins o s hs
  | .sel o => inv_execSel o s hs
  | .cmp o => inv_execCmp o s hs
  | .plog o => inv_execPlog o s hs
  | .mov o => inv_execMov o s hs
  | .lit o => inv_execLit o s hs
  | .lith o => inv_execLith o s hs
  | .lea o => inv_execLea o s hs
  | .tagr o => inv_execTagr o s hs
  | .idr o => inv_execIdr o s hs
  | .vadd o => inv_execVadd o s hs
  | .vsub o => inv_execVsub o s hs
  | .vmul o => inv_execVmul o s hs
  | .vfma o => inv_execVfma o s hs
  | .vdiv o => inv_execVdiv o s hs
  | .vsqrt o => inv_execVsqrt o s hs
  | .vrcp o => inv_execVrcp o s hs
  | .vrsq o => inv_execVrsq o s hs
  | .vexp o => inv_execVexp o s hs
  | .vlog o => inv_execVlog o s hs
  | .vtanh o => inv_execVtanh o s hs
  | .vmin o => inv_execVmin o s hs
  | .vmax o => inv_execVmax o s hs
  | .vabs o => inv_execVabs o s hs
  | .vneg o => inv_execVneg o s hs
  | .vcmp o => inv_execVcmp o s hs
  | .vsel o => inv_execVsel o s hs
  | .vcvt o => inv_execVcvt o s hs
  | .vrnd o => inv_execVrnd o s hs
  | .vtail o => inv_execVtail o s hs
  | .vshuf o => inv_execVshuf o s hs
  | .vtrn o => inv_execVtrn o s hs
  | .vred o => inv_execVred o s hs
  | .vscan o => inv_execVscan o s hs
  | .vbcst o => inv_execVbcst o s hs
  | .viota o => inv_execViota o s hs
  | .vpack o => inv_execVpack o s hs
  | .vunpk o => inv_execVunpk o s hs
  | .colr o => inv_execColr o s hs
  | .vscl o => inv_execVscl o s hs
  | .vmov o => inv_execVmov o s hs
  | .vbit o => inv_execVbit o s hs
  | .mode o => inv_execMode o s hs
  | .mcfg o => inv_execMcfg o s hs
  | .mwld o => inv_execMwld o s hs
  | .mbindW o => inv_execMbindW o s hs
  | .mbindOp o => inv_execMbindOp o s hs
  | .mfreeW o => inv_execMfreeW o s hs
  | .mfreeOp o => inv_execMfreeOp o s hs
  | .mfreeCfg o => inv_execMfreeCfg o s hs
  | .mdrn o => inv_execMdrn o s hs
  | .mstat o => inv_execMstat o s hs
  | .scsnd o => inv_execScsnd o s hs
  | .scpr o => inv_execScpr o s hs
  | .zskp o => inv_execZskp o s hs
  | .ldl o => inv_execLdl o s hs
  | .stl o => inv_execStl o s hs
  | .ldc o => inv_execLdc o s hs
  | .stc o => inv_execStc o s hs
  | .ldg o => inv_execLdg o s hs
  | .stg o => inv_execStg o s hs
  | .copy o => inv_execCopy o s hs
  | .gath o => inv_execGath o s hs
  | .scat o => inv_execScat o s hs
  | .pref o => inv_execPref o s hs
  | .clean o => inv_execClean o s hs
  | .inval o => inv_execInval o s hs
  | .alloc o => inv_execAlloc o s hs
  | .free o => inv_execFree o s hs
  | .hold o => inv_execHold o s hs
  | .aqry o => inv_execAqry o s hs
  | .tful o => inv_execTful o s hs
  | .send o => inv_execSend o s hs
  | .emit o => inv_execEmit o s hs
  | .sendc o => inv_execSendc o s hs
  | .mcast o => inv_execMcast o s hs
  | .mask o => inv_execMask o s hs
  | .unmsk o => inv_execUnmsk o s hs
  | .walk o => inv_execWalk o s hs
  | .split o => inv_execSplit o s hs
  | .wstat o => inv_execWstat o s hs
  | .kick o => inv_execKick o s hs
  | .lnch o => inv_execLnch o s hs
  | .disp o => inv_execDisp o s hs
  | .dflsh o => inv_execDflsh o s hs
  | .coll o => inv_execColl o s hs
  | .rstat o => inv_execRstat o s hs
  | .phreg o => inv_execPhreg o s hs
  | .phdrp o => inv_execPhdrp o s hs
  | .phsig o => inv_execPhsig o s hs
  | .phwt o => inv_execPhwt o s hs
  | .phsw o => inv_execPhsw o s hs
  | .amo o => inv_execAmo o s hs
  | .cas o => inv_execCas o s hs
  | .famo o => inv_execFamo o s hs
  | .fence o => inv_execFence o s hs
  | .bind o => inv_execBind o s hs
  | .unbnd o => inv_execUnbnd o s hs
  | .acq o => inv_execAcq o s hs
  | .rel o => inv_execRel o s hs
  | .osec o => inv_execOsec o s hs
  | .oend o => inv_execOend o s hs
  | .otok o => inv_execOtok o s hs
  | .futn o => inv_execFutn o s hs
  | .fres o => inv_execFres o s hs
  | .freg o => inv_execFreg o s hs
  | .nop o => inv_execNop o s hs
  | .trap o => inv_execTrap o s hs
  | .brk o => inv_execBrk o s hs
  | .time o => inv_execTime o s hs
  | .rtime o => inv_execRtime o s hs
  | .metr o => inv_execMetr o s hs
  | .csrr o => inv_execCsrr o s hs
  | .csrw o => inv_execCsrw o s hs
  | .erri o => inv_execErri o s hs
  | .rseed o => inv_execRseed o s hs
  | .perf o => inv_execPerf o s hs
  | .sysc o => inv_execSysc o s hs
  | .halt o => inv_execHalt o s hs
  | .frzr o => inv_execFrzr o s hs
  | .tokenArrival n => inv_execTokenArrival n s hs
  | .tokenLeave elem => inv_execTokenLeave elem s hs
  | .allocRequestAccept n => inv_execAllocRequestAccept n s hs
  | .allocatorGrant elem => inv_execAllocatorGrant elem s hs
  | .grantDelivery n => inv_execGrantDelivery n s hs
  | .allocRefusalArrival n => inv_execAllocRefusalArrival n s hs
  | .windowRefill elem list => inv_execWindowRefill elem list s hs
  | .horizonSnapshot slot region => inv_execHorizonSnapshot slot region s hs
  | .horizonBroadcast slot region => inv_execHorizonBroadcast slot region s hs
  | .promotion n => inv_execPromotion n s hs
  | .allocStall slot region => inv_execAllocStall slot region s hs
  | .freeMessage n => inv_execFreeMessage n s hs
  | .holdMessage n => inv_execHoldMessage n s hs
  | .tfulMessage n => inv_execTfulMessage n s hs
  | .aqryQuery n => inv_execAqryQuery n s hs
  | .thirdWakeDone elem k => inv_execThirdWakeDone elem k s hs
  | .patrolScrub elem k => inv_execPatrolScrub elem k s hs
  | .walkerEmit cluster unit => inv_execWalkerEmit cluster unit s hs
  | .walkerGrantDelivery n => inv_execWalkerGrantDelivery n s hs
  | .idleFire elem tslot => inv_execIdleFire elem tslot s hs
  | .splitApply n => inv_execSplitApply n s hs
  | .splitResult n => inv_execSplitResult n s hs
  | .phaserRegister n also => inv_execPhaserRegister n also s hs
  | .phaserSignal n also => inv_execPhaserSignal n also s hs
  | .phaserDrop n also => inv_execPhaserDrop n also s hs
  | .phaserWait n also => inv_execPhaserWait n also s hs
  | .phaserSignalWait n also => inv_execPhaserSignalWait n also s hs
  | .waiterLinkWrite n => inv_execWaiterLinkWrite n s hs
  | .phaserRelease n => inv_execPhaserRelease n s hs
  | .clusterAccess n => inv_execClusterAccess n s hs
  | .clusterReply n => inv_execClusterReply n s hs
  | .mwldFlit n => inv_execMwldFlit n s hs
  | .arrayMessage n => inv_execArrayMessage n s hs
  | .arrayFiringStart cluster g => inv_execArrayFiringStart cluster g s hs
  | .arrayFiringEnd cluster g => inv_execArrayFiringEnd cluster g s hs
  | .mdrnDrain cluster g => inv_execMdrnDrain cluster g s hs
  | .flitReceive n => inv_execFlitReceive n s hs
  | .egressArbitration out => inv_execEgressArbitration out s hs
  | .homeAccess elem k => inv_execHomeAccess elem k s hs
  | .tlbMiss elem k => inv_execTlbMiss elem k s hs
  | .pageWalk pool k => inv_execPageWalk pool k s hs
  | .globalReply n => inv_execGlobalReply n s hs
  | .accessAck n => inv_execAccessAck n s hs
  | .engineCommand cluster k => inv_execEngineCommand cluster k s hs
  | .engineCompletion cluster k => inv_execEngineCompletion cluster k s hs
  | .futnApply elem k => inv_execFutnApply elem k s hs
  | .fresApply elem k => inv_execFresApply elem k s hs
  | .fregApply elem k => inv_execFregApply elem k s hs
  | .bindApply n => inv_execBindApply n s hs
  | .unbndApply n => inv_execUnbndApply n s hs
  | .sectionCommit elem k => inv_execSectionCommit elem k s hs
  | .kickWrite n fn q w => inv_execKickWrite n fn q w s hs
  | .queueEnable fn q v => inv_execQueueEnable fn q v s hs
  | .queueDisable fn q v => inv_execQueueDisable fn q v s hs
  | .queueResume fn q v => inv_execQueueResume fn q v s hs
  | .registerWrite fn page off size v => inv_execRegisterWrite fn page off size v s hs
  | .icbMessage fn v => inv_execIcbMessage fn v s hs
  | .ringSlotRead fn q => inv_execRingSlotRead fn q s hs
  | .startDecision core => inv_execStartDecision core s hs
  | .launch pid => inv_execLaunch pid s hs
  | .copyPacket pid => inv_execCopyPacket pid s hs
  | .barrierAnd pid => inv_execBarrierAnd pid s hs
  | .barrierOr pid => inv_execBarrierOr pid s hs
  | .barrierPoll pid => inv_execBarrierPoll pid s hs
  | .signalPacket pid => inv_execSignalPacket pid s hs
  | .graph pid => inv_execGraph pid s hs
  | .cond pid => inv_execCond pid s hs
  | .nopPacket pid => inv_execNopPacket pid s hs
  | .writePacket pid => inv_execWritePacket pid s hs
  | .packetComplete pid => inv_execPacketComplete pid s hs
  | .lnchApply n => inv_execLnchApply n s hs
  | .terminationWave slot region => inv_execTerminationWave slot region s hs
  | .parkSwitch slot region => inv_execParkSwitch slot region s hs
  | .parkHang slot region => inv_execParkHang slot region s hs
  | .packetCoreRestart core => inv_execPacketCoreRestart core s hs
  | .policyWatchdogExpiry => inv_execPolicyWatchdogExpiry s hs
  | .create => inv_execCreate s hs
  | .destroy => inv_execDestroy s hs
  | .mapPages => inv_execMapPages s hs
  | .unmapPages => inv_execUnmapPages s hs
  | .service => inv_execService s hs
  | .frost slot => inv_execFrost slot s hs
  | .thaw => inv_execThaw s hs
  | .evict => inv_execEvict s hs
  | .restore => inv_execRestore s hs
  | .gateThird => inv_execGateThird s hs
  | .wakeThird => inv_execWakeThird s hs
  | .gateWays => inv_execGateWays s hs
  | .wakeWays => inv_execWakeWays s hs
  | .pstate => inv_execPstate s hs
  | .dieGate => inv_execDieGate s hs
  | .dieWake => inv_execDieWake s hs
  | .setLimits => inv_execSetLimits s hs
  | .inject => inv_execInject s hs
  | .meterRing => inv_execMeterRing s hs
  | .harvestRead => inv_execHarvestRead s hs
  | .exportWindow => inv_execExportWindow s hs
  | .fabric => inv_execFabric s hs
  | .meterPeriodicRecord slot => inv_execMeterPeriodicRecord slot s hs
  | .hang slot region => inv_execHang slot region s hs
  | .droop die => inv_execDroop die s hs
  | .powerOn => inv_execPowerOn s hs
  | .dieBistPass die => inv_execDieBistPass die s hs
  | .atsInvalidation fn va len => inv_execAtsInvalidation fn va len s hs
  | .rosgenFlitReceive port f => inv_execRosgenFlitReceive port f s hs
  | .nakReceive port sn => inv_execNakReceive port sn s hs
  | .replayTimeout port => inv_execReplayTimeout port s hs
  | .rosgenMessageApply n => inv_execRosgenMessageApply n s hs
  | .failReceive n => inv_execFailReceive n s hs
  | .endToEndAck n => inv_execEndToEndAck n s hs
  | .inboundAccess n => inv_execInboundAccess n s hs
  | .dispAppend n => inv_execDispAppend n s hs
  | .dispatchPlace n k => inv_execDispatchPlace n k s hs
  | .dispatchOutcome n => inv_execDispatchOutcome n s hs
  | .collMessage n => inv_execCollMessage n s hs
  | .waysWakeDone kind unit group => inv_execWaysWakeDone kind unit group s hs
  | .deviceReset => inv_execDeviceReset s hs
  | .powerLoss => inv_execPowerLoss s hs
  | .rosgenPortUp port peer => inv_execRosgenPortUp port peer s hs
  | .rosgenPortDown port => inv_execRosgenPortDown port s hs
  | .rosgenPortSend port => inv_execRosgenPortSend port s hs
  | .droopEnd die => inv_execDroopEnd die s hs
  | .tirzonMemoryUe => inv_execTirzonMemoryUe s hs
  | .msixUnmask fn v => inv_execMsixUnmask fn v s hs
  | .firmwareUpdate img => inv_execFirmwareUpdate img s hs

theorem State.inv_eventErrors (s : State) (i : Instr) (hs : s.inv) : (State.eventErrors s i).1.inv := by
  unfold State.eventErrors
  grind [State.inv_eccFatal]

theorem State.inv_issueWord (s : State) (a : Nat) (k : Nat) (hs : s.inv) : (State.issueWord s a k).inv := by
  unfold State.issueWord
  grind [Elem.inv_count, State.inv_with, Elem.inv, State.inv_modElem, State.inv_elem]

theorem State.inv_nextStart (s : State) (a : Nat) (hs : s.inv) : issueInv (State.nextStart s a) := by
  unfold State.nextStart
  grind [State.inv_eccFatal, State.inv_with, State.inv_elem, issueInv]

theorem State.inv_nextWord (s : State) (a : Nat) (hs : s.inv) : issueInv (State.nextWord s a) := by
  unfold State.nextWord
  grind [State.inv_endSeq, State.inv_eccFatal, State.inv_issueWord, State.inv_elem, issueInv]

theorem State.inv_outside (s : State) (c : Choice) (hs : s.inv) (hc : ∀ a x, c = .hostImage a (some x) → x.inv) : (s.outside c).inv := by
  unfold State.outside
  dsimp only
  split
  · exact ⟨hs.1, Memory.wf_write _ _ _ hs.2.1, hs.2.2⟩
  · exact hs
  · split
    · split
      · exact hs
      · exact State.inv_settle _ _ ⟨hs.1, Memory.wf_write _ _ _ hs.2.1, hs.2.2⟩
    · exact hs
  · exact inv_modFn hs _ _
  · split
    · exact State.inv_imagePut _ _ _ hs (hc _ _ rfl)
    · exact ⟨hs.1, hs.2.1, hs.2.2.1, fun r hr => hs.2.2.2.1 r (List.mem_filter.mp hr).1, hs.2.2.2.2⟩
  · split
    · split
      · exact hs
      · exact hs
    · exact hs
  · exact hs
  · exact hs

theorem State.inv_waitTick (s : State) (n : Nat) (lost : Nat → Nat) (hs : s.inv) : (s.waitTick n lost).inv := by
  refine ⟨hs.1, hs.2.1, inv_mapVals hs.2.2.1 _ fun a e he => ?_, hs.2.2.2⟩
  exact Elem.inv_foldl _ _ he fun _ _ h => h

theorem State.inv_tick (s : State) (n : Nat) (hs : s.inv) : (State.tick s n).inv := by
  unfold State.tick
  grind [State.inv_egressTick, State.inv_waitTick, State.inv_arrTick, State.inv_phTick, State.inv_wordTick, State.inv_with]

/-- What a turn's storage errors are fatal to keeps the invariant through the reset. -/
theorem State.inv_settleHurt (s : State) (hs : s.inv) : s.settleHurt.inv := by
  unfold State.settleHurt
  split
  · exact hs
  · exact inv_foldl s.hurt (fun (s : State) h => s.fatal (s.ownOf h.1.elem h.1.ctx) h.1 h.2) (s := { s with hurt := [] }) hs fun s h hs => State.inv_fatal _ _ _ _ hs

end Sys2Proof.Machine
end

