-- ==== Sys2Proof/Laws/State.lean ====
section
/-! SUPPORT. What each named update of the state leaves alone, field by field, and what it puts in its place. -/

namespace Sys2Proof.Machine

-- Tables -----------------------------------------------------------------------------------------------------------------

theorem rowsFind_put_same {α : Type} (k : Nat) (v : α) (l : List (Nat × α)) : rowsFind k (rowsPut k v l) = some v := by
  induction l with
  | nil => simp [rowsPut, rowsFind]
  | cons r l ih =>
    obtain ⟨j, x⟩ := r
    simp only [rowsPut]
    split
    · simp [rowsFind]
    · split
      · simp [rowsFind]
      · simp only [rowsFind]
        split
        · omega
        · exact ih

theorem rowsFind_put_other {α : Type} {k i : Nat} (v : α) (l : List (Nat × α)) (h : i ≠ k) : rowsFind i (rowsPut k v l) = rowsFind i l := by
  induction l with
  | nil => simp [rowsPut, rowsFind, Ne.symm h]
  | cons r l ih =>
    obtain ⟨j, x⟩ := r
    simp only [rowsPut]
    split
    · simp [rowsFind, Ne.symm h]
    · split
      · rename_i _ hk
        simp [rowsFind, Ne.symm h, ← hk]
      · simp only [rowsFind, ih]

@[simp] theorem Table.find?_put_same {α : Type} (t : Table α) (k : Nat) (v : α) : (t.put k v).find? k = some v := rowsFind_put_same k v t.rows

@[simp] theorem Table.get_put_same {α : Type} (t : Table α) (d : α) (k : Nat) (v : α) : (t.put k v).get d k = v := by simp [Table.get]

theorem Table.find?_put_other {α : Type} (t : Table α) {k i : Nat} (v : α) (h : i ≠ k) : (t.put k v).find? i = t.find? i := rowsFind_put_other v t.rows h

theorem Table.get_put_other {α : Type} (t : Table α) (d : α) {k i : Nat} (v : α) (h : i ≠ k) : (t.put k v).get d i = t.get d i := by
  simp [Table.get, Table.find?_put_other t v h]

-- Entries read back ---------------------------------------------------------------------------------------------------------

namespace State

@[simp] theorem elem_setElem_same (s : State) (a : Nat) (e : Elem) : (s.setElem a e).elem a = e := by simp [elem, setElem]

theorem elem_setElem_other (s : State) {a b : Nat} (e : Elem) (h : b ≠ a) : (s.setElem a e).elem b = s.elem b := by
  simp [elem, setElem, Table.get_put_other _ _ _ h]

@[simp] theorem elem_modElem_same (s : State) (a : Nat) (f : Elem → Elem) : (s.modElem a f).elem a = f (s.elem a) := by simp [modElem]

theorem elem_modElem_other (s : State) {a b : Nat} (f : Elem → Elem) (h : b ≠ a) : (s.modElem a f).elem b = s.elem b := by
  simp [modElem, elem_setElem_other s _ h]

@[simp] theorem clus_setClus_same (s : State) (c : Nat) (x : Cluster) : (s.setClus c x).clus c = x := by simp [clus, setClus]

theorem clus_setClus_other (s : State) {c d : Nat} (x : Cluster) (h : d ≠ c) : (s.setClus c x).clus d = s.clus d := by
  simp [clus, setClus, Table.get_put_other _ _ _ h]

@[simp] theorem clus_modClus_same (s : State) (c : Nat) (f : Cluster → Cluster) : (s.modClus c f).clus c = f (s.clus c) := by simp [modClus]

theorem clus_modClus_other (s : State) {c d : Nat} (f : Cluster → Cluster) (h : d ≠ c) : (s.modClus c f).clus d = s.clus d := by
  simp [modClus, clus_setClus_other s _ h]

@[simp] theorem part_modPart_same (s : State) (p : Nat) (f : Part → Part) : (s.modPart p f).part p = f (s.part p) := by simp [part, modPart]

theorem part_modPart_other (s : State) {p q : Nat} (f : Part → Part) (h : q ≠ p) : (s.modPart p f).part q = s.part q := by
  simp [part, modPart, Table.get_put_other _ _ _ h]

@[simp] theorem fn_modFn_same (s : State) (n : Nat) (f : Fn → Fn) : (s.modFn n f).fn n = f (s.fn n) := by simp [fn, modFn]

theorem fn_modFn_other (s : State) {n m : Nat} (f : Fn → Fn) (h : m ≠ n) : (s.modFn n f).fn m = s.fn m := by
  simp [fn, modFn, Table.get_put_other _ _ _ h]

@[simp] theorem region_modRegion_same (s : State) (p j : Nat) (f : Region → Region) : (s.modRegion p j f).region p j = f (s.region p j) := by
  simp [region, modRegion]

-- Fields that an update leaves alone ----------------------------------------------------------------------------------------------

@[simp] theorem cycle_setElem (s : State) (a : Nat) (e : Elem) : (s.setElem a e).cycle = s.cycle := rfl
@[simp] theorem t7_setElem (s : State) (a : Nat) (e : Elem) : (s.setElem a e).t7 = s.t7 := rfl
@[simp] theorem agenda_setElem (s : State) (a : Nat) (e : Elem) : (s.setElem a e).agenda = s.agenda := rfl
@[simp] theorem free_setElem (s : State) (a : Nat) (e : Elem) : (s.setElem a e).free = s.free := rfl
@[simp] theorem hurt_setElem (s : State) (a : Nat) (e : Elem) : (s.setElem a e).hurt = s.hurt := rfl
@[simp] theorem cur_setElem (s : State) (a : Nat) (e : Elem) : (s.setElem a e).cur = s.cur := rfl
@[simp] theorem clusters_setElem (s : State) (a : Nat) (e : Elem) : (s.setElem a e).clusters = s.clusters := rfl
@[simp] theorem slices_setElem (s : State) (a : Nat) (e : Elem) : (s.setElem a e).slices = s.slices := rfl
@[simp] theorem pools_setElem (s : State) (a : Nat) (e : Elem) : (s.setElem a e).pools = s.pools := rfl
@[simp] theorem quads_setElem (s : State) (a : Nat) (e : Elem) : (s.setElem a e).quads = s.quads := rfl
@[simp] theorem net_setElem (s : State) (a : Nat) (e : Elem) : (s.setElem a e).net = s.net := rfl
@[simp] theorem hops_setElem (s : State) (a : Nat) (e : Elem) : (s.setElem a e).hops = s.hops := rfl
@[simp] theorem drr_setElem (s : State) (a : Nat) (e : Elem) : (s.setElem a e).drr = s.drr := rfl
@[simp] theorem egress_setElem (s : State) (a : Nat) (e : Elem) : (s.setElem a e).egress = s.egress := rfl
@[simp] theorem crossbars_setElem (s : State) (a : Nat) (e : Elem) : (s.setElem a e).crossbars = s.crossbars := rfl
@[simp] theorem phys_setElem (s : State) (a : Nat) (e : Elem) : (s.setElem a e).phys = s.phys := rfl
@[simp] theorem host_setElem (s : State) (a : Nat) (e : Elem) : (s.setElem a e).host = s.host := rfl
@[simp] theorem poison_setElem (s : State) (a : Nat) (e : Elem) : (s.setElem a e).poison = s.poison := rfl
@[simp] theorem hostBad_setElem (s : State) (a : Nat) (e : Elem) : (s.setElem a e).hostBad = s.hostBad := rfl
@[simp] theorem hostq_setElem (s : State) (a : Nat) (e : Elem) : (s.setElem a e).hostq = s.hostq := rfl
@[simp] theorem msix_setElem (s : State) (a : Nat) (e : Elem) : (s.setElem a e).msix = s.msix := rfl
@[simp] theorem parts_setElem (s : State) (a : Nat) (e : Elem) : (s.setElem a e).parts = s.parts := rfl
@[simp] theorem fns_setElem (s : State) (a : Nat) (e : Elem) : (s.setElem a e).fns = s.fns := rfl
@[simp] theorem regions_setElem (s : State) (a : Nat) (e : Elem) : (s.setElem a e).regions = s.regions := rfl
@[simp] theorem pkts_setElem (s : State) (a : Nat) (e : Elem) : (s.setElem a e).pkts = s.pkts := rfl
@[simp] theorem pidNext_setElem (s : State) (a : Nat) (e : Elem) : (s.setElem a e).pidNext = s.pidNext := rfl
@[simp] theorem parents_setElem (s : State) (a : Nat) (e : Elem) : (s.setElem a e).parents = s.parents := rfl
@[simp] theorem cores_setElem (s : State) (a : Nat) (e : Elem) : (s.setElem a e).cores = s.cores := rfl
@[simp] theorem ports_setElem (s : State) (a : Nat) (e : Elem) : (s.setElem a e).ports = s.ports := rfl
@[simp] theorem rosOut_setElem (s : State) (a : Nat) (e : Elem) : (s.setElem a e).rosOut = s.rosOut := rfl
@[simp] theorem sent_setElem (s : State) (a : Nat) (e : Elem) : (s.setElem a e).sent = s.sent := rfl
@[simp] theorem rx_setElem (s : State) (a : Nat) (e : Elem) : (s.setElem a e).rx = s.rx := rfl
@[simp] theorem mids_setElem (s : State) (a : Nat) (e : Elem) : (s.setElem a e).mids = s.mids := rfl
@[simp] theorem rxNext_setElem (s : State) (a : Nat) (e : Elem) : (s.setElem a e).rxNext = s.rxNext := rfl
@[simp] theorem disp_setElem (s : State) (a : Nat) (e : Elem) : (s.setElem a e).disp = s.disp := rfl
@[simp] theorem coll_setElem (s : State) (a : Nat) (e : Elem) : (s.setElem a e).coll = s.coll := rfl
@[simp] theorem collIssued_setElem (s : State) (a : Nat) (e : Elem) : (s.setElem a e).collIssued = s.collIssued := rfl
@[simp] theorem collEarly_setElem (s : State) (a : Nat) (e : Elem) : (s.setElem a e).collEarly = s.collEarly := rfl
@[simp] theorem images_setElem (s : State) (a : Nat) (e : Elem) : (s.setElem a e).images = s.images := rfl
@[simp] theorem dev_setElem (s : State) (a : Nat) (e : Elem) : (s.setElem a e).dev = s.dev := rfl

@[simp] theorem cycle_modElem (s : State) (a : Nat) (f : Elem → Elem) : (s.modElem a f).cycle = s.cycle := rfl
@[simp] theorem t7_modElem (s : State) (a : Nat) (f : Elem → Elem) : (s.modElem a f).t7 = s.t7 := rfl
@[simp] theorem agenda_modElem (s : State) (a : Nat) (f : Elem → Elem) : (s.modElem a f).agenda = s.agenda := rfl
@[simp] theorem free_modElem (s : State) (a : Nat) (f : Elem → Elem) : (s.modElem a f).free = s.free := rfl
@[simp] theorem hurt_modElem (s : State) (a : Nat) (f : Elem → Elem) : (s.modElem a f).hurt = s.hurt := rfl
@[simp] theorem cur_modElem (s : State) (a : Nat) (f : Elem → Elem) : (s.modElem a f).cur = s.cur := rfl
@[simp] theorem clusters_modElem (s : State) (a : Nat) (f : Elem → Elem) : (s.modElem a f).clusters = s.clusters := rfl
@[simp] theorem slices_modElem (s : State) (a : Nat) (f : Elem → Elem) : (s.modElem a f).slices = s.slices := rfl
@[simp] theorem pools_modElem (s : State) (a : Nat) (f : Elem → Elem) : (s.modElem a f).pools = s.pools := rfl
@[simp] theorem quads_modElem (s : State) (a : Nat) (f : Elem → Elem) : (s.modElem a f).quads = s.quads := rfl
@[simp] theorem net_modElem (s : State) (a : Nat) (f : Elem → Elem) : (s.modElem a f).net = s.net := rfl
@[simp] theorem hops_modElem (s : State) (a : Nat) (f : Elem → Elem) : (s.modElem a f).hops = s.hops := rfl
@[simp] theorem drr_modElem (s : State) (a : Nat) (f : Elem → Elem) : (s.modElem a f).drr = s.drr := rfl
@[simp] theorem egress_modElem (s : State) (a : Nat) (f : Elem → Elem) : (s.modElem a f).egress = s.egress := rfl
@[simp] theorem crossbars_modElem (s : State) (a : Nat) (f : Elem → Elem) : (s.modElem a f).crossbars = s.crossbars := rfl
@[simp] theorem phys_modElem (s : State) (a : Nat) (f : Elem → Elem) : (s.modElem a f).phys = s.phys := rfl
@[simp] theorem host_modElem (s : State) (a : Nat) (f : Elem → Elem) : (s.modElem a f).host = s.host := rfl
@[simp] theorem poison_modElem (s : State) (a : Nat) (f : Elem → Elem) : (s.modElem a f).poison = s.poison := rfl
@[simp] theorem hostBad_modElem (s : State) (a : Nat) (f : Elem → Elem) : (s.modElem a f).hostBad = s.hostBad := rfl
@[simp] theorem hostq_modElem (s : State) (a : Nat) (f : Elem → Elem) : (s.modElem a f).hostq = s.hostq := rfl
@[simp] theorem msix_modElem (s : State) (a : Nat) (f : Elem → Elem) : (s.modElem a f).msix = s.msix := rfl
@[simp] theorem parts_modElem (s : State) (a : Nat) (f : Elem → Elem) : (s.modElem a f).parts = s.parts := rfl
@[simp] theorem fns_modElem (s : State) (a : Nat) (f : Elem → Elem) : (s.modElem a f).fns = s.fns := rfl
@[simp] theorem regions_modElem (s : State) (a : Nat) (f : Elem → Elem) : (s.modElem a f).regions = s.regions := rfl
@[simp] theorem pkts_modElem (s : State) (a : Nat) (f : Elem → Elem) : (s.modElem a f).pkts = s.pkts := rfl
@[simp] theorem pidNext_modElem (s : State) (a : Nat) (f : Elem → Elem) : (s.modElem a f).pidNext = s.pidNext := rfl
@[simp] theorem parents_modElem (s : State) (a : Nat) (f : Elem → Elem) : (s.modElem a f).parents = s.parents := rfl
@[simp] theorem cores_modElem (s : State) (a : Nat) (f : Elem → Elem) : (s.modElem a f).cores = s.cores := rfl
@[simp] theorem ports_modElem (s : State) (a : Nat) (f : Elem → Elem) : (s.modElem a f).ports = s.ports := rfl
@[simp] theorem rosOut_modElem (s : State) (a : Nat) (f : Elem → Elem) : (s.modElem a f).rosOut = s.rosOut := rfl
@[simp] theorem sent_modElem (s : State) (a : Nat) (f : Elem → Elem) : (s.modElem a f).sent = s.sent := rfl
@[simp] theorem rx_modElem (s : State) (a : Nat) (f : Elem → Elem) : (s.modElem a f).rx = s.rx := rfl
@[simp] theorem mids_modElem (s : State) (a : Nat) (f : Elem → Elem) : (s.modElem a f).mids = s.mids := rfl
@[simp] theorem rxNext_modElem (s : State) (a : Nat) (f : Elem → Elem) : (s.modElem a f).rxNext = s.rxNext := rfl
@[simp] theorem disp_modElem (s : State) (a : Nat) (f : Elem → Elem) : (s.modElem a f).disp = s.disp := rfl
@[simp] theorem coll_modElem (s : State) (a : Nat) (f : Elem → Elem) : (s.modElem a f).coll = s.coll := rfl
@[simp] theorem collIssued_modElem (s : State) (a : Nat) (f : Elem → Elem) : (s.modElem a f).collIssued = s.collIssued := rfl
@[simp] theorem collEarly_modElem (s : State) (a : Nat) (f : Elem → Elem) : (s.modElem a f).collEarly = s.collEarly := rfl
@[simp] theorem images_modElem (s : State) (a : Nat) (f : Elem → Elem) : (s.modElem a f).images = s.images := rfl
@[simp] theorem dev_modElem (s : State) (a : Nat) (f : Elem → Elem) : (s.modElem a f).dev = s.dev := rfl

@[simp] theorem cycle_setClus (s : State) (c : Nat) (x : Cluster) : (s.setClus c x).cycle = s.cycle := rfl
@[simp] theorem t7_setClus (s : State) (c : Nat) (x : Cluster) : (s.setClus c x).t7 = s.t7 := rfl
@[simp] theorem agenda_setClus (s : State) (c : Nat) (x : Cluster) : (s.setClus c x).agenda = s.agenda := rfl
@[simp] theorem free_setClus (s : State) (c : Nat) (x : Cluster) : (s.setClus c x).free = s.free := rfl
@[simp] theorem hurt_setClus (s : State) (c : Nat) (x : Cluster) : (s.setClus c x).hurt = s.hurt := rfl
@[simp] theorem cur_setClus (s : State) (c : Nat) (x : Cluster) : (s.setClus c x).cur = s.cur := rfl
@[simp] theorem elems_setClus (s : State) (c : Nat) (x : Cluster) : (s.setClus c x).elems = s.elems := rfl
@[simp] theorem slices_setClus (s : State) (c : Nat) (x : Cluster) : (s.setClus c x).slices = s.slices := rfl
@[simp] theorem pools_setClus (s : State) (c : Nat) (x : Cluster) : (s.setClus c x).pools = s.pools := rfl
@[simp] theorem quads_setClus (s : State) (c : Nat) (x : Cluster) : (s.setClus c x).quads = s.quads := rfl
@[simp] theorem net_setClus (s : State) (c : Nat) (x : Cluster) : (s.setClus c x).net = s.net := rfl
@[simp] theorem hops_setClus (s : State) (c : Nat) (x : Cluster) : (s.setClus c x).hops = s.hops := rfl
@[simp] theorem drr_setClus (s : State) (c : Nat) (x : Cluster) : (s.setClus c x).drr = s.drr := rfl
@[simp] theorem egress_setClus (s : State) (c : Nat) (x : Cluster) : (s.setClus c x).egress = s.egress := rfl
@[simp] theorem crossbars_setClus (s : State) (c : Nat) (x : Cluster) : (s.setClus c x).crossbars = s.crossbars := rfl
@[simp] theorem phys_setClus (s : State) (c : Nat) (x : Cluster) : (s.setClus c x).phys = s.phys := rfl
@[simp] theorem host_setClus (s : State) (c : Nat) (x : Cluster) : (s.setClus c x).host = s.host := rfl
@[simp] theorem poison_setClus (s : State) (c : Nat) (x : Cluster) : (s.setClus c x).poison = s.poison := rfl
@[simp] theorem hostBad_setClus (s : State) (c : Nat) (x : Cluster) : (s.setClus c x).hostBad = s.hostBad := rfl
@[simp] theorem hostq_setClus (s : State) (c : Nat) (x : Cluster) : (s.setClus c x).hostq = s.hostq := rfl
@[simp] theorem msix_setClus (s : State) (c : Nat) (x : Cluster) : (s.setClus c x).msix = s.msix := rfl
@[simp] theorem parts_setClus (s : State) (c : Nat) (x : Cluster) : (s.setClus c x).parts = s.parts := rfl
@[simp] theorem fns_setClus (s : State) (c : Nat) (x : Cluster) : (s.setClus c x).fns = s.fns := rfl
@[simp] theorem regions_setClus (s : State) (c : Nat) (x : Cluster) : (s.setClus c x).regions = s.regions := rfl
@[simp] theorem pkts_setClus (s : State) (c : Nat) (x : Cluster) : (s.setClus c x).pkts = s.pkts := rfl
@[simp] theorem pidNext_setClus (s : State) (c : Nat) (x : Cluster) : (s.setClus c x).pidNext = s.pidNext := rfl
@[simp] theorem parents_setClus (s : State) (c : Nat) (x : Cluster) : (s.setClus c x).parents = s.parents := rfl
@[simp] theorem cores_setClus (s : State) (c : Nat) (x : Cluster) : (s.setClus c x).cores = s.cores := rfl
@[simp] theorem ports_setClus (s : State) (c : Nat) (x : Cluster) : (s.setClus c x).ports = s.ports := rfl
@[simp] theorem rosOut_setClus (s : State) (c : Nat) (x : Cluster) : (s.setClus c x).rosOut = s.rosOut := rfl
@[simp] theorem sent_setClus (s : State) (c : Nat) (x : Cluster) : (s.setClus c x).sent = s.sent := rfl
@[simp] theorem rx_setClus (s : State) (c : Nat) (x : Cluster) : (s.setClus c x).rx = s.rx := rfl
@[simp] theorem mids_setClus (s : State) (c : Nat) (x : Cluster) : (s.setClus c x).mids = s.mids := rfl
@[simp] theorem rxNext_setClus (s : State) (c : Nat) (x : Cluster) : (s.setClus c x).rxNext = s.rxNext := rfl
@[simp] theorem disp_setClus (s : State) (c : Nat) (x : Cluster) : (s.setClus c x).disp = s.disp := rfl
@[simp] theorem coll_setClus (s : State) (c : Nat) (x : Cluster) : (s.setClus c x).coll = s.coll := rfl
@[simp] theorem collIssued_setClus (s : State) (c : Nat) (x : Cluster) : (s.setClus c x).collIssued = s.collIssued := rfl
@[simp] theorem collEarly_setClus (s : State) (c : Nat) (x : Cluster) : (s.setClus c x).collEarly = s.collEarly := rfl
@[simp] theorem images_setClus (s : State) (c : Nat) (x : Cluster) : (s.setClus c x).images = s.images := rfl
@[simp] theorem dev_setClus (s : State) (c : Nat) (x : Cluster) : (s.setClus c x).dev = s.dev := rfl

@[simp] theorem cycle_modClus (s : State) (c : Nat) (f : Cluster → Cluster) : (s.modClus c f).cycle = s.cycle := rfl
@[simp] theorem t7_modClus (s : State) (c : Nat) (f : Cluster → Cluster) : (s.modClus c f).t7 = s.t7 := rfl
@[simp] theorem agenda_modClus (s : State) (c : Nat) (f : Cluster → Cluster) : (s.modClus c f).agenda = s.agenda := rfl
@[simp] theorem free_modClus (s : State) (c : Nat) (f : Cluster → Cluster) : (s.modClus c f).free = s.free := rfl
@[simp] theorem hurt_modClus (s : State) (c : Nat) (f : Cluster → Cluster) : (s.modClus c f).hurt = s.hurt := rfl
@[simp] theorem cur_modClus (s : State) (c : Nat) (f : Cluster → Cluster) : (s.modClus c f).cur = s.cur := rfl
@[simp] theorem elems_modClus (s : State) (c : Nat) (f : Cluster → Cluster) : (s.modClus c f).elems = s.elems := rfl
@[simp] theorem slices_modClus (s : State) (c : Nat) (f : Cluster → Cluster) : (s.modClus c f).slices = s.slices := rfl
@[simp] theorem pools_modClus (s : State) (c : Nat) (f : Cluster → Cluster) : (s.modClus c f).pools = s.pools := rfl
@[simp] theorem quads_modClus (s : State) (c : Nat) (f : Cluster → Cluster) : (s.modClus c f).quads = s.quads := rfl
@[simp] theorem net_modClus (s : State) (c : Nat) (f : Cluster → Cluster) : (s.modClus c f).net = s.net := rfl
@[simp] theorem hops_modClus (s : State) (c : Nat) (f : Cluster → Cluster) : (s.modClus c f).hops = s.hops := rfl
@[simp] theorem drr_modClus (s : State) (c : Nat) (f : Cluster → Cluster) : (s.modClus c f).drr = s.drr := rfl
@[simp] theorem egress_modClus (s : State) (c : Nat) (f : Cluster → Cluster) : (s.modClus c f).egress = s.egress := rfl
@[simp] theorem crossbars_modClus (s : State) (c : Nat) (f : Cluster → Cluster) : (s.modClus c f).crossbars = s.crossbars := rfl
@[simp] theorem phys_modClus (s : State) (c : Nat) (f : Cluster → Cluster) : (s.modClus c f).phys = s.phys := rfl
@[simp] theorem host_modClus (s : State) (c : Nat) (f : Cluster → Cluster) : (s.modClus c f).host = s.host := rfl
@[simp] theorem poison_modClus (s : State) (c : Nat) (f : Cluster → Cluster) : (s.modClus c f).poison = s.poison := rfl
@[simp] theorem hostBad_modClus (s : State) (c : Nat) (f : Cluster → Cluster) : (s.modClus c f).hostBad = s.hostBad := rfl
@[simp] theorem hostq_modClus (s : State) (c : Nat) (f : Cluster → Cluster) : (s.modClus c f).hostq = s.hostq := rfl
@[simp] theorem msix_modClus (s : State) (c : Nat) (f : Cluster → Cluster) : (s.modClus c f).msix = s.msix := rfl
@[simp] theorem parts_modClus (s : State) (c : Nat) (f : Cluster → Cluster) : (s.modClus c f).parts = s.parts := rfl
@[simp] theorem fns_modClus (s : State) (c : Nat) (f : Cluster → Cluster) : (s.modClus c f).fns = s.fns := rfl
@[simp] theorem regions_modClus (s : State) (c : Nat) (f : Cluster → Cluster) : (s.modClus c f).regions = s.regions := rfl
@[simp] theorem pkts_modClus (s : State) (c : Nat) (f : Cluster → Cluster) : (s.modClus c f).pkts = s.pkts := rfl
@[simp] theorem pidNext_modClus (s : State) (c : Nat) (f : Cluster → Cluster) : (s.modClus c f).pidNext = s.pidNext := rfl
@[simp] theorem parents_modClus (s : State) (c : Nat) (f : Cluster → Cluster) : (s.modClus c f).parents = s.parents := rfl
@[simp] theorem cores_modClus (s : State) (c : Nat) (f : Cluster → Cluster) : (s.modClus c f).cores = s.cores := rfl
@[simp] theorem ports_modClus (s : State) (c : Nat) (f : Cluster → Cluster) : (s.modClus c f).ports = s.ports := rfl
@[simp] theorem rosOut_modClus (s : State) (c : Nat) (f : Cluster → Cluster) : (s.modClus c f).rosOut = s.rosOut := rfl
@[simp] theorem sent_modClus (s : State) (c : Nat) (f : Cluster → Cluster) : (s.modClus c f).sent = s.sent := rfl
@[simp] theorem rx_modClus (s : State) (c : Nat) (f : Cluster → Cluster) : (s.modClus c f).rx = s.rx := rfl
@[simp] theorem mids_modClus (s : State) (c : Nat) (f : Cluster → Cluster) : (s.modClus c f).mids = s.mids := rfl
@[simp] theorem rxNext_modClus (s : State) (c : Nat) (f : Cluster → Cluster) : (s.modClus c f).rxNext = s.rxNext := rfl
@[simp] theorem disp_modClus (s : State) (c : Nat) (f : Cluster → Cluster) : (s.modClus c f).disp = s.disp := rfl
@[simp] theorem coll_modClus (s : State) (c : Nat) (f : Cluster → Cluster) : (s.modClus c f).coll = s.coll := rfl
@[simp] theorem collIssued_modClus (s : State) (c : Nat) (f : Cluster → Cluster) : (s.modClus c f).collIssued = s.collIssued := rfl
@[simp] theorem collEarly_modClus (s : State) (c : Nat) (f : Cluster → Cluster) : (s.modClus c f).collEarly = s.collEarly := rfl
@[simp] theorem images_modClus (s : State) (c : Nat) (f : Cluster → Cluster) : (s.modClus c f).images = s.images := rfl
@[simp] theorem dev_modClus (s : State) (c : Nat) (f : Cluster → Cluster) : (s.modClus c f).dev = s.dev := rfl

@[simp] theorem cycle_modPart (s : State) (p : Nat) (f : Part → Part) : (s.modPart p f).cycle = s.cycle := rfl
@[simp] theorem t7_modPart (s : State) (p : Nat) (f : Part → Part) : (s.modPart p f).t7 = s.t7 := rfl
@[simp] theorem agenda_modPart (s : State) (p : Nat) (f : Part → Part) : (s.modPart p f).agenda = s.agenda := rfl
@[simp] theorem free_modPart (s : State) (p : Nat) (f : Part → Part) : (s.modPart p f).free = s.free := rfl
@[simp] theorem hurt_modPart (s : State) (p : Nat) (f : Part → Part) : (s.modPart p f).hurt = s.hurt := rfl
@[simp] theorem cur_modPart (s : State) (p : Nat) (f : Part → Part) : (s.modPart p f).cur = s.cur := rfl
@[simp] theorem elems_modPart (s : State) (p : Nat) (f : Part → Part) : (s.modPart p f).elems = s.elems := rfl
@[simp] theorem clusters_modPart (s : State) (p : Nat) (f : Part → Part) : (s.modPart p f).clusters = s.clusters := rfl
@[simp] theorem slices_modPart (s : State) (p : Nat) (f : Part → Part) : (s.modPart p f).slices = s.slices := rfl
@[simp] theorem pools_modPart (s : State) (p : Nat) (f : Part → Part) : (s.modPart p f).pools = s.pools := rfl
@[simp] theorem quads_modPart (s : State) (p : Nat) (f : Part → Part) : (s.modPart p f).quads = s.quads := rfl
@[simp] theorem net_modPart (s : State) (p : Nat) (f : Part → Part) : (s.modPart p f).net = s.net := rfl
@[simp] theorem hops_modPart (s : State) (p : Nat) (f : Part → Part) : (s.modPart p f).hops = s.hops := rfl
@[simp] theorem drr_modPart (s : State) (p : Nat) (f : Part → Part) : (s.modPart p f).drr = s.drr := rfl
@[simp] theorem egress_modPart (s : State) (p : Nat) (f : Part → Part) : (s.modPart p f).egress = s.egress := rfl
@[simp] theorem crossbars_modPart (s : State) (p : Nat) (f : Part → Part) : (s.modPart p f).crossbars = s.crossbars := rfl
@[simp] theorem phys_modPart (s : State) (p : Nat) (f : Part → Part) : (s.modPart p f).phys = s.phys := rfl
@[simp] theorem host_modPart (s : State) (p : Nat) (f : Part → Part) : (s.modPart p f).host = s.host := rfl
@[simp] theorem poison_modPart (s : State) (p : Nat) (f : Part → Part) : (s.modPart p f).poison = s.poison := rfl
@[simp] theorem hostBad_modPart (s : State) (p : Nat) (f : Part → Part) : (s.modPart p f).hostBad = s.hostBad := rfl
@[simp] theorem hostq_modPart (s : State) (p : Nat) (f : Part → Part) : (s.modPart p f).hostq = s.hostq := rfl
@[simp] theorem msix_modPart (s : State) (p : Nat) (f : Part → Part) : (s.modPart p f).msix = s.msix := rfl
@[simp] theorem fns_modPart (s : State) (p : Nat) (f : Part → Part) : (s.modPart p f).fns = s.fns := rfl
@[simp] theorem regions_modPart (s : State) (p : Nat) (f : Part → Part) : (s.modPart p f).regions = s.regions := rfl
@[simp] theorem pkts_modPart (s : State) (p : Nat) (f : Part → Part) : (s.modPart p f).pkts = s.pkts := rfl
@[simp] theorem pidNext_modPart (s : State) (p : Nat) (f : Part → Part) : (s.modPart p f).pidNext = s.pidNext := rfl
@[simp] theorem parents_modPart (s : State) (p : Nat) (f : Part → Part) : (s.modPart p f).parents = s.parents := rfl
@[simp] theorem cores_modPart (s : State) (p : Nat) (f : Part → Part) : (s.modPart p f).cores = s.cores := rfl
@[simp] theorem ports_modPart (s : State) (p : Nat) (f : Part → Part) : (s.modPart p f).ports = s.ports := rfl
@[simp] theorem rosOut_modPart (s : State) (p : Nat) (f : Part → Part) : (s.modPart p f).rosOut = s.rosOut := rfl
@[simp] theorem sent_modPart (s : State) (p : Nat) (f : Part → Part) : (s.modPart p f).sent = s.sent := rfl
@[simp] theorem rx_modPart (s : State) (p : Nat) (f : Part → Part) : (s.modPart p f).rx = s.rx := rfl
@[simp] theorem mids_modPart (s : State) (p : Nat) (f : Part → Part) : (s.modPart p f).mids = s.mids := rfl
@[simp] theorem rxNext_modPart (s : State) (p : Nat) (f : Part → Part) : (s.modPart p f).rxNext = s.rxNext := rfl
@[simp] theorem disp_modPart (s : State) (p : Nat) (f : Part → Part) : (s.modPart p f).disp = s.disp := rfl
@[simp] theorem coll_modPart (s : State) (p : Nat) (f : Part → Part) : (s.modPart p f).coll = s.coll := rfl
@[simp] theorem collIssued_modPart (s : State) (p : Nat) (f : Part → Part) : (s.modPart p f).collIssued = s.collIssued := rfl
@[simp] theorem collEarly_modPart (s : State) (p : Nat) (f : Part → Part) : (s.modPart p f).collEarly = s.collEarly := rfl
@[simp] theorem images_modPart (s : State) (p : Nat) (f : Part → Part) : (s.modPart p f).images = s.images := rfl
@[simp] theorem dev_modPart (s : State) (p : Nat) (f : Part → Part) : (s.modPart p f).dev = s.dev := rfl

@[simp] theorem cycle_modFn (s : State) (n : Nat) (f : Fn → Fn) : (s.modFn n f).cycle = s.cycle := rfl
@[simp] theorem t7_modFn (s : State) (n : Nat) (f : Fn → Fn) : (s.modFn n f).t7 = s.t7 := rfl
@[simp] theorem agenda_modFn (s : State) (n : Nat) (f : Fn → Fn) : (s.modFn n f).agenda = s.agenda := rfl
@[simp] theorem free_modFn (s : State) (n : Nat) (f : Fn → Fn) : (s.modFn n f).free = s.free := rfl
@[simp] theorem hurt_modFn (s : State) (n : Nat) (f : Fn → Fn) : (s.modFn n f).hurt = s.hurt := rfl
@[simp] theorem cur_modFn (s : State) (n : Nat) (f : Fn → Fn) : (s.modFn n f).cur = s.cur := rfl
@[simp] theorem elems_modFn (s : State) (n : Nat) (f : Fn → Fn) : (s.modFn n f).elems = s.elems := rfl
@[simp] theorem clusters_modFn (s : State) (n : Nat) (f : Fn → Fn) : (s.modFn n f).clusters = s.clusters := rfl
@[simp] theorem slices_modFn (s : State) (n : Nat) (f : Fn → Fn) : (s.modFn n f).slices = s.slices := rfl
@[simp] theorem pools_modFn (s : State) (n : Nat) (f : Fn → Fn) : (s.modFn n f).pools = s.pools := rfl
@[simp] theorem quads_modFn (s : State) (n : Nat) (f : Fn → Fn) : (s.modFn n f).quads = s.quads := rfl
@[simp] theorem net_modFn (s : State) (n : Nat) (f : Fn → Fn) : (s.modFn n f).net = s.net := rfl
@[simp] theorem hops_modFn (s : State) (n : Nat) (f : Fn → Fn) : (s.modFn n f).hops = s.hops := rfl
@[simp] theorem drr_modFn (s : State) (n : Nat) (f : Fn → Fn) : (s.modFn n f).drr = s.drr := rfl
@[simp] theorem egress_modFn (s : State) (n : Nat) (f : Fn → Fn) : (s.modFn n f).egress = s.egress := rfl
@[simp] theorem crossbars_modFn (s : State) (n : Nat) (f : Fn → Fn) : (s.modFn n f).crossbars = s.crossbars := rfl
@[simp] theorem phys_modFn (s : State) (n : Nat) (f : Fn → Fn) : (s.modFn n f).phys = s.phys := rfl
@[simp] theorem host_modFn (s : State) (n : Nat) (f : Fn → Fn) : (s.modFn n f).host = s.host := rfl
@[simp] theorem poison_modFn (s : State) (n : Nat) (f : Fn → Fn) : (s.modFn n f).poison = s.poison := rfl
@[simp] theorem hostBad_modFn (s : State) (n : Nat) (f : Fn → Fn) : (s.modFn n f).hostBad = s.hostBad := rfl
@[simp] theorem hostq_modFn (s : State) (n : Nat) (f : Fn → Fn) : (s.modFn n f).hostq = s.hostq := rfl
@[simp] theorem msix_modFn (s : State) (n : Nat) (f : Fn → Fn) : (s.modFn n f).msix = s.msix := rfl
@[simp] theorem parts_modFn (s : State) (n : Nat) (f : Fn → Fn) : (s.modFn n f).parts = s.parts := rfl
@[simp] theorem regions_modFn (s : State) (n : Nat) (f : Fn → Fn) : (s.modFn n f).regions = s.regions := rfl
@[simp] theorem pkts_modFn (s : State) (n : Nat) (f : Fn → Fn) : (s.modFn n f).pkts = s.pkts := rfl
@[simp] theorem pidNext_modFn (s : State) (n : Nat) (f : Fn → Fn) : (s.modFn n f).pidNext = s.pidNext := rfl
@[simp] theorem parents_modFn (s : State) (n : Nat) (f : Fn → Fn) : (s.modFn n f).parents = s.parents := rfl
@[simp] theorem cores_modFn (s : State) (n : Nat) (f : Fn → Fn) : (s.modFn n f).cores = s.cores := rfl
@[simp] theorem ports_modFn (s : State) (n : Nat) (f : Fn → Fn) : (s.modFn n f).ports = s.ports := rfl
@[simp] theorem rosOut_modFn (s : State) (n : Nat) (f : Fn → Fn) : (s.modFn n f).rosOut = s.rosOut := rfl
@[simp] theorem sent_modFn (s : State) (n : Nat) (f : Fn → Fn) : (s.modFn n f).sent = s.sent := rfl
@[simp] theorem rx_modFn (s : State) (n : Nat) (f : Fn → Fn) : (s.modFn n f).rx = s.rx := rfl
@[simp] theorem mids_modFn (s : State) (n : Nat) (f : Fn → Fn) : (s.modFn n f).mids = s.mids := rfl
@[simp] theorem rxNext_modFn (s : State) (n : Nat) (f : Fn → Fn) : (s.modFn n f).rxNext = s.rxNext := rfl
@[simp] theorem disp_modFn (s : State) (n : Nat) (f : Fn → Fn) : (s.modFn n f).disp = s.disp := rfl
@[simp] theorem coll_modFn (s : State) (n : Nat) (f : Fn → Fn) : (s.modFn n f).coll = s.coll := rfl
@[simp] theorem collIssued_modFn (s : State) (n : Nat) (f : Fn → Fn) : (s.modFn n f).collIssued = s.collIssued := rfl
@[simp] theorem collEarly_modFn (s : State) (n : Nat) (f : Fn → Fn) : (s.modFn n f).collEarly = s.collEarly := rfl
@[simp] theorem images_modFn (s : State) (n : Nat) (f : Fn → Fn) : (s.modFn n f).images = s.images := rfl
@[simp] theorem dev_modFn (s : State) (n : Nat) (f : Fn → Fn) : (s.modFn n f).dev = s.dev := rfl

@[simp] theorem cycle_modRegion (s : State) (p j : Nat) (f : Region → Region) : (s.modRegion p j f).cycle = s.cycle := rfl
@[simp] theorem t7_modRegion (s : State) (p j : Nat) (f : Region → Region) : (s.modRegion p j f).t7 = s.t7 := rfl
@[simp] theorem agenda_modRegion (s : State) (p j : Nat) (f : Region → Region) : (s.modRegion p j f).agenda = s.agenda := rfl
@[simp] theorem free_modRegion (s : State) (p j : Nat) (f : Region → Region) : (s.modRegion p j f).free = s.free := rfl
@[simp] theorem hurt_modRegion (s : State) (p j : Nat) (f : Region → Region) : (s.modRegion p j f).hurt = s.hurt := rfl
@[simp] theorem cur_modRegion (s : State) (p j : Nat) (f : Region → Region) : (s.modRegion p j f).cur = s.cur := rfl
@[simp] theorem elems_modRegion (s : State) (p j : Nat) (f : Region → Region) : (s.modRegion p j f).elems = s.elems := rfl
@[simp] theorem clusters_modRegion (s : State) (p j : Nat) (f : Region → Region) : (s.modRegion p j f).clusters = s.clusters := rfl
@[simp] theorem slices_modRegion (s : State) (p j : Nat) (f : Region → Region) : (s.modRegion p j f).slices = s.slices := rfl
@[simp] theorem pools_modRegion (s : State) (p j : Nat) (f : Region → Region) : (s.modRegion p j f).pools = s.pools := rfl
@[simp] theorem quads_modRegion (s : State) (p j : Nat) (f : Region → Region) : (s.modRegion p j f).quads = s.quads := rfl
@[simp] theorem net_modRegion (s : State) (p j : Nat) (f : Region → Region) : (s.modRegion p j f).net = s.net := rfl
@[simp] theorem hops_modRegion (s : State) (p j : Nat) (f : Region → Region) : (s.modRegion p j f).hops = s.hops := rfl
@[simp] theorem drr_modRegion (s : State) (p j : Nat) (f : Region → Region) : (s.modRegion p j f).drr = s.drr := rfl
@[simp] theorem egress_modRegion (s : State) (p j : Nat) (f : Region → Region) : (s.modRegion p j f).egress = s.egress := rfl
@[simp] theorem crossbars_modRegion (s : State) (p j : Nat) (f : Region → Region) : (s.modRegion p j f).crossbars = s.crossbars := rfl
@[simp] theorem phys_modRegion (s : State) (p j : Nat) (f : Region → Region) : (s.modRegion p j f).phys = s.phys := rfl
@[simp] theorem host_modRegion (s : State) (p j : Nat) (f : Region → Region) : (s.modRegion p j f).host = s.host := rfl
@[simp] theorem poison_modRegion (s : State) (p j : Nat) (f : Region → Region) : (s.modRegion p j f).poison = s.poison := rfl
@[simp] theorem hostBad_modRegion (s : State) (p j : Nat) (f : Region → Region) : (s.modRegion p j f).hostBad = s.hostBad := rfl
@[simp] theorem hostq_modRegion (s : State) (p j : Nat) (f : Region → Region) : (s.modRegion p j f).hostq = s.hostq := rfl
@[simp] theorem msix_modRegion (s : State) (p j : Nat) (f : Region → Region) : (s.modRegion p j f).msix = s.msix := rfl
@[simp] theorem parts_modRegion (s : State) (p j : Nat) (f : Region → Region) : (s.modRegion p j f).parts = s.parts := rfl
@[simp] theorem fns_modRegion (s : State) (p j : Nat) (f : Region → Region) : (s.modRegion p j f).fns = s.fns := rfl
@[simp] theorem pkts_modRegion (s : State) (p j : Nat) (f : Region → Region) : (s.modRegion p j f).pkts = s.pkts := rfl
@[simp] theorem pidNext_modRegion (s : State) (p j : Nat) (f : Region → Region) : (s.modRegion p j f).pidNext = s.pidNext := rfl
@[simp] theorem parents_modRegion (s : State) (p j : Nat) (f : Region → Region) : (s.modRegion p j f).parents = s.parents := rfl
@[simp] theorem cores_modRegion (s : State) (p j : Nat) (f : Region → Region) : (s.modRegion p j f).cores = s.cores := rfl
@[simp] theorem ports_modRegion (s : State) (p j : Nat) (f : Region → Region) : (s.modRegion p j f).ports = s.ports := rfl
@[simp] theorem rosOut_modRegion (s : State) (p j : Nat) (f : Region → Region) : (s.modRegion p j f).rosOut = s.rosOut := rfl
@[simp] theorem sent_modRegion (s : State) (p j : Nat) (f : Region → Region) : (s.modRegion p j f).sent = s.sent := rfl
@[simp] theorem rx_modRegion (s : State) (p j : Nat) (f : Region → Region) : (s.modRegion p j f).rx = s.rx := rfl
@[simp] theorem mids_modRegion (s : State) (p j : Nat) (f : Region → Region) : (s.modRegion p j f).mids = s.mids := rfl
@[simp] theorem rxNext_modRegion (s : State) (p j : Nat) (f : Region → Region) : (s.modRegion p j f).rxNext = s.rxNext := rfl
@[simp] theorem disp_modRegion (s : State) (p j : Nat) (f : Region → Region) : (s.modRegion p j f).disp = s.disp := rfl
@[simp] theorem coll_modRegion (s : State) (p j : Nat) (f : Region → Region) : (s.modRegion p j f).coll = s.coll := rfl
@[simp] theorem collIssued_modRegion (s : State) (p j : Nat) (f : Region → Region) : (s.modRegion p j f).collIssued = s.collIssued := rfl
@[simp] theorem collEarly_modRegion (s : State) (p j : Nat) (f : Region → Region) : (s.modRegion p j f).collEarly = s.collEarly := rfl
@[simp] theorem images_modRegion (s : State) (p j : Nat) (f : Region → Region) : (s.modRegion p j f).images = s.images := rfl
@[simp] theorem dev_modRegion (s : State) (p j : Nat) (f : Region → Region) : (s.modRegion p j f).dev = s.dev := rfl

end State

end Sys2Proof.Machine
end

