-- ==== Sys2Proof/Laws/Ops.lean ====
section
/-! SUPPORT. For each shared operation, once, everything it can do: running a word, gating it, taking a message, a request slot, an admin command, a packet at work. -/

namespace Sys2Proof.Machine

-- Words ------------------------------------------------------------------------------------------------------------------------------------------

/-- A word that runs leaves the state of its effect with the activation at its next word, or takes the synchronous fault. -/
theorem runWord_of {s : State} {c : Cur} {act : Act} (f : State → Nat → Act → WRes) (hc : s.cur = some c) (ha : nth (s.elem c.elem).seqs c.seq none = some act) :
    runWord s f = match f s c.elem act with
      | .go t x => .next (t.putAct c.elem c.seq x)
      | .bad code => .next (s.syncFault c.elem c.seq act code)
      | .hurt t code => .next (t.syncFault c.elem c.seq act code) := by
  cases h : f s c.elem act <;> simp only [runWord, hc, ha, h]

/-- Everything that running a word can do: nothing runs without an activation; else its effect, or its fault. -/
theorem runWord_cases (s : State) (f : State → Nat → Act → WRes) :
    runWord s f = .fault .noActivation ∨ ∃ c act, s.cur = some c ∧ nth (s.elem c.elem).seqs c.seq none = some act ∧
      ((∃ t x, f s c.elem act = .go t x ∧ runWord s f = .next (t.putAct c.elem c.seq x)) ∨
        (∃ code, f s c.elem act = .bad code ∧ runWord s f = .next (s.syncFault c.elem c.seq act code)) ∨
        ∃ t code, f s c.elem act = .hurt t code ∧ runWord s f = .next (t.syncFault c.elem c.seq act code)) := by
  cases hc : s.cur with
  | none => exact .inl (by simp only [runWord, hc])
  | some c =>
    cases ha : nth (s.elem c.elem).seqs c.seq none with
    | none => exact .inl (by simp only [runWord, hc, ha])
    | some act =>
      refine .inr ⟨c, act, rfl, ha, ?_⟩
      rw [runWord_of f hc ha]
      cases hf : f s c.elem act with
      | go t x => exact .inl ⟨t, x, rfl, rfl⟩
      | bad code => exact .inr (.inl ⟨code, rfl, rfl⟩)
      | hurt t code => exact .inr (.inr ⟨t, code, rfl, rfl⟩)

/-- A word that an open section does not permit: nothing where lane 0 of its guard is false (R29), else SECTION_OP inside one and its effect outside. -/
theorem runBarred_of {s : State} {c : Cur} {act : Act} (pr : BitVec 2) (pn : Bool) (f : State → Nat → Act → WRes) (hc : s.cur = some c)
    (ha : nth (s.elem c.elem).seqs c.seq none = some act) :
    runBarred pr pn s f =
      if act.guard pr pn 0 then
        if (s.elem c.elem).inSection act.fh then .next (s.syncFault c.elem c.seq act 0x5E) else runWord s f
      else .next (s.putAct c.elem c.seq act) := by
  unfold runBarred
  rw [runWord_of _ hc ha, runWord_of f hc ha]
  cases hg : act.guard pr pn 0 <;> cases h : (s.elem c.elem).inSection act.fh <;> simp [gated, barred, hg, h]

/-- A word that only changes its activation. -/
theorem runPure_of {s : State} {c : Cur} {act : Act} (f : State → Nat → Act → Act) (hc : s.cur = some c) (ha : nth (s.elem c.elem).seqs c.seq none = some act) :
    runPure s f = .next (s.putAct c.elem c.seq (f s c.elem act)) := by
  unfold runPure
  rw [runWord_of _ hc ha]

theorem gated_true {pr : BitVec 2} {pn : Bool} {act : Act} (f : State → Nat → Act → WRes) (s : State) (a : Nat) (h : act.guard pr pn 0 = true) :
    gated pr pn f s a act = f s a act := by simp only [gated, h, if_true]

theorem gated_false {pr : BitVec 2} {pn : Bool} {act : Act} (f : State → Nat → Act → WRes) (s : State) (a : Nat) (h : act.guard pr pn 0 = false) :
    gated pr pn f s a act = .go s act := by simp [gated, h]

/-- A scalar word: its effect where lane 0 of its guard is true, else only the next word. -/
theorem scalar_of {s : State} {c : Cur} {act : Act} (o : OpA) (f : Act → Act) (hc : s.cur = some c) (ha : nth (s.elem c.elem).seqs c.seq none = some act) :
    scalar o s f = .next (s.putAct c.elem c.seq (if act.guard o.pr o.pn 0 then f act else act)) := by
  unfold scalar
  rw [runPure_of _ hc ha]

-- Temporaries ------------------------------------------------------------------------------------------------------------------------------------

theorem nth_map_range {α : Type} (n r : Nat) (f : Nat → α) (d : α) (h : r < n) : nth ((List.range n).map f) r d = f r := by
  simp [nth, h]

/-- A write to a temporary is read back lane by lane and leaves the others. -/
theorem temp_setTemp (a : Act) (k r : Fin 8) (ls : List Lane) (i : Nat) :
    (a.setTemp (.t k) ls).temp r.val i = if r = k then nth ls i Lane.zero else a.temp r.val i := by
  unfold Act.setTemp Act.temp
  simp only
  rw [nth_map_range 8 r.val _ _ r.isLt]
  by_cases h : r = k
  · simp [h]
  · have : r.val ≠ k.val := fun e => h (Fin.ext e)
    simp [h, this]

@[simp] theorem setTemp_aid (a : Act) (d : Sel) (ls : List Lane) : (a.setTemp d ls).aid = a.aid := by unfold Act.setTemp; split <;> rfl
@[simp] theorem setTemp_preds (a : Act) (d : Sel) (ls : List Lane) : (a.setTemp d ls).preds = a.preds := by unfold Act.setTemp; split <;> rfl
@[simp] theorem setTemp_xs (a : Act) (d : Sel) (ls : List Lane) : (a.setTemp d ls).xs = a.xs := by unfold Act.setTemp; split <;> rfl
@[simp] theorem setTemp_width (a : Act) (d : Sel) (ls : List Lane) : (a.setTemp d ls).width = a.width := by unfold Act.setTemp; split <;> rfl
@[simp] theorem setPred_aid (a : Act) (p : Nat) (bs : List Bool) : (a.setPred p bs).aid = a.aid := by unfold Act.setPred; split <;> rfl
@[simp] theorem setPred_temps (a : Act) (p : Nat) (bs : List Bool) : (a.setPred p bs).temps = a.temps := by unfold Act.setPred; split <;> rfl
@[simp] theorem setPred_width (a : Act) (p : Nat) (bs : List Bool) : (a.setPred p bs).width = a.width := by unfold Act.setPred; split <;> rfl

-- Messages ----------------------------------------------------------------------------------------------------------------------------------------

/-- Everything that an event on a message can do: what its meaning answers for the message taken off, or nothing. It never stops. -/
theorem onMsg_cases (s : State) (n : Nat) (f : State → Flight → Option State) :
    (∃ x t, s.arrived n = some x ∧ f (s.dropFlight n) x = some t ∧ onMsg s n f = .next t) ∨
      (onMsg s n f = .next s ∧ ∀ x, s.arrived n = some x → f (s.dropFlight n) x = none) := by
  cases h : s.arrived n with
  | none => exact .inr ⟨by simp only [onMsg, h], fun _ e => by cases e⟩
  | some x =>
    cases hf : f (s.dropFlight n) x with
    | some t => exact .inl ⟨x, t, rfl, hf, by simp only [onMsg, h, hf]⟩
    | none => exact .inr ⟨by simp only [onMsg, h, hf], fun _ e => by cases e; exact hf⟩

theorem onMsg_of {s : State} {n : Nat} {x : Flight} {t : State} (f : State → Flight → Option State) (h : s.arrived n = some x) (hf : f (s.dropFlight n) x = some t) :
    onMsg s n f = .next t := by simp only [onMsg, h, hf]

-- Request slots -----------------------------------------------------------------------------------------------------------------------------------

theorem slotRange_sorted (s : State) (a k : Nat) : (s.slotRange a k).Pairwise (· < ·) := by
  unfold State.slotRange
  split
  · split <;> decide
  · decide

theorem find_lowest {l : List Nat} {p : Nat → Bool} {j : Nat} (hs : l.Pairwise (· < ·)) (hj : j ∈ l) (hp : p j = true) (low : ∀ i ∈ l, i < j → p i = false) : l.find? p = some j := by
  induction l with
  | nil => cases hj
  | cons x r ih =>
    rw [List.pairwise_cons] at hs
    rcases List.mem_cons.1 hj with h | h
    · subst h; simp [hp]
    · have hx : x < j := hs.1 j h
      rw [List.find?_cons, low x (by simp) hx]
      exact ih hs.2 h fun i hi => low i (by simp [hi])

/-- A word takes the lowest free slot of its tenant where one is set aside for it or free for all, and gives up one set aside (R121). -/
theorem takeSlot_of {s : State} {a : Nat} {act : Act} {j : Nat} (r : Req) (h1 : act.reqSet ≠ 0 ∨ s.freeSlots a act.ctx ≠ 0) (h2 : j ∈ s.slotRange a act.ctx)
    (h3 : nth (s.elem a).reqs j none = none) (h4 : ∀ i ∈ s.slotRange a act.ctx, i < j → nth (s.elem a).reqs i none ≠ none) :
    s.takeSlot a act r = some (s.modElem a (fun e => { e with reqs := setAt e.reqs j (some r) }), { act with reqSet := act.reqSet - 1 }, j) := by
  have e : (s.slotRange a act.ctx).find? (fun j => (nth (s.elem a).reqs j none).isNone) = some j := by
    apply find_lowest (slotRange_sorted _ _ _) h2
    · simp [h3]
    · intro i hi hij
      have := h4 i hi hij
      revert this
      cases nth (s.elem a).reqs i none <;> simp
  unfold State.takeSlot
  rw [e]
  have : (act.reqSet = 0 && s.freeSlots a act.ctx = 0) = false := by
    rcases h1 with h | h <;> simp [h]
  simp [this]

-- Admin commands and packets --------------------------------------------------------------------------------------------------------------------------

/-- The device is asked for the command of a code with the words `w`, whose unlisted bits are zero and whose operands are in range, in a mode that serves it. -/
theorem adminRun_of {s : State} {code p : Nat} {w : List Nat} {masks : List Nat} {slotted : Bool} (ok : List Nat → Bool) (f : Nat → List Nat → State)
    (hb : s.dev.admin.busy = true) (hw : s.dev.admin.run.map BitVec.toNat = w) (h0 : nth w 0 0 = code + 256 * p) (hc : code < 256) (hp : p < 128) (hs : slotted = true ∨ p = 0)
    (hm : s.dev.mode = .service ∨ s.dev.mode = .seedling) (hcl : wordsClean w masks = true) (hok : ok w = true) :
    adminRun s code slotted masks ok f = .next (f p w) := by
  have e1 : (code + 256 * p) % 256 = code := by omega
  have e2 : (code + 256 * p) / 2 ^ 15 = 0 := by omega
  have e3 : p % 128 = p := by omega
  have e4 : (code + 256 * p) / 256 = p := by omega
  have m : (s.dev.mode == .service || s.dev.mode == .seedling) = true := by rcases hm with h | h <;> simp [h]
  unfold adminRun
  simp only [hw, h0, hb, e1, e2, e4, e3, hcl, hok, m]
  rcases hs with h | h <;> simp [h]

/-- Everything that a command can do: nothing where it is not the one in progress; BAD_ADMIN, BAD_STATE, or what it says. It never stops. -/
theorem adminRun_cases (s : State) (code : Nat) (slotted : Bool) (masks : List Nat) (ok : List Nat → Bool) (f : Nat → List Nat → State) :
    adminRun s code slotted masks ok f = .next s ∨ adminRun s code slotted masks ok f = .next (s.adminDone 0x91 0) ∨ adminRun s code slotted masks ok f = .next (s.adminDone 0x93 0) ∨
      adminRun s code slotted masks ok f = .next (f (nth (s.dev.admin.run.map BitVec.toNat) 0 0 / 256 % 128) (s.dev.admin.run.map BitVec.toNat)) := by
  unfold adminRun
  simp only
  split
  · exact .inl rfl
  · split
    · exact .inr (.inl rfl)
    · split
      · exact .inr (.inr (.inl rfl))
      · exact .inr (.inr (.inr rfl))

/-- A packet is at work exactly if it is in the table with its type, its work not over and its partition not frozen. -/
theorem working_eq_some (s : State) (pid type : Nat) (x : Pkt) :
    s.working pid type = some x ↔ s.pkts.find? pid = some x ∧ x.type = type ∧ x.done = false ∧ (s.part x.slot).frozen = false := by
  unfold State.working
  cases h : s.pkts.find? pid with
  | none => simp
  | some y =>
    constructor
    · intro e
      simp only at e
      split at e
      · rename_i g
        cases e
        simpa [and_assoc] using g
      · cases e
    · rintro ⟨e, h1, h2, h3⟩
      cases e
      simp [h1, h2, h3]

end Sys2Proof.Machine
end

