-- ==== Sys2Proof/Laws/PerInstr.lean ====
section
/-! SUPPORT. A family of statements about instructions as syntax, one lemma per constructor. -/

namespace Sys2Proof.Laws.Coded

open Sys2Proof

/-- An instruction has a word exactly if it stands in a node store (R17): the other rows of the table are steps that no word encodes. -/
def Statement (i : Instr) : Prop := (encode i).isSome = i.isWord

theorem seq : ∀ x0, Statement (.seq x0) := fun _ => rfl
theorem steer : ∀ x0, Statement (.steer x0) := fun _ => rfl
theorem merge : ∀ x0, Statement (.merge x0) := fun _ => rfl
theorem gate : ∀ x0, Statement (.gate x0) := fun _ => rfl
theorem loop : ∀ x0, Statement (.loop x0) := fun _ => rfl
theorem next : ∀ x0, Statement (.next x0) := fun _ => rfl
theorem exit : ∀ x0, Statement (.exit x0) := fun _ => rfl
theorem call : ∀ x0, Statement (.call x0) := fun _ => rfl
theorem retn : ∀ x0, Statement (.retn x0) := fun _ => rfl
theorem join : ∀ x0, Statement (.join x0) := fun _ => rfl
theorem sink : ∀ x0, Statement (.sink x0) := fun _ => rfl
theorem const : ∀ x0, Statement (.const x0) := fun _ => rfl
theorem prune : ∀ x0, Statement (.prune x0) := fun _ => rfl
theorem add : ∀ x0, Statement (.add x0) := fun _ => rfl
theorem sub : ∀ x0, Statement (.sub x0) := fun _ => rfl
theorem mul : ∀ x0, Statement (.mul x0) := fun _ => rfl
theorem mulh : ∀ x0, Statement (.mulh x0) := fun _ => rfl
theorem div : ∀ x0, Statement (.div x0) := fun _ => rfl
theorem rem : ∀ x0, Statement (.rem x0) := fun _ => rfl
theorem min : ∀ x0, Statement (.min x0) := fun _ => rfl
theorem max : ∀ x0, Statement (.max x0) := fun _ => rfl
theorem and : ∀ x0, Statement (.and x0) := fun _ => rfl
theorem or : ∀ x0, Statement (.or x0) := fun _ => rfl
theorem xor : ∀ x0, Statement (.xor x0) := fun _ => rfl
theorem andn : ∀ x0, Statement (.andn x0) := fun _ => rfl
theorem shl : ∀ x0, Statement (.shl x0) := fun _ => rfl
theorem shr : ∀ x0, Statement (.shr x0) := fun _ => rfl
theorem sar : ∀ x0, Statement (.sar x0) := fun _ => rfl
theorem rot : ∀ x0, Statement (.rot x0) := fun _ => rfl
theorem clz : ∀ x0, Statement (.clz x0) := fun _ => rfl
theorem popc : ∀ x0, Statement (.popc x0) := fun _ => rfl
theorem bext : ∀ x0, Statement (.bext x0) := fun _ => rfl
theorem bins : ∀ x0, Statement (.bins x0) := fun _ => rfl
theorem sel : ∀ x0, Statement (.sel x0) := fun _ => rfl
theorem cmp : ∀ x0, Statement (.cmp x0) := fun _ => rfl
theorem plog : ∀ x0, Statement (.plog x0) := fun _ => rfl
theorem mov : ∀ x0, Statement (.mov x0) := fun _ => rfl
theorem lit : ∀ x0, Statement (.lit x0) := fun _ => rfl
theorem lith : ∀ x0, Statement (.lith x0) := fun _ => rfl
theorem lea : ∀ x0, Statement (.lea x0) := fun _ => rfl
theorem tagr : ∀ x0, Statement (.tagr x0) := fun _ => rfl
theorem idr : ∀ x0, Statement (.idr x0) := fun _ => rfl
theorem vadd : ∀ x0, Statement (.vadd x0) := fun _ => rfl
theorem vsub : ∀ x0, Statement (.vsub x0) := fun _ => rfl
theorem vmul : ∀ x0, Statement (.vmul x0) := fun _ => rfl
theorem vfma : ∀ x0, Statement (.vfma x0) := fun _ => rfl
theorem vdiv : ∀ x0, Statement (.vdiv x0) := fun _ => rfl
theorem vsqrt : ∀ x0, Statement (.vsqrt x0) := fun _ => rfl
theorem vrcp : ∀ x0, Statement (.vrcp x0) := fun _ => rfl
theorem vrsq : ∀ x0, Statement (.vrsq x0) := fun _ => rfl
theorem vexp : ∀ x0, Statement (.vexp x0) := fun _ => rfl
theorem vlog : ∀ x0, Statement (.vlog x0) := fun _ => rfl
theorem vtanh : ∀ x0, Statement (.vtanh x0) := fun _ => rfl
theorem vmin : ∀ x0, Statement (.vmin x0) := fun _ => rfl
theorem vmax : ∀ x0, Statement (.vmax x0) := fun _ => rfl
theorem vabs : ∀ x0, Statement (.vabs x0) := fun _ => rfl
theorem vneg : ∀ x0, Statement (.vneg x0) := fun _ => rfl
theorem vcmp : ∀ x0, Statement (.vcmp x0) := fun _ => rfl
theorem vsel : ∀ x0, Statement (.vsel x0) := fun _ => rfl
theorem vcvt : ∀ x0, Statement (.vcvt x0) := fun _ => rfl
theorem vrnd : ∀ x0, Statement (.vrnd x0) := fun _ => rfl
theorem vtail : ∀ x0, Statement (.vtail x0) := fun _ => rfl
theorem vshuf : ∀ x0, Statement (.vshuf x0) := fun _ => rfl
theorem vtrn : ∀ x0, Statement (.vtrn x0) := fun _ => rfl
theorem vred : ∀ x0, Statement (.vred x0) := fun _ => rfl
theorem vscan : ∀ x0, Statement (.vscan x0) := fun _ => rfl
theorem vbcst : ∀ x0, Statement (.vbcst x0) := fun _ => rfl
theorem viota : ∀ x0, Statement (.viota x0) := fun _ => rfl
theorem vpack : ∀ x0, Statement (.vpack x0) := fun _ => rfl
theorem vunpk : ∀ x0, Statement (.vunpk x0) := fun _ => rfl
theorem colr : ∀ x0, Statement (.colr x0) := fun _ => rfl
theorem vscl : ∀ x0, Statement (.vscl x0) := fun _ => rfl
theorem vmov : ∀ x0, Statement (.vmov x0) := fun _ => rfl
theorem vbit : ∀ x0, Statement (.vbit x0) := fun _ => rfl
theorem mode : ∀ x0, Statement (.mode x0) := fun _ => rfl
theorem mcfg : ∀ x0, Statement (.mcfg x0) := fun _ => rfl
theorem mwld : ∀ x0, Statement (.mwld x0) := fun _ => rfl
theorem mbindW : ∀ x0, Statement (.mbindW x0) := fun _ => rfl
theorem mbindOp : ∀ x0, Statement (.mbindOp x0) := fun _ => rfl
theorem mfreeW : ∀ x0, Statement (.mfreeW x0) := fun _ => rfl
theorem mfreeOp : ∀ x0, Statement (.mfreeOp x0) := fun _ => rfl
theorem mfreeCfg : ∀ x0, Statement (.mfreeCfg x0) := fun _ => rfl
theorem mdrn : ∀ x0, Statement (.mdrn x0) := fun _ => rfl
theorem mstat : ∀ x0, Statement (.mstat x0) := fun _ => rfl
theorem scsnd : ∀ x0, Statement (.scsnd x0) := fun _ => rfl
theorem scpr : ∀ x0, Statement (.scpr x0) := fun _ => rfl
theorem zskp : ∀ x0, Statement (.zskp x0) := fun _ => rfl
theorem ldl : ∀ x0, Statement (.ldl x0) := fun _ => rfl
theorem stl : ∀ x0, Statement (.stl x0) := fun _ => rfl
theorem ldc : ∀ x0, Statement (.ldc x0) := fun _ => rfl
theorem stc : ∀ x0, Statement (.stc x0) := fun _ => rfl
theorem ldg : ∀ x0, Statement (.ldg x0) := fun _ => rfl
theorem stg : ∀ x0, Statement (.stg x0) := fun _ => rfl
theorem copy : ∀ x0, Statement (.copy x0) := fun _ => rfl
theorem gath : ∀ x0, Statement (.gath x0) := fun _ => rfl
theorem scat : ∀ x0, Statement (.scat x0) := fun _ => rfl
theorem pref : ∀ x0, Statement (.pref x0) := fun _ => rfl
theorem clean : ∀ x0, Statement (.clean x0) := fun _ => rfl
theorem inval : ∀ x0, Statement (.inval x0) := fun _ => rfl
theorem alloc : ∀ x0, Statement (.alloc x0) := fun _ => rfl
theorem free : ∀ x0, Statement (.free x0) := fun _ => rfl
theorem hold : ∀ x0, Statement (.hold x0) := fun _ => rfl
theorem aqry : ∀ x0, Statement (.aqry x0) := fun _ => rfl
theorem tful : ∀ x0, Statement (.tful x0) := fun _ => rfl
theorem send : ∀ x0, Statement (.send x0) := fun _ => rfl
theorem emit : ∀ x0, Statement (.emit x0) := fun _ => rfl
theorem sendc : ∀ x0, Statement (.sendc x0) := fun _ => rfl
theorem mcast : ∀ x0, Statement (.mcast x0) := fun _ => rfl
theorem mask : ∀ x0, Statement (.mask x0) := fun _ => rfl
theorem unmsk : ∀ x0, Statement (.unmsk x0) := fun _ => rfl
theorem walk : ∀ x0, Statement (.walk x0) := fun _ => rfl
theorem split : ∀ x0, Statement (.split x0) := fun _ => rfl
theorem wstat : ∀ x0, Statement (.wstat x0) := fun _ => rfl
theorem kick : ∀ x0, Statement (.kick x0) := fun _ => rfl
theorem lnch : ∀ x0, Statement (.lnch x0) := fun _ => rfl
theorem disp : ∀ x0, Statement (.disp x0) := fun _ => rfl
theorem dflsh : ∀ x0, Statement (.dflsh x0) := fun _ => rfl
theorem coll : ∀ x0, Statement (.coll x0) := fun _ => rfl
theorem rstat : ∀ x0, Statement (.rstat x0) := fun _ => rfl
theorem phreg : ∀ x0, Statement (.phreg x0) := fun _ => rfl
theorem phdrp : ∀ x0, Statement (.phdrp x0) := fun _ => rfl
theorem phsig : ∀ x0, Statement (.phsig x0) := fun _ => rfl
theorem phwt : ∀ x0, Statement (.phwt x0) := fun _ => rfl
theorem phsw : ∀ x0, Statement (.phsw x0) := fun _ => rfl
theorem amo : ∀ x0, Statement (.amo x0) := fun _ => rfl
theorem cas : ∀ x0, Statement (.cas x0) := fun _ => rfl
theorem famo : ∀ x0, Statement (.famo x0) := fun _ => rfl
theorem fence : ∀ x0, Statement (.fence x0) := fun _ => rfl
theorem bind : ∀ x0, Statement (.bind x0) := fun _ => rfl
theorem unbnd : ∀ x0, Statement (.unbnd x0) := fun _ => rfl
theorem acq : ∀ x0, Statement (.acq x0) := fun _ => rfl
theorem rel : ∀ x0, Statement (.rel x0) := fun _ => rfl
theorem osec : ∀ x0, Statement (.osec x0) := fun _ => rfl
theorem oend : ∀ x0, Statement (.oend x0) := fun _ => rfl
theorem otok : ∀ x0, Statement (.otok x0) := fun _ => rfl
theorem futn : ∀ x0, Statement (.futn x0) := fun _ => rfl
theorem fres : ∀ x0, Statement (.fres x0) := fun _ => rfl
theorem freg : ∀ x0, Statement (.freg x0) := fun _ => rfl
theorem nop : ∀ x0, Statement (.nop x0) := fun _ => rfl
theorem trap : ∀ x0, Statement (.trap x0) := fun _ => rfl
theorem brk : ∀ x0, Statement (.brk x0) := fun _ => rfl
theorem time : ∀ x0, Statement (.time x0) := fun _ => rfl
theorem rtime : ∀ x0, Statement (.rtime x0) := fun _ => rfl
theorem metr : ∀ x0, Statement (.metr x0) := fun _ => rfl
theorem csrr : ∀ x0, Statement (.csrr x0) := fun _ => rfl
theorem csrw : ∀ x0, Statement (.csrw x0) := fun _ => rfl
theorem erri : ∀ x0, Statement (.erri x0) := fun _ => rfl
theorem rseed : ∀ x0, Statement (.rseed x0) := fun _ => rfl
theorem perf : ∀ x0, Statement (.perf x0) := fun _ => rfl
theorem sysc : ∀ x0, Statement (.sysc x0) := fun _ => rfl
theorem halt : ∀ x0, Statement (.halt x0) := fun _ => rfl
theorem frzr : ∀ x0, Statement (.frzr x0) := fun _ => rfl
theorem tokenArrival : ∀ x0, Statement (.tokenArrival x0) := fun _ => rfl
theorem tokenLeave : ∀ x0, Statement (.tokenLeave x0) := fun _ => rfl
theorem allocRequestAccept : ∀ x0, Statement (.allocRequestAccept x0) := fun _ => rfl
theorem allocatorGrant : ∀ x0, Statement (.allocatorGrant x0) := fun _ => rfl
theorem grantDelivery : ∀ x0, Statement (.grantDelivery x0) := fun _ => rfl
theorem allocRefusalArrival : ∀ x0, Statement (.allocRefusalArrival x0) := fun _ => rfl
theorem windowRefill : ∀ x0 x1, Statement (.windowRefill x0 x1) := fun _ _ => rfl
theorem horizonSnapshot : ∀ x0 x1, Statement (.horizonSnapshot x0 x1) := fun _ _ => rfl
theorem horizonBroadcast : ∀ x0 x1, Statement (.horizonBroadcast x0 x1) := fun _ _ => rfl
theorem promotion : ∀ x0, Statement (.promotion x0) := fun _ => rfl
theorem allocStall : ∀ x0 x1, Statement (.allocStall x0 x1) := fun _ _ => rfl
theorem freeMessage : ∀ x0, Statement (.freeMessage x0) := fun _ => rfl
theorem holdMessage : ∀ x0, Statement (.holdMessage x0) := fun _ => rfl
theorem tfulMessage : ∀ x0, Statement (.tfulMessage x0) := fun _ => rfl
theorem aqryQuery : ∀ x0, Statement (.aqryQuery x0) := fun _ => rfl
theorem thirdWakeDone : ∀ x0 x1, Statement (.thirdWakeDone x0 x1) := fun _ _ => rfl
theorem patrolScrub : ∀ x0 x1, Statement (.patrolScrub x0 x1) := fun _ _ => rfl
theorem walkerEmit : ∀ x0 x1, Statement (.walkerEmit x0 x1) := fun _ _ => rfl
theorem walkerGrantDelivery : ∀ x0, Statement (.walkerGrantDelivery x0) := fun _ => rfl
theorem idleFire : ∀ x0 x1, Statement (.idleFire x0 x1) := fun _ _ => rfl
theorem splitApply : ∀ x0, Statement (.splitApply x0) := fun _ => rfl
theorem splitResult : ∀ x0, Statement (.splitResult x0) := fun _ => rfl
theorem phaserRegister : ∀ x0 x1, Statement (.phaserRegister x0 x1) := fun _ _ => rfl
theorem phaserSignal : ∀ x0 x1, Statement (.phaserSignal x0 x1) := fun _ _ => rfl
theorem phaserDrop : ∀ x0 x1, Statement (.phaserDrop x0 x1) := fun _ _ => rfl
theorem phaserWait : ∀ x0 x1, Statement (.phaserWait x0 x1) := fun _ _ => rfl
theorem phaserSignalWait : ∀ x0 x1, Statement (.phaserSignalWait x0 x1) := fun _ _ => rfl
theorem waiterLinkWrite : ∀ x0, Statement (.waiterLinkWrite x0) := fun _ => rfl
theorem phaserRelease : ∀ x0, Statement (.phaserRelease x0) := fun _ => rfl
theorem clusterAccess : ∀ x0, Statement (.clusterAccess x0) := fun _ => rfl
theorem clusterReply : ∀ x0, Statement (.clusterReply x0) := fun _ => rfl
theorem mwldFlit : ∀ x0, Statement (.mwldFlit x0) := fun _ => rfl
theorem arrayMessage : ∀ x0, Statement (.arrayMessage x0) := fun _ => rfl
theorem arrayFiringStart : ∀ x0 x1, Statement (.arrayFiringStart x0 x1) := fun _ _ => rfl
theorem arrayFiringEnd : ∀ x0 x1, Statement (.arrayFiringEnd x0 x1) := fun _ _ => rfl
theorem mdrnDrain : ∀ x0 x1, Statement (.mdrnDrain x0 x1) := fun _ _ => rfl
theorem flitReceive : ∀ x0, Statement (.flitReceive x0) := fun _ => rfl
theorem egressArbitration : ∀ x0, Statement (.egressArbitration x0) := fun _ => rfl
theorem homeAccess : ∀ x0 x1, Statement (.homeAccess x0 x1) := fun _ _ => rfl
theorem tlbMiss : ∀ x0 x1, Statement (.tlbMiss x0 x1) := fun _ _ => rfl
theorem pageWalk : ∀ x0 x1, Statement (.pageWalk x0 x1) := fun _ _ => rfl
theorem globalReply : ∀ x0, Statement (.globalReply x0) := fun _ => rfl
theorem accessAck : ∀ x0, Statement (.accessAck x0) := fun _ => rfl
theorem engineCommand : ∀ x0 x1, Statement (.engineCommand x0 x1) := fun _ _ => rfl
theorem engineCompletion : ∀ x0 x1, Statement (.engineCompletion x0 x1) := fun _ _ => rfl
theorem futnApply : ∀ x0 x1, Statement (.futnApply x0 x1) := fun _ _ => rfl
theorem fresApply : ∀ x0 x1, Statement (.fresApply x0 x1) := fun _ _ => rfl
theorem fregApply : ∀ x0 x1, Statement (.fregApply x0 x1) := fun _ _ => rfl
theorem bindApply : ∀ x0, Statement (.bindApply x0) := fun _ => rfl
theorem unbndApply : ∀ x0, Statement (.unbndApply x0) := fun _ => rfl
theorem sectionCommit : ∀ x0 x1, Statement (.sectionCommit x0 x1) := fun _ _ => rfl
theorem kickWrite : ∀ x0 x1 x2 x3, Statement (.kickWrite x0 x1 x2 x3) := fun _ _ _ _ => rfl
theorem queueEnable : ∀ x0 x1 x2, Statement (.queueEnable x0 x1 x2) := fun _ _ _ => rfl
theorem queueDisable : ∀ x0 x1 x2, Statement (.queueDisable x0 x1 x2) := fun _ _ _ => rfl
theorem queueResume : ∀ x0 x1 x2, Statement (.queueResume x0 x1 x2) := fun _ _ _ => rfl
theorem registerWrite : ∀ x0 x1 x2 x3 x4, Statement (.registerWrite x0 x1 x2 x3 x4) := fun _ _ _ _ _ => rfl
theorem icbMessage : ∀ x0 x1, Statement (.icbMessage x0 x1) := fun _ _ => rfl
theorem ringSlotRead : ∀ x0 x1, Statement (.ringSlotRead x0 x1) := fun _ _ => rfl
theorem startDecision : ∀ x0, Statement (.startDecision x0) := fun _ => rfl
theorem launch : ∀ x0, Statement (.launch x0) := fun _ => rfl
theorem copyPacket : ∀ x0, Statement (.copyPacket x0) := fun _ => rfl
theorem barrierAnd : ∀ x0, Statement (.barrierAnd x0) := fun _ => rfl
theorem barrierOr : ∀ x0, Statement (.barrierOr x0) := fun _ => rfl
theorem barrierPoll : ∀ x0, Statement (.barrierPoll x0) := fun _ => rfl
theorem signalPacket : ∀ x0, Statement (.signalPacket x0) := fun _ => rfl
theorem graph : ∀ x0, Statement (.graph x0) := fun _ => rfl
theorem cond : ∀ x0, Statement (.cond x0) := fun _ => rfl
theorem nopPacket : ∀ x0, Statement (.nopPacket x0) := fun _ => rfl
theorem writePacket : ∀ x0, Statement (.writePacket x0) := fun _ => rfl
theorem packetComplete : ∀ x0, Statement (.packetComplete x0) := fun _ => rfl
theorem lnchApply : ∀ x0, Statement (.lnchApply x0) := fun _ => rfl
theorem terminationWave : ∀ x0 x1, Statement (.terminationWave x0 x1) := fun _ _ => rfl
theorem parkSwitch : ∀ x0 x1, Statement (.parkSwitch x0 x1) := fun _ _ => rfl
theorem parkHang : ∀ x0 x1, Statement (.parkHang x0 x1) := fun _ _ => rfl
theorem packetCoreRestart : ∀ x0, Statement (.packetCoreRestart x0) := fun _ => rfl
theorem policyWatchdogExpiry : Statement .policyWatchdogExpiry := rfl
theorem create : Statement .create := rfl
theorem destroy : Statement .destroy := rfl
theorem mapPages : Statement .mapPages := rfl
theorem unmapPages : Statement .unmapPages := rfl
theorem service : Statement .service := rfl
theorem frost : ∀ x0, Statement (.frost x0) := fun _ => rfl
theorem thaw : Statement .thaw := rfl
theorem evict : Statement .evict := rfl
theorem restore : Statement .restore := rfl
theorem gateThird : Statement .gateThird := rfl
theorem wakeThird : Statement .wakeThird := rfl
theorem gateWays : Statement .gateWays := rfl
theorem wakeWays : Statement .wakeWays := rfl
theorem pstate : Statement .pstate := rfl
theorem dieGate : Statement .dieGate := rfl
theorem dieWake : Statement .dieWake := rfl
theorem setLimits : Statement .setLimits := rfl
theorem inject : Statement .inject := rfl
theorem meterRing : Statement .meterRing := rfl
theorem harvestRead : Statement .harvestRead := rfl
theorem exportWindow : Statement .exportWindow := rfl
theorem fabric : Statement .fabric := rfl
theorem meterPeriodicRecord : ∀ x0, Statement (.meterPeriodicRecord x0) := fun _ => rfl
theorem hang : ∀ x0 x1, Statement (.hang x0 x1) := fun _ _ => rfl
theorem droop : ∀ x0, Statement (.droop x0) := fun _ => rfl
theorem powerOn : Statement .powerOn := rfl
theorem dieBistPass : ∀ x0, Statement (.dieBistPass x0) := fun _ => rfl
theorem atsInvalidation : ∀ x0 x1 x2, Statement (.atsInvalidation x0 x1 x2) := fun _ _ _ => rfl
theorem rosgenFlitReceive : ∀ x0 x1, Statement (.rosgenFlitReceive x0 x1) := fun _ _ => rfl
theorem nakReceive : ∀ x0 x1, Statement (.nakReceive x0 x1) := fun _ _ => rfl
theorem replayTimeout : ∀ x0, Statement (.replayTimeout x0) := fun _ => rfl
theorem rosgenMessageApply : ∀ x0, Statement (.rosgenMessageApply x0) := fun _ => rfl
theorem failReceive : ∀ x0, Statement (.failReceive x0) := fun _ => rfl
theorem endToEndAck : ∀ x0, Statement (.endToEndAck x0) := fun _ => rfl
theorem inboundAccess : ∀ x0, Statement (.inboundAccess x0) := fun _ => rfl
theorem dispAppend : ∀ x0, Statement (.dispAppend x0) := fun _ => rfl
theorem dispatchPlace : ∀ x0 x1, Statement (.dispatchPlace x0 x1) := fun _ _ => rfl
theorem dispatchOutcome : ∀ x0, Statement (.dispatchOutcome x0) := fun _ => rfl
theorem collMessage : ∀ x0, Statement (.collMessage x0) := fun _ => rfl
theorem waysWakeDone : ∀ x0 x1 x2, Statement (.waysWakeDone x0 x1 x2) := fun _ _ _ => rfl
theorem deviceReset : Statement .deviceReset := rfl
theorem powerLoss : Statement .powerLoss := rfl
theorem rosgenPortUp : ∀ x0 x1, Statement (.rosgenPortUp x0 x1) := fun _ _ => rfl
theorem rosgenPortDown : ∀ x0, Statement (.rosgenPortDown x0) := fun _ => rfl
theorem rosgenPortSend : ∀ x0, Statement (.rosgenPortSend x0) := fun _ => rfl
theorem droopEnd : ∀ x0, Statement (.droopEnd x0) := fun _ => rfl
theorem tirzonMemoryUe : Statement .tirzonMemoryUe := rfl
theorem msixUnmask : ∀ x0 x1, Statement (.msixUnmask x0 x1) := fun _ _ => rfl
theorem firmwareUpdate : ∀ x0, Statement (.firmwareUpdate x0) := fun _ => rfl

end Sys2Proof.Laws.Coded
end

