-- ==== Sys2Proof/Laws/Wire.lean ====
section
/-! SUPPORT. The bits of a Rosgen flit: a flit that no link has changed carries the CRC of its body. -/

namespace Sys2Proof.Machine

theorem flitType_lt (k : RKind) : flitType k < 16 := by
  cases k <;> simp only [flitType] <;> omega

set_option exponentiation.threshold 1000 in
/-- The fields below the CRC fill 992 bits. -/
theorem flitBody_lt (f : RFlit) : flitBody f < 2 ^ 992 := by
  have h1 := f.seq.isLt
  have h2 := f.ack.isLt
  have h3 := flitType_lt f.kind
  have h4 : flitPayload f.kind % 2 ^ 960 < 2 ^ 960 := Nat.mod_lt _ (Nat.two_pow_pos _)
  unfold flitBody
  generalize flitPayload f.kind % 2 ^ 960 = p at h4
  generalize f.seq.toNat = a at h1
  generalize f.ack.toNat = b at h2
  generalize flitType f.kind = c at h3
  omega

/-- Bits that no link has changed are judged by their TYPE alone (R335). -/
theorem bitsSound_rosBits (f : RFlit) : bitsSound (rosBits f) = decide (bitsOf (rosBits f) 964 4 < 4) := by
  have h := flitBody_lt f
  have h1 : rosBits f % 2 ^ 992 = flitBody f := by
    unfold rosBits
    rw [Nat.add_comm, Nat.add_mul_mod_self_right, Nat.mod_eq_of_lt h]
  have h2 : rosBits f / 2 ^ 992 = State.crc32c (flitBody f) 992 := by
    unfold rosBits
    rw [Nat.add_comm, Nat.add_mul_div_right _ _ (Nat.two_pow_pos _), Nat.div_eq_of_lt h, Nat.zero_add]
  simp [bitsSound, h1, h2]

end Sys2Proof.Machine
end

