-- ==== Sys2Proof/Laws/Words.lean ====
section
/-! SUPPORT. What running a word does, in the terms of the statements: a word that changes its activation alone, and a word that takes a request slot, numbers itself and
counts its continuation. -/

namespace Sys2Proof.Machine

/-- Putting an activation back changes nothing else. -/
theorem onlyAct_put {s : State} {c : Cur} {act act' : Act} (h : Runs s c act) (ha : act'.aid = act.aid) : OnlyAct s (s.putAct c.elem c.seq act') c act' := by
  obtain ⟨h1, h2⟩ := h
  refine ⟨rfl, fun b hb => ?_, ?_⟩
  · exact State.elem_modElem_other _ _ hb
  · simp [State.putAct, h2, ha]

/-- A word that only changes its activation completes, and only does that. -/
theorem runPure_done {s : State} {c : Cur} {act : Act} (f : State → Nat → Act → Act) (h : Runs s c act) (ha : (f s c.elem act).aid = act.aid) :
    ∃ t, runPure s f = .next t ∧ OnlyAct s t c (f s c.elem act) :=
  ⟨_, runPure_of f h.1 h.2, onlyAct_put h ha⟩

/-- A scalar word completes. -/
theorem scalar_done {o : OpA} {s : State} {c : Cur} {act : Act} (f : Act → Act) (h : Runs s c act) (hg : act.guard o.pr o.pn 0 = true) (ha : (f act).aid = act.aid) :
    ∃ t, scalar o s f = .next t ∧ OnlyAct s t c (f act) := by
  refine ⟨_, scalar_of o f h.1 h.2, ?_⟩
  rw [hg]
  exact onlyAct_put h ha

theorem takeSlot_free {s : State} {a : Nat} {act : Act} {j : Nat} (r : Req) (h : FreeSlot s a act j) :
    s.takeSlot a act r = some (s.modElem a (fun e => { e with reqs := setAt e.reqs j (some r) }), { act with reqSet := act.reqSet - 1 }, j) :=
  takeSlot_of r h.1 h.2.1 h.2.2.1 h.2.2.2

theorem onlyElem_trans {s t u : State} {a : Nat} {e f : Elem} (h : OnlyElem s t a e) (g : OnlyElem t u a f) : OnlyElem s u a f := by
  obtain ⟨h1, h2, _⟩ := h
  obtain ⟨g1, g2, g3⟩ := g
  refine ⟨?_, fun b hb => by rw [g2 b hb, h2 b hb], g3⟩
  rw [g1, h1]

theorem onlyElem_mod (s : State) (a : Nat) (f : Elem → Elem) : OnlyElem s (s.modElem a f) a (f (s.elem a)) :=
  ⟨rfl, fun _ hb => State.elem_modElem_other _ _ hb, by simp⟩

theorem onlyElem_set (s : State) (a : Nat) (e : Elem) : OnlyElem s (s.setElem a e) a e := ⟨rfl, fun _ hb => State.elem_setElem_other _ _ hb, by simp⟩

/-- Counting a continuation changes SENT alone. -/
theorem countCont_only (s : State) (a k : Nat) (c : Option Cont) : OnlyElem s (s.countCont a k c) a { s.elem a with sent := ((s.countCont a k c).elem a).sent } := by
  unfold State.countCont
  cases c with
  | none => exact ⟨rfl, fun _ _ => rfl, rfl⟩
  | some c =>
    simp only
    cases s.absOf a k (hElem c.fh) with
    | none => exact ⟨rfl, fun _ _ => rfl, rfl⟩
    | some d =>
      simp only [State.countSent]
      cases s.regionAt (s.hedge (clusNo a) k).own (s.hedge (clusNo a) k) d with
      | none => exact ⟨rfl, fun _ _ => rfl, rfl⟩
      | some j => exact ⟨rfl, fun _ hb => State.elem_modElem_other _ _ hb, by simp⟩

/-- What a continuation counts depends on the state's clusters and regions and the element's SENT alone. -/
theorem countCont_sent {s t : State} (a k : Nat) (c : Option Cont) (h : t = { s with elems := t.elems }) (hs : (t.elem a).sent = (s.elem a).sent) :
    ((t.countCont a k c).elem a).sent = ((s.countCont a k c).elem a).sent := by
  unfold State.countCont
  cases c with
  | none => exact hs
  | some c =>
    have e1 : ∀ r, t.absOf a k r = s.absOf a k r := by intro r; rw [h]; rfl
    have e2 : t.hedge (clusNo a) k = s.hedge (clusNo a) k := by rw [h]; rfl
    have e3 : ∀ p g d, t.regionAt p g d = s.regionAt p g d := by intro p g d; rw [h]; rfl
    simp only [e1, State.countSent, e2, e3]
    cases s.absOf a k (hElem c.fh) with
    | none => exact hs
    | some d =>
      simp only
      cases s.regionAt (s.hedge (clusNo a) k).own (s.hedge (clusNo a) k) d with
      | none => exact hs
      | some j => simp [hs]

/-- Taking a slot, a number and a count for a request changes those three fields of the element alone. -/
theorem reserved_only (b : State) (a k j : Nat) (c : Option Cont) (r : Req) :
    OnlyElem b ((((b.modElem a fun e => { e with reqs := setAt e.reqs j (some r) }).nextSeq a).1).countCont a k c) a
      { b.elem a with reqs := setAt (b.elem a).reqs j (some r), seqNext := (b.elem a).seqNext + 1, sent := ((b.countCont a k c).elem a).sent } := by
  have h1 := onlyElem_mod b a fun e => { e with reqs := setAt e.reqs j (some r) }
  have h2 := onlyElem_set (b.modElem a fun e => { e with reqs := setAt e.reqs j (some r) }) a
    { (b.modElem a fun e => { e with reqs := setAt e.reqs j (some r) }).elem a with seqNext := ((b.modElem a fun e => { e with reqs := setAt e.reqs j (some r) }).elem a).seqNext + 1 }
  have h3 := countCont_only ((b.modElem a fun e => { e with reqs := setAt e.reqs j (some r) }).nextSeq a).1 a k c
  have h := onlyElem_trans (onlyElem_trans h1 h2) h3
  rw [countCont_sent (s := b) a k c rfl (by simp [State.nextSeq])] at h
  simpa [State.nextSeq] using h

/-- A global access of a word: its slot, number and count, then what it issues. -/
theorem globIssue_of {b : State} {a : Nat} {act : Act} {d : Dst} {j : Nat} {c : Option Cont} (k : ReqKind) (f : State → Org → Option Cont → State) (hj : FreeSlot b a act j)
    (hc : act.cont d = some c) :
    globIssue b a act d k f =
      .go (f ((((b.modElem a fun e => { e with reqs := setAt e.reqs j (some { kind := k, target := a, ctx := act.ctx }) }).nextSeq a).1).countCont a act.ctx c)
        { act.org a (b.elem a).seqNext with slot := some j, cont := c } c) { act with reqSet := act.reqSet - 1 } := by
  unfold globIssue
  rw [takeSlot_free _ hj]
  simp [hc, State.nextSeq]

/-- Putting an activation back over a change of its element. -/
theorem put_only {s t : State} {a k : Nat} {act act' : Act} {e : Elem} (h : OnlyElem s t a e) (hs : nth e.seqs k none = some act) (ha : act'.aid = act.aid) :
    OnlyElem s (t.putAct a k act') a { e with seqs := setAt e.seqs k (some { act' with pc := act'.pc + 1 }) } := by
  refine onlyElem_trans h ?_
  have := onlyElem_mod t a fun e => match nth e.seqs k none with
    | some x => if x.aid == act'.aid then { e with seqs := setAt e.seqs k (some { act' with pc := act'.pc + 1 }) } else e
    | none => e
  rw [h.2.2] at this
  have hb : (act.aid == act'.aid) = true := by simp [ha]
  simp only [hs, hb, if_true] at this
  exact this

end Sys2Proof.Machine
end

