-- ==== Sys2Proof/Tests/Slice0.lean ====
section
/-! SUPPORT. Tests: words written out from the spec's encodings, ill-formed words, single steps on small states, and for every statement with hypotheses a state and operands
that meet them. -/

namespace Sys2Proof.Tests

set_option Elab.async false

open Sys2Proof Sys2Proof.Machine

-- Small states and operands --------------------------------------------------------------------------------------------------------------------

/-- An activation at word 1 of node 0, on the frame with handle 1, whose destinations are ports of its own frame. -/
def tAct : Act := { State.probeAct with dsta := ⟨1, 0, 1⟩, dstb := ⟨1, 1, 1⟩ }

/-- Element 0 of a running partition 0 of one cluster runs a word of an activation. -/
def tRun (act : Act) : State :=
  let s := State.reset.probe 0xE00000000000000000000000#96
  ({ s with agenda := [], cur := some ⟨0, 0, none⟩ }).modElem 0 fun e => { e with seqs := [some act, none] }

def tW : State := tRun tAct

def tC : Cur := ⟨0, 0, none⟩

def oN : OpN := ⟨1, 0, ⟨1, 0, 1⟩, ⟨0, 0, 0⟩, 0, 0, 0, 1⟩
def oA : OpA := ⟨.n32, .t 0, .t 1, .t 2, .t 0, 0, false, 0, .i64, 0, 0, 0⟩
def oY : OpY := ⟨0, 0, .i64, .i64, .i64, .t 0, .t 0, .t 0, 0, 0, 0⟩
def oM : OpM := ⟨.n32, .t 0, .lit, .z, .z, 0, false, 0, 0, false, false, 0, ⟨1, 0, 1⟩, 0⟩
def oK : OpK := ⟨0, .t 0, .lit, .t 1, .t 2, 0, false, 0, 0, ⟨1, 0, 1⟩, 1⟩
def oS : OpS := ⟨0, .t 0, .lit, .z, .t 1, 0, false, .n32, 0, false, false, 0, ⟨1, 0, 1⟩, 0⟩
def oX : OpX := ⟨0, .t 0, .t 1, .t 0, 0, false, 0, ⟨0, 0, 0⟩, 0⟩

theorem runs_of (act : Act) : Runs (tRun act) tC act := ⟨rfl, rfl⟩

theorem free_slot : FreeSlot tW 0 tAct 0 := by unfold FreeSlot; decide +kernel

-- Words: decoding and ill-formed terms --------------------------------------------------------------------------------------------------------------

/-- A word of the spec in its three parts. -/
def w96 (hi mid lo : Nat) : NWord := BitVec.ofNat 96 (hi * 2 ^ 64 + mid * 2 ^ 32 + lo)

/-- The worked encoding of SEQ and its bytes in storage (R34). -/
theorem test_decode_seq : decodeBytes [0x02, 0, 0, 0, 0x18, 0, 0, 0x40, 0x0C, 0, 0x40, 0] = .ok (.seq ⟨1, 0, ⟨3, 0, 1⟩, ⟨0, 0, 0⟩, 0, 0, 3, 2⟩, []) := by rfl
theorem test_decode_add : decode (w96 0x20108900 0 0) = some (.add ⟨.i32, .t 0, .inp 0, .inp 1, .t 0, 0, false, 0, .i64, 0, 0, 0⟩) := by decide +kernel
theorem test_decode_bext : decode (w96 0x32420000 0x00381000 0) = some (.bext ⟨.n64, .t 2, .t 0, .t 0, .t 0, 0, false, 0, .i64, 0x38, 0x10, 0⟩) := by decide +kernel
theorem test_decode_vrnd : decode (w96 0x52901000 0x68000000 0) = some (.vrnd ⟨.bf16, .t 0, .t 1, .t 0, .t 0, 0, false, 6, .f32, 0, 0, 0⟩) := by decide +kernel
theorem test_decode_vred : decode (w96 0x56801000 0 0) = some (.vred ⟨.f32, .t 0, .t 1, .t 0, .t 0, 0, false, 0, .i64, 0, 0, 0⟩) := by decide +kernel
theorem test_decode_vscan : decode (w96 0x57501000 0x80000000 0) = some (.vscan ⟨.n32, .t 0, .t 1, .t 0, .t 0, 0, false, 8, .i64, 0, 0, 0⟩) := by decide +kernel
theorem test_decode_mode : decode (w96 0x60000000 0x00010000 0) = some (.mode { oY with ka := 1 }) := by decide +kernel
theorem test_decode_stl : decode (w96 0x81502D10 0 0x100) = some (.stl ⟨.n32, .t 0, .t 2, .z, .t 1, 0, false, 0, 0, false, false, 0, ⟨0, 0, 0⟩, 0x100⟩) := by decide +kernel
theorem test_decode_free : decode (w96 0x8D00F000 0x00010000 0) = some (.free ⟨.i64, .t 0, .fp, .t 0, .t 0, 0, false, 0, 0, false, false, 1, ⟨0, 0, 0⟩, 0⟩) := by decide +kernel
theorem test_decode_emit_b : decode (w96 0xA1004000 0x00010000 0) = some (.emit ⟨0, .t 0, .t 4, .t 0, .t 0, 0, false, 0, 1, ⟨0, 0, 0⟩, 0⟩) := by decide +kernel
theorem test_decode_emit_a : decode (w96 0xA1000000 0 0) = some (.emit ⟨0, .t 0, .t 0, .t 0, .t 0, 0, false, 0, 0, ⟨0, 0, 0⟩, 0⟩) := by decide +kernel
theorem test_decode_sendc : decode (w96 0xA2500100 0x00010000 0) = some (.sendc ⟨5, .t 0, .t 0, .t 1, .t 0, 0, false, 0, 1, ⟨0, 0, 0⟩, 0⟩) := by decide +kernel
theorem test_decode_mask : decode (w96 0xA400C000 0 0x20) = some (.mask ⟨0, .t 0, .lit, .t 0, .t 0, 0, false, 0, 0, ⟨0, 0, 0⟩, 0x20⟩) := by decide +kernel
theorem test_decode_split : decode (w96 0xA7003000 0x000500C1 0) = some (.split ⟨0, .t 0, .t 3, .t 0, .t 0, 0, false, 0, 5, ⟨12, 0, 1⟩, 0⟩) := by decide +kernel
theorem test_decode_kick : decode (w96 0xA9001000 0x00030000 0) = some (.kick ⟨0, .t 0, .t 1, .t 0, .t 0, 0, false, 0, 3, ⟨0, 0, 0⟩, 0⟩) := by decide +kernel
theorem test_decode_lnch : decode (w96 0xAA004500 0x00030091 0) = some (.lnch ⟨0, .t 0, .t 4, .t 5, .t 0, 0, false, 0, 3, ⟨9, 0, 1⟩, 0⟩) := by decide +kernel
theorem test_decode_disp : decode (w96 0xAB000460 0x24000000 0) = some (.disp ⟨0, .t 0, .t 0, .t 4, .t 6, 0, false, 0, 0x2400, ⟨0, 0, 0⟩, 0⟩) := by decide +kernel
theorem test_decode_dflsh : decode (w96 0xAC000000 0x000500A1 0) = some (.dflsh ⟨0, .t 0, .t 0, .t 0, .t 0, 0, false, 0, 5, ⟨10, 0, 1⟩, 0⟩) := by decide +kernel
theorem test_decode_phsig : decode (w96 0xC2011000 0x05000000 0) = some (.phsig ⟨0, .t 1, .t 1, .t 0, .t 0, 0, false, .i64, 1, false, true, 0, ⟨0, 0, 0⟩, 0⟩) := by decide +kernel
theorem test_decode_time : decode (w96 0xE3020000 0 0) = some (.time ⟨0, .t 2, .t 0, .t 0, 0, false, 0, ⟨0, 0, 0⟩, 0⟩) := by decide +kernel

/-- One ill-formed term for each reason for which a word is refused by itself (R35). -/
theorem test_ill_rsv_opcode : checkWord (w96 0x0D000000 0 0) = .error .rsvOpcode := by rfl
theorem test_ill_rsv_bits : WellFormed (.add { oA with c := .t 1 }) = False ∧ (Instr.add { oA with c := .t 1 }).reason = some .rsvBits := by decide +kernel
theorem test_ill_selector : (Instr.add { oA with d := .inp 0 }).reason = some .badSelector := by decide +kernel
theorem test_ill_type : (Instr.and { oA with ty := .f32 }).reason = some .badType := by decide +kernel
theorem test_ill_field : (Instr.sel { oA with ka := 4 }).reason = some .badField := by decide +kernel
theorem test_ill_node_ref : (Instr.stg { oM with dst := ⟨1, 0, 0⟩ }).reason = some .badNodeRef := by decide +kernel
theorem test_ill_literal : (Instr.add { oA with ty := .i8, b := .lit, lit := 0x100 }).reason = some .badLiteral := by decide +kernel
theorem test_ill_length : (Instr.seq { oN with lit := 0 }).reason = some .badLength := by decide +kernel
theorem test_well_formed : WellFormed (.add oA) ∧ ¬WellFormed (.tokenArrival 0) := by decide +kernel

/-- A step goes on. -/
def isNext (r : Host.Outcome State Fault Refusal) : Bool := match r with | .next _ => true | _ => false

/-- A word that stands where the next step fetches runs. -/
theorem test_fetch : isNext (step (State.reset.withFetchWord 96 (0x201089000000000000000000))) = true ∧
    decodeTableWord 96 0x201089000000000000000000 = some (.add ⟨.i32, .t 0, .inp 0, .inp 1, .t 0, 0, false, 0, .i64, 0, 0, 0⟩) := by decide +kernel

-- Words: hypotheses met -----------------------------------------------------------------------------------------------------------------------------------

/-- Element 0 with an open section instance of its frame, which stores directly where `d` says. -/
def tSect (d : Bool) : State := tW.modElem 0 fun e => { e with sects := [{ num := 1, ctx := 0, fh := 1, key := 0, node := 0, ins := [], direct := d }] }

/-- Element 0 with node 0 a SEQ head and a launch record at address 0 that seeds it. -/
def tRec : State := tW.modElem 0 fun e => { e with
  nodes := e.nodes.put 0 (w96 0x0040000C 0x40000018 2)
  mem := Memory.write e.mem 0 (leBytes 64 (2 ^ 128 + 2 ^ 64 + 2 ^ 24 + 3 * 2 ^ 10)) }

/-- Element 0 in a configured array. -/
def tArr : State := tW.modClus 0 fun x => { x with arrays := x.arrays.put 0 { origin := 0, rows := 1, cols := 1, n := 1, m := 32, af := .bf16, wf := .bf16, f := .f32 } }

theorem witness_PureWordsComplete : ∀ i ∈ [Instr.add oA, .vadd oA, .vtrn oA, .colr oA], (pureWord i).isSome = true := by decide +kernel

theorem witness_ScalarIntegers : oA.ty.code < 8 ∧ oA.d = .t 0 ∧ tAct.guard oA.pr oA.pn 0 = true ∧
    (∀ i ∈ [Instr.add oA, .sub oA, .mul oA, .mulh oA, .div oA, .rem oA, .and oA, .or oA, .xor oA, .andn oA, .shl oA, .shr oA, .sar oA, .rot oA, .clz oA, .popc oA, .lea oA],
      (intResult i tAct).isSome = true) ∧
    (∀ i ∈ [Instr.div { oA with d := .z }, .rem { oA with d := .z }], ((intResult i tAct).map fun r => (r.1.d, r.2.2)) = some (.z, true)) ∧
    ∀ i ∈ [Instr.div oA, .rem oA, .and oA, .or oA, .xor oA, .andn oA, .shl oA, .shr oA, .sar oA, .rot oA], (intWord i).isSome = true ∧ i.wellFormed = true := by decide +kernel

theorem witness_ScalarMoves : oA.d = .t 0 ∧ tAct.guard oA.pr oA.pn 0 = true ∧
    (∀ i ∈ [Instr.mov oA, .lit oA, .sel oA, .min oA, .max oA], (copiedFrom i tAct).isSome = true) ∧
    (Instr.mov { oA with b := .t 0 }).wellFormed = true ∧ (Instr.sel { oA with ka := 3 }).wellFormed = true ∧ 3 < (4 : BitVec 8).toNat := by decide +kernel

theorem witness_PredicateWords : (∀ d ∈ [Sel.t 0, .t 3], d.code ≤ 3) ∧ Runs tW tC tAct := ⟨by decide, runs_of _⟩

theorem witness_VectorLanes : (∃ j y, vecResult (.vadd oA) tAct j = some (oA, y) ∧ oA.ty.code < 8 ∧ oA.ty.is64 = false) ∧
    (∀ i ∈ [Instr.vadd oA, .vsub oA, .vmul oA, .vfma oA, .vdiv oA, .vabs oA, .vneg oA, .viota oA], (vecResult i tAct 31).isSome = true) ∧
    (∀ i ∈ [Instr.vmov oA, .vsel oA, .vbcst oA, .vmin oA, .vmax oA, .vshuf oA, .vpack oA, .vunpk oA], (vecCopy i tAct 0).isSome = true) :=
  ⟨⟨0, _, rfl, by decide, by decide⟩, by decide +kernel, by decide +kernel⟩

theorem witness_ColrGrantsWidth : oA.d = .t 0 ∧ Runs tW tC tAct := ⟨rfl, runs_of _⟩

theorem witness_SendingWords : Runs tW tC tAct ∧ (tW.elem 0).inSection tAct.fh = false ∧
    ∀ i ∈ [Instr.free oM, .hold oM, .tful oM, .send oK, .sendc oK, .emit oK, .otok oS, .kick oK, .disp { oK with b := .z, c := .z }, .sysc oX],
      (sendEffect i tW 0 tAct).isSome = true := ⟨runs_of _, by decide +kernel, by decide +kernel⟩

theorem witness_PhaserWords : let o : OpS := { oS with lit := 0xC0000000, dst := ⟨0, 0, 0⟩ }
    ∀ i ∈ [Instr.phreg oS, .phdrp o, .phsig o, .phwt o, .phsw o, .bind oS, .unbnd oS], (phaserEffect i tW 0 tAct).isSome = true := by decide +kernel

theorem witness_CommandWords : let o : OpM := { oM with a := .z }
    let k : OpK := { oK with a := .z, b := .z, c := .z }
    ∀ i ∈ [Instr.copy o, .gath o, .scat o, .lnch k, .dflsh k, .coll k, .frzr { oX with dst := ⟨1, 0, 1⟩ }], (commandEffect i tW 0 tAct).isSome = true := by decide +kernel

theorem witness_AccessWords : settleOne tW 0 = none ∧
    ∀ i ∈ [Instr.ldg oM, .stg oM, .amo oS, .famo oS, .cas oS, .futn oS, .fres oS, .freg oS, .pref oM, .clean oM], (accessEffect i tW 0 tAct).isSome = true := by decide +kernel

/-- Element 0 in a cycle of an MCAST that holds its slot, with one token still to send or with three. -/
def tHold (n : Nat) : State := tW.modElem 0 fun e => { e with sending := [{ aid := tAct.aid, toks := List.replicate n ({}, { fh := 1 }) }] }

theorem witness_McastTokens : (tW.elem 0).inSection tAct.fh = false ∧ tAct.guard oK.pr oK.pn 0 = true ∧ Runs tW tC tAct ∧
    ∀ n ∈ [1, 2, 3], let x : Sending := { aid := tAct.aid, toks := List.replicate n ({}, { fh := 1 }) }
      ((tHold n).elem 0).seqs = [some tAct, none] ∧ ((tHold n).elem 0).sending = [x] ∧ x.aid = tAct.aid ∧ x.flits = [] ∧ ((tHold n).part ((tHold n).ownOf 0 tAct.ctx)).frozen = false :=
  ⟨by decide +kernel, by decide +kernel, runs_of _, by decide +kernel⟩

theorem witness_UnitWords :
    (∀ i ∈ [Instr.alloc { oM with a := .z, lit := 1 }, .alloc { oM with a := .z, n9 := 0x100, lit := 256 }, .aqry oM, .split { oK with a := .z }, .wstat { oK with a := .z }, .rstat oK],
      (unitEffect i tW tC tAct).isSome = true) ∧ Runs tRec tC tAct ∧ (unitEffect (.walk { oK with a := .z }) tRec tC tAct).isSome = true :=
  ⟨by decide +kernel, ⟨rfl, rfl⟩, by decide +kernel⟩

theorem witness_ArrayWords : let n (k : Nat) : OpY := { oY with a := .z, b := .lit, lit := BitVec.ofNat 32 k }
    (∀ i ∈ [Instr.mcfg oY, .mbindOp oY, .mfreeOp oY, .mfreeCfg oY, .mdrn oY, .mstat oY, .scsnd oY, .scpr oY, .zskp oY], (arrayEffect i tW 0 tAct).isSome = true) ∧
    (∀ k ∈ [32, 0x20000], (arrayEffect (.mwld (n k)) tW 0 tAct).isSome = true) ∧ (arrayEffect (.mstat { oY with lit := 0x11 }) tW 0 tAct).isSome = true ∧
    ((arrayMsg (.mstat { oY with lit := 0x12 }) tAct).map fun r => (r.1.cdst.mode != 0, tAct.cont r.1.cdst)) = some (true, none) := by decide +kernel

theorem witness_MarkerWords : (tW.elem 0).memq = [] ∧ (tW.part (tW.ownOf 0 tAct.ctx)).frozen = false ∧ (∀ i ∈ [Instr.fence oS, .acq oS, .rel oS], (markEffect i tW 0 tAct).isSome = true) ∧
    (∀ i ∈ [Instr.fence { oS with rl := true, scope := 4 }, .rel { oS with scope := 4 }], (markEffect i tW 0 tAct).isSome = true) ∧
    (markEffect (.inval { oM with dst := ⟨0, 0, 0⟩ }) tW 0 tAct).isSome = true := by decide +kernel

theorem witness_ClusterWords : ∀ i ∈ [Instr.ldc { oM with a := .z }, .stc { oM with a := .z }], (clusterEffect i tW 0 tAct).isSome = true := by decide +kernel

theorem witness_LocalWords :
    (∀ i ∈ [Instr.mask oK, .unmsk oK, .mode oY, .mfreeW oY, .osec oS, .nop oX, .brk oX, .time oX, .rtime oX, .perf oX, .perf { oX with fn := 7 }, .metr oX, .csrr oX, .csrw { oX with csr := 0x101 },
      .csrw { oX with csr := 0x102 }, .csrw { oX with csr := 0x110 }, .csrw { oX with csr := 0x111 }, .erri oX, .rseed oX, .frzr oX], (localEffect i tW 0 tAct).isSome = true) ∧
    (localEffect (.oend oS) (tSect false) 0 tAct).isSome = true ∧ (localEffect (.mbindW { oY with a := .lit, lit := 1 }) tArr 0 tAct).isSome = true ∧
    ((nth (tW.elem 0).seqs 0 none).map fun x => x.aid) = some 0 ∧
    ∀ l ∈ [Late.mask 0 1 true, .mask 7 0x8000 false, .bypl 0 15, .idleCycles 0, .busRow 0xFE, .busCol 1, .brkEn true, .ended 0 0 3], ({ Elem.reset 0 with late := [l] } : Elem).late = [l] :=
  ⟨by decide +kernel, by decide +kernel, by decide +kernel, by decide +kernel, by decide +kernel⟩

theorem witness_LdlReads : (tAct.active oM.ty oM.pr oM.pn ≠ [] ∧ tAct.addr32 oM % alignOf oM.ty = 0 ∧ (tW.elem 0).ecc = [] ∧ (tW.elem 0).buffered tAct.fh = none ∧
    tW.localCheck 0 tAct.ctx ((tAct.active oM.ty oM.pr oM.pn).flatMap fun i => (elemPieces oM.ty 0 0 i 0).map fun p => p.la) = none) ∧
    tAct.active oM.ty 1 oM.pn = [] := by decide +kernel

/-- Element 0 with an earlier load of the activation that is not bound yet. -/
def tLate : State := tW.modElem 0 fun e => { e with memq := [{ org := tAct.org 0 0, kind := .load none }], seqNext := 1 }

theorem witness_StlStores : (let y : Acc := { org := tAct.org 0 1, kind := .stl, pcs := [] }
     Runs tLate tC tAct ∧ tLate.memWf = true ∧ tAct.active oM.ty oM.pr oM.pn ≠ [] ∧ accReady (tLate.elem 0).memq y = false ∧ settleOne tLate 0 = none) ∧ tW.memWf = true ∧ tAct.addr32 oM = 0 ∧ (tW.elem 0).buffered tAct.fh = none ∧
    tW.localCheck 0 tAct.ctx (((storeLanes tAct oM.ty 0 (tW.elem 0).rng 0 .z [0]).1.flatMap fun x => elemPieces oM.ty 0 0 x.1 x.2).map fun p => p.la) = none :=
  ⟨⟨⟨rfl, rfl⟩, by decide +kernel, by decide +kernel, by decide +kernel, by decide +kernel⟩, by decide +kernel, by decide +kernel, by decide +kernel, by decide +kernel⟩

theorem witness_VrndRounds : oA.d = .t 0 ∧ Runs tW tC tAct ∧ (tAct.guard oA.pr oA.pn 0 = true ∧ tAct.width = 1) ∧ tAct.guard oA.pr true 0 = false :=
  ⟨rfl, runs_of _, by decide +kernel, by decide +kernel⟩

theorem witness_SectionStores : Runs (tSect false) tC tAct ∧ ((tSect false).elem 0).buffered tAct.fh ≠ none ∧ tAct.active oM.ty oM.pr oM.pn = [0] ∧ tAct.addr32 oM = 0 ∧
    tW.localCheck 0 tAct.ctx [0, 1, 2, 3] = none ∧ clusCheck 0 [0, 1, 2, 3] = none ∧ tAct.cont oM.dst ≠ none :=
  ⟨⟨rfl, rfl⟩, by decide +kernel, by decide +kernel, by decide +kernel, by decide +kernel, by decide +kernel, by decide +kernel⟩

theorem witness_SynchronousFaults : let m : OpM := { oM with lit := 1 }
    let b : OpS := { oS with lit := 1 }
    (∀ i ∈ [Instr.trap oX, .ldl m, .stl m, .ldg m, .stg m, .gath { m with a := .z, lit := 1 }, .scat { m with a := .z, lit := 1 }, .amo b, .famo b, .cas b, .futn b, .fres b, .freg b, .walk oK, .oend oS, .send { oK with lit := 0 },
      .sendc { oK with lit := 0 }, .csrr { oX with csr := 0x108 }, .csrw { oX with csr := 0x120 }], (faultOf i tW 0 tAct).isSome = true) ∧
    ∀ i ∈ [Instr.kick oK, .fence oS, .phreg oS, .phdrp oS, .phwt oS, .phsw oS, .unbnd oS, .alloc oM, .aqry oM, .free oM, .tful oM, .copy oM, .lnch oK, .disp oK, .coll oK, .osec oS, .ldg oM, .stg oM,
      .gath oM, .scat oM, .amo oS, .famo oS, .cas oS, .futn oS, .fres oS, .freg oS, .walk oK], (faultOf i (tSect false) 0 tAct).isSome = true := by
  refine ⟨by decide +kernel, by decide +kernel⟩

theorem witness_InvalTells : Runs tW tC tAct ∧ (tW.elem 0).memq = [] ∧ (tAct.cont oM.dst).isSome = true ∧ FreeSlot tW 0 tAct 0 :=
  ⟨runs_of _, by decide +kernel, by decide +kernel, free_slot⟩

/-- Element 0 with node 0 a SEQ head, which is the trap destination of context 0. -/
def tTrap : State := tRec.modElem 0 fun e => { e with ctxs := e.ctxs.put 0 { e.ctxs.get {} 0 with trap := ⟨0, 0, 1⟩ } }

theorem witness_TrapEnds : Runs tTrap tC tAct ∧ tAct.guard oX.pr oX.pn 0 = true ∧ tC.seq < (tTrap.elem 0).seqs.length ∧ ((tTrap.elem 0).live tAct.fh).isSome = true ∧
    (tTrap.ctx 0 0).trap.mode ≠ 0 ∧ (tTrap.head 0 0 0).isSome = true ∧ slotP ((tTrap.elem 0).slot ((tTrap.elem 0).handles.get {} 0) 0) = false ∧ (tTrap.absOf 0 0 (hElem tAct.fh)).isSome = true :=
  ⟨⟨rfl, rfl⟩, by decide +kernel, by decide +kernel, by decide +kernel, by decide +kernel, by decide +kernel, by decide +kernel, by decide +kernel⟩

/-- Element 0 in the stack of packet 1, which the region runs in context 0, halted or not. -/
def tStack (h : Bool) : State := tW.modRegion 0 0 fun g => { g with run := some { pid := 1, x0 := 0, y0 := 0, w := 12, h := 8, ctxs := [0], halted := h } }

theorem witness_HaltEndsStack : Runs (tStack false) tC tAct ∧ (tStack false).regionOf 0 0 ≠ none ∧ ((tStack true).regionOf 0 0).isSome = true ∧ (tW.region 0 0).run = none :=
  ⟨⟨rfl, rfl⟩, by decide +kernel, by decide +kernel, by decide +kernel⟩

/-- The PF's error ring enabled at address 0 with 256 slots. -/
def tRing (wr : Nat) : State := tW.modFn 128 fun x => { x with ering := { x.ering with en := true, base := 0, sz := 0, wr := BitVec.ofNat 32 wr, rd := 0 } }

theorem witness_RingTakesRecords : (tRing 255).memWf = true ∧ (let r := ((tRing 256).fn 128).ering; (r.wr - r.rd).toNat = 2 ^ (r.sz + 8)) ∧
    (let r := ((tRing 255).fn 128).ering; r.en = true ∧ (r.wr - r.rd).toNat ≠ 2 ^ (r.sz + 8)) ∧ (tRing 255).hostFails (16 * 255) 16 = false ∧ (tW.fn 128).ering.en = false := by
  decide +kernel

-- Node heads: hypotheses met ----------------------------------------------------------------------------------------------------------------------------------

/-- Node 0 of element 0, with the head `o` of a kind, is chosen to start on the frame with handle 1, whose header is `h` and whose slots 0 and 1 hold `v`. -/
def tHead (w : Nat) (h : FrameHdr) (v : Nat) : State :=
  let s := State.reset.probe (BitVec.ofNat 96 w)
  let y := (s.elem 0).handles.get {} 0
  ({ s with agenda := [], cur := some ⟨0, 0, some ⟨1, 0, 0, 0⟩⟩ }).modElem 0 fun e => ((e.writeHdr y h).setSlot y 0 v).setSlot y 1 v

/-- A header with one pushed width and a parent. -/
def tHdr : FrameHdr := { nslot := 15, tag := 5, fill := 4, widths := [4], parent := 1, ret := ⟨1, 0, 2⟩ }

/-- The entry that describes the frame. -/
def tY : HEntry := { v := true, gen := 1, cons := 1, size := 130 }

theorem witness_ControlHeads : let s := tHead 0 tHdr (2 ^ 68)
    (s.elem 0).live 1 = some tY ∧ ∀ i ∈ [Instr.steer { oN with kf := 1 }, .steer oN, .merge oN, .gate oN, .join oN, .const oN, .prune oN, .exit { oN with lit := 4 }, .retn { oN with lit := 4 }],
      ∀ k o, headOp i = some (k, o) → (headSends i (startOf s 0 ⟨1, 0, 0, 0⟩ tY k o)).isSome = true := by
  refine ⟨by decide +kernel, ?_⟩
  intro i hi k o h
  simp only [List.mem_cons, List.not_mem_nil, or_false] at hi
  rcases hi with rfl | rfl | rfl | rfl | rfl | rfl | rfl | rfl | rfl <;> cases h <;> decide +kernel

theorem witness_SeqStarts : let s := tHead 0x0040000C4000001800000002 tHdr (2 ^ 68)
    s.cur = some ⟨0, 0, some ⟨1, 0, 0, 0⟩⟩ ∧ (s.elem 0).live 1 = some tY ∧ (started s 0 ⟨1, 0, 0, 0⟩ tY 0 oN).seqFree 0 0 = some 0 := by decide +kernel

theorem witness_SinkConsumes : (let s := tHead 0 tHdr (2 ^ 68); (s.elem 0).live 1 = some tY ∧ ((startOf s 0 ⟨1, 0, 0, 0⟩ tY 10 oN).ins.any fun j => j.e) = false) ∧
    ((startOf (tHead 0 tHdr (2 ^ 69 + 2 ^ 68)) 0 ⟨1, 0, 0, 0⟩ tY 10 oN).ins.any fun j => j.e) = true := by decide +kernel

theorem witness_FrameHeads : let s := tHead 0 tHdr (2 ^ 68)
    (∀ i ∈ [Instr.loop { oN with lit := 32 }, .call { oN with lit := 1 }, .next { oN with lit := 4 }], (newHeader i (startOf s 0 ⟨1, 0, 0, 0⟩ tY 4 (match i with | .next _ => { oN with lit := 4 } | .loop _ => { oN with lit := 32 } | _ => oN))).isSome = true) ∧
    (let s1 := started s 0 ⟨1, 0, 0, 0⟩ tY 4 oN; 0 ∈ s1.slotRange 0 0 ∧ nth (s1.elem 0).reqs 0 none = none ∧ ∀ n ∈ s1.slotRange 0 0, ¬n < 0) := by decide +kernel

-- Messages and events: hypotheses met -------------------------------------------------------------------------------------------------------------------------

/-- The state with one message, which has arrived. -/
def tMsg (s : State) (d : Place) (m : Msg) : State := { s with net := [{ src := .elem 1, dst := d, vn := 0, cls := 0, own := 0, msg := m }] }

/-- What the listed elements are, and an element after reset, every element is. -/
theorem elem_all (s : State) (f : Elem → Bool) (h0 : ∀ a, f (Elem.reset a) = true) (hr : s.elems.rows.all (fun r => f r.2) = true) (a : Nat) : f (s.elem a) = true := by
  have find (l : List (Nat × Elem)) : l.all (fun r => f r.2) = true → f ((rowsFind a l).getD (Elem.reset a)) = true := by
    intro hl
    induction l with
    | nil => exact h0 a
    | cons r l ih =>
      rw [List.all_cons, Bool.and_eq_true] at hl
      simp only [rowsFind]
      split
      · exact hl.1
      · exact ih hl.2
  exact find _ hr

theorem arrives_of (s : State) (d : Place) (m : Msg) (h : (s.part 0).frozen = false) (hr : s.elems.rows.all (fun r => r.2.sendq.isEmpty) = true) : Arrives (tMsg s d m) 0 d m 0 := by
  have hq (a : Nat) : (s.elem a).sendq = [] := by simpa using elem_all s (fun e => e.sendq.isEmpty) (fun _ => rfl) hr a
  refine ⟨{ src := .elem 1, dst := d, vn := 0, cls := 0, own := 0, msg := m }, ?_, rfl, rfl, rfl, ?_⟩
  · have : ((tMsg s d m).part 0).frozen = false := h
    simp [State.arrived, tMsg] at this ⊢
    exact this
  · have : ∀ x o, (({ s with net := [] } : State).storageAhead x o true) = false := by
      intro x o
      have e : (({ s with net := [] } : State).elem o.elem).sendq = [] := hq _
      simp [State.storageAhead, e]
    unfold State.inOrder
    split <;> simp_all [State.dropFlight, tMsg, dropAt]

theorem no_flips (s : State) (hr : s.elems.rows.all (fun r => r.2.ecc.isEmpty) = true) (a : Nat) : (s.elem a).ecc = [] := by
  simpa using elem_all s (fun e => e.ecc.isEmpty) (fun _ => rfl) hr a

theorem arrives_tW (d : Place) (m : Msg) : Arrives (tMsg tW d m) 0 d m 0 := arrives_of tW d m (by decide +kernel) (by decide +kernel)
/-- A request of element 1 for 16 granules of pool 0, for a data block. -/
def tReq (pool gran : Nat) : AllocReq := { org := { elem := 1, slot := some 0 }, target := 0, ctx := 0, pool := pool, gran := gran, alog := 0, cons := 1, key := 7 }

/-- Element 0 with two requests on list 0, the window one of them. -/
def tList : State := tW.modElem 0 fun e => { e with lists := e.lists.put 0 [tReq 0 16, tReq 0 1], win := e.win.put 0 1 }

/-- List 0 is served at its head, or, behind a head that fits no longer, in its window; list 1 has no pool. -/
def tServe (gran gran2 : Nat) : State :=
  tW.modElem 0 fun e => { e with lists := (e.lists.put 0 [tReq 0 gran, tReq 0 gran2]).put 1 [tReq 1 1], win := e.win.put 0 2 }

theorem witness_AllocatorEvents :
    (let f (r : AllocReq) : State := (tMsg tW (.elem 0) (.alloc r)).dropFlight 0
     (f (tReq 1 16)).poolPart 0 0 1 false = none ∧ (f (tReq 0 16)).poolPart 0 0 0 false ≠ none ∧ (f (tReq 0 20000)).couldFit 0 (tReq 0 20000) = false ∧
     (f (tReq 0 12288)).couldFit 0 (tReq 0 12288) = true) ∧
    (let s := tW.modElem 0 fun e => { e with allocNext := 1 }; s.cycle < (s.elem 0).allocNext) ∧
    (let s := tServe 20000 20000
     (s.elem 0).allocNext ≤ s.cycle ∧ visitOrder (s.elem 0) = [0, 1] ∧ served s 0 0 = none ∧ served s 0 1 = none) ∧
    (∀ g ∈ [(16, 0), (20000, 1)], let s := tServe g.1 1
      s.memWf = true ∧ ((s.elem 0).lists.rows.map fun r => r.1).Nodup ∧ (s.elem 0).allocNext ≤ s.cycle ∧ visitOrder (s.elem 0) = [] ++ 0 :: [1] ∧
        ((served s 0 0).map fun x => x.1) = some g.2 ∧ (freeEntry (s.elem 0) (s.handleRange 0 0).2 (s.handleRange 0 0).1).isSome = true) ∧
    (let s := tServe 16 1
     let t := s.modElem 0 fun e => { e with lastList := 0 }
     visitOrder (t.elem 0) = [1] ++ 0 :: [] ∧ served t 0 1 = none ∧ (served t 0 0).isSome = true) ∧
    (tList.elem 0).win.get 0 0 < min 5 ((tList.elem 0).lists.get [] 0).length ∧ min 5 (((tServe 16 1).elem 0).lists.get [] 0).length ≤ ((tServe 16 1).elem 0).win.get 0 0 ∧
    (tList.refillAt 0 0 = none ∧ ((tList.elem 0).lists.get [] 0)[1]? = some (tReq 0 1)) ∧
    (∀ b ∈ [false, true], let s := tMsg tList (.elem 1) (.refill 0 0 (tReq 0 1).org b)
      s.refillAt 0 0 = some 0 ∧ (s.arrived 0).isSome = true ∧ (({ s with net := s.net.map fun f => { f with at_ := .cand } } : State).arrived 0) = none) ∧
    (∀ r ∈ [(tReq 0 1).org, { elem := 5 }], decide (((tList.elem 0).lists.get [] 0)[1]?.map (fun x => x.org) = some r) = decide (r.elem = 1)) ∧
    Arrives (tMsg tW (.elem 0) (.alloc (tReq 0 1))) 0 (.elem 0) (.alloc (tReq 0 1)) 0 :=
  ⟨by decide +kernel, by decide +kernel, by decide +kernel, by decide +kernel, by decide +kernel, by decide +kernel, by decide +kernel, by decide +kernel, by decide +kernel, by decide +kernel,
    arrives_tW _ _⟩

theorem witness_OwnerMessages : (tW.elem 0).live 1 = some tY ∧ (tY.cons < 2 ∧ 0 < tY.cons ∧ 1 = tY.cons) ∧ (255 < tY.cons + 255 ∧ tY.cons + 254 ≤ 255) ∧ (tW.elem 0).live 2 = none ∧
    (tW.elem 0).allocNext ≤ tW.cycle ∧ Arrives (tMsg tW (.elem 0) (.free {} 1 1)) 0 (.elem 0) (.free {} 1 1) 0 ∧ Arrives (tMsg tW (.elem 0) (.hold {} 1 254)) 0 (.elem 0) (.hold {} 1 254) 0 ∧
    Arrives (tMsg tW (.elem 0) (.tful {} 1 true)) 0 (.elem 0) (.tful {} 1 true) 0 ∧ (∀ k, Arrives (tMsg tW (.elem 0) (.aqry {} k 1 0)) 0 (.elem 0) (.aqry {} k 1 0) 0) ∧
    ((tW.ctx 0 0).pv.getLsbD 0 = true ∧ (tW.ctx 0 0).pv.getLsbD 1 = false ∧ ((tList.elem 0).lists.get [] 0).length = 2 ∧ (tList.elem 0).lists.get [] 1 = [] ∧ (tList.elem 0).allocNext ≤ tList.cycle) :=
  ⟨by decide +kernel, by decide, by decide, by decide +kernel, by decide +kernel, arrives_tW _ _, arrives_tW _ _, arrives_tW _ _, fun _ => arrives_tW _ _, by decide +kernel⟩

/-- Element 0 with node 0 a SEQ of two inputs, whose header names 16 slots and whose slot 0 holds `v`. -/
def tSlots (v : Nat) : State := tRec.modElem 0 fun e => (e.writeHdr tY tHdr).setSlot tY 0 v

/-- The head of node 0 changed: its kind and its class table entry for class 3, and COMP of the frame. -/
def tLand (w : NWord) (comp v : Nat) (ce : ClassEnt) : State := tRec.modElem 0 fun e =>
  ({ e with nodes := e.nodes.put 0 w, classes := e.classes.put 3 ce }.writeHdr tY { tHdr with comp := BitVec.ofNat 32 comp }).setSlot tY 0 v

/-- A SEQ of two inputs, and a JOIN. -/
def wSeq : NWord := w96 0x0040000C 0x40000018 2
def wJoin : NWord := w96 0x09000000 0 0

/-- What the first hypotheses of a landing are: the frame is live and the class declared. -/
def landsAt (s : State) (t : Token) : Bool :=
  let ce := (s.elem 0).classes.get {} (16 * s.tslotOf (clusNo 0) 0 + t.cls)
  ((s.elem 0).live t.fh == some tY) && ((!t.handler && t.cls == 0) || ce.valid) && (s.head 0 0 (if t.handler then ce.node else t.node)).isSome

theorem witness_TokensLand : (let t : Token := { fh := 1 }
     Arrives (tMsg (tSlots 0) (.elem 0) (.tok t)) 0 (.elem 0) (.tok t) 0 ∧ (tSlots 0).memWf = true) ∧ ((tSlots 0).elem 0).live 2 = none ∧ ((tSlots 0).elem 0).live 1 = some tY ∧
    (((tSlots 0).elem 0).classes.get {} (16 * (tSlots 0).tslotOf (clusNo 0) 0 + 3)).valid = false ∧ (tSlots 0).head 0 0 4095 = none ∧
    (let s := tLand wSeq 0 0 { valid := true }
     landsAt s { fh := 1 } = true ∧ landsAt s { fh := 1, cls := 3 } = true ∧ landsAt s { fh := 1, cls := 3, handler := true } = true ∧
      ((s.head 0 0 0).map fun r => (r.1, r.2.nin.toNat, r.2.slot.toNat)) = some (0, 1, 0) ∧ ((s.elem 0).readHdr tY).nslot = 15 ∧ slotP ((s.elem 0).slot tY 0) = false) ∧
    ((tLand (w96 0x0040001C 0x40000018 2) 0 0 {}).head 0 0 0).isSome = true ∧
    slotP (((tLand wSeq 0 (2 ^ 68) {}).elem 0).slot tY 0) = true ∧
    ∀ k ∈ [0, 1, 2], let s := tLand wJoin k 0 {}
      landsAt s { fh := 1 } = true ∧ ((s.head 0 0 0).map fun r => r.1) = some 9 ∧ ((s.elem 0).readHdr tY).comp = BitVec.ofNat 32 k ∧ slotP ((s.elem 0).slot tY 0) = false := by
  refine ⟨⟨arrives_of _ _ _ (by decide +kernel) (by decide +kernel), by decide +kernel⟩, by decide +kernel, by decide +kernel, by decide +kernel, by decide +kernel, by decide +kernel,
    by decide +kernel, by decide +kernel, by decide +kernel⟩

/-- Request slot 0 of element 1 holds a query. -/
def tAsk (k : ReqKind) : State := tW.modElem 1 fun e => { e with reqs := setAt e.reqs 0 (some { kind := k, target := 0, ctx := 0 }) }

/-- Element 0 with two requests on list 0, of which the one behind is that of slot 0 of element 1. -/
def tBehind : State := tW.modElem 0 fun e => { e with lists := e.lists.put 0 [{ tReq 0 16 with org := { elem := 1, slot := some 3 } }, tReq 0 1] }

theorem witness_AnswersArrive : (tReq 0 1).idle = false ∧ (tReq 0 1).put = none ∧ { tReq 0 1 with put := some {} }.put ≠ none ∧ { tReq 0 1 with idle := true }.idle = true ∧
    (tAsk .query).reqKind (tReq 0 1).org = some .query ∧ { tReq 0 1 with unit := some (0, 2) }.unit = some (0, 2) ∧ (tReq 0 1).unit = none ∧
    (((tBehind.elem 0).lists.get [] (4 * 0 + 0))[1]? = some (tReq 0 1) ∧
      ((tBehind.elem 0).lists.get [] (4 * 0 + 0)).findIdx? (fun r => r.org.elem == 1 && r.org.slot == some 0 && r.unit == none && r.key == 7) = some 1 ∧
      ∀ r ∈ (tBehind.elem 0).lists.get [] 0, r.key ≠ 6) ∧
    Arrives (tMsg tBehind (.elem 0) (.promote 1 0 none 0 0 7)) 0 (.elem 0) (.promote 1 0 none 0 0 7) 0 ∧
    (∀ t, Arrives (tMsg (tAsk .query) (.elem 1) (.reply (tReq 0 1).org t)) 0 (.elem 1) (.reply (tReq 0 1).org t) 0) ∧ ∀ d m, Arrives (tMsg tW d m) 0 d m 0 :=
  ⟨by decide, by decide, by decide, by decide, by decide +kernel, by decide, by decide, by decide +kernel, arrives_of _ _ _ (by decide +kernel) (by decide +kernel),
    fun _ => arrives_of _ _ _ (by decide +kernel) (by decide +kernel), fun _ _ => arrives_tW _ _⟩

/-- Unit 0 of cluster 0 walks a record of three steps in one dimension, one seed each, in plain or Morton order; element 0 is idle and its context names node 0 for idle frames. -/
def tWalk (order cursor hi : Nat) (split : Bool) : State :=
  let s := (tRec.modElem 0 fun e => { e with seqs := [none, none], idleCycles := 0, ctxs := e.ctxs.put 0 { e.ctxs.get {} 0 with idle := ⟨0, 0, 1⟩ } })
  s.modWalker 0 0 fun _ => { lr := { tile := [1, 1, 1, 1], ext := [3, 0, 0, 0], order := order, colq := 1, nslot := 3, split := split }, hi := hi, cursor := cursor, v := true }

/-- A split request of an earlier cycle at cluster 0, for the unit with the most left or for unit 0; unit 0 may be split or not. -/
def tAskSplit (near split : Bool) : State := { tMsg (tWalk 0 0 3 split) (.clus 0) (.splitReq { elem := 1 } 0 0 near 0 0 0) with cycle := 1 }

/-- The same where every unit is taken. -/
def tFull : State := (List.range 8).foldl (fun s u => s.modWalker 0 u fun w => { w with v := true }) (tAskSplit true true)

/-- A split at unit 0, which has emitted in this cycle. -/
def tSplit (s : State) : State := tMsg (s.modWalker 0 0 fun w => { w with next := 1 }) (.clus 0) (.split { elem := 1 } 0 (some 0) 1 0 0)

theorem witness_WalkerEvents : (tWalk 0 0 3 false).emits (idOfClus 0 0) ((tWalk 0 0 3 false).walker 0 0) = true ∧ ((tWalk 0 0 3 false).walker 0 0).lr.index 0 = some [0] ∧
    ((tWalk 2 3 4 false).emits (idOfClus 0 0) ((tWalk 2 3 4 false).walker 0 0) = true ∧ ((tWalk 2 3 4 false).walker 0 0).lr.index 3 = none) ∧
    ((tWalk 0 0 3 false).regionOf (idOfClus 0 0) 0 = some (0, 0) ∧ (((tWalk 0 0 3 false).walker 0 0).reqs.findIdx? fun q => q.isNone) = some 0) ∧
    (let s := tWalk 0 0 3 false; ∃ hd, (s.clus (clusNo 0)).hedges = [hd, {}] ∧ hd.v = true ∧ s.regionAt hd.own hd 0 = some 0 ∧ (s.elem 0).reqs.length = 8 ∧ (s.region hd.own 0).cur = some 0 ∧
      (s.head 0 0 (s.ctx 0 0).idle.node.toNat).isSome = true ∧ ((s.slotRange 0 0).find? fun i => (nth (s.elem 0).reqs i none).isNone) = some 0 ∧ (s.ctx 0 0).idle.mode ≠ 0 ∧
      (s.elem 0).ready = [] ∧ (s.elem 0).seqs = [none, none] ∧ (s.elem 0).lastBusy + (s.elem 0).idleCycles.toNat ≤ s.cycle ∧ (s.elem 0).idle = [] ∧
      (∀ q ∈ (s.elem 0).reqs, q = none) ∧ s.walkersLive hd.own 0 = true ∧ (s.part hd.own).frozen = false) ∧
    (∀ q ∈ [(true, true), (true, false), (false, true)], let s := tAskSplit q.1 q.2
      ∃ x, s.arrived 0 = some x ∧ x.dst = .clus 0 ∧ x.msg = .splitReq { elem := 1 } 0 0 q.1 0 0 0 ∧ 0 < s.cycle ∧ (s.dropFlight 0).requestAhead 0 0 1 = false ∧
        (s.freeUnit 0 0).isSome = true ∧ (s.nearest 0 0 0).isSome = q.2) ∧
    (let s := tFull; (s.arrived 0).isSome = true ∧ 0 < s.cycle ∧ (s.dropFlight 0).requestAhead 0 0 1 = false ∧ s.freeUnit 0 0 = none) ∧
    (∀ w ∈ [(0, true), (1, true), (2, true), (0, false)], let s := tSplit (tWalk 0 w.1 3 w.2)
      ∃ x, s.arrived 0 = some x ∧ x.dst = .clus 0 ∧ x.msg = .split { elem := 1 } 0 (some 0) 1 0 0 ∧ (s.dropFlight 0).splitAhead 0 0 x.since x.port = false ∧
        s.emits (idOfClus 0 (s.walker 0 0).home) (s.walker 0 0) = false ∧ 0 ∈ s.unitRange 0 0 ∧ (s.walker 0 0).v = true ∧ (s.walker 0 0).lr.ctx = 0 ∧ (s.walker 0 0).lr.region = 0 ∧
        (s.walker 0 0).lr.split = w.2 ∧ (s.walker 0 0).hi - (s.walker 0 0).cursor = 3 - w.1) ∧
    ((tW.walker 0 0).v = false ∧ (tW.walker 0 0).next ≤ tW.cycle) ∧
    Arrives (tMsg tW (.clus 0) (.wstat { elem := 1 } 0)) 0 (.clus 0) (.wstat { elem := 1 } 0) 0 := by
  refine ⟨by decide +kernel, by decide +kernel, by decide +kernel, by decide +kernel, ⟨{ v := true, w := 1, h := 1, shr := 3 }, by decide +kernel⟩, ?_, by decide +kernel, ?_,
    by decide +kernel, arrives_tW _ _⟩
  · intro q hq
    exact ⟨{ src := .elem 1, dst := .clus 0, vn := 0, cls := 0, own := 0, msg := .splitReq { elem := 1 } 0 0 q.1 0 0 0 }, by revert q hq; decide +kernel⟩
  · intro w hw
    exact ⟨{ src := .elem 1, dst := .clus 0, vn := 0, cls := 0, own := 0, msg := .split { elem := 1 } 0 (some 0) 1 0 0 }, by revert w hw; decide +kernel⟩

/-- Phaser 5 of cluster 0 with two participants, one of which has arrived `arr` times. -/
def tPh (arr : Nat) (op : PhOp) : State :=
  tMsg (tW.modClus 0 fun x => { x with phasers := x.phasers.put 5 { phase := 9, exp := 3, arr := BitVec.ofNat 16 arr } }) (.clus 0) (.ph { elem := 1, slot := some 0 } 5 op false 0)

/-- The same with a second message, a signal of element 2. -/
def tPh2 (op : PhOp) : State :=
  let s := tPh 1 op
  { s with net := s.net ++ [{ src := .elem 2, dst := .clus 0, vn := 0, cls := 0, own := 0, msg := .ph { elem := 2, slot := some 1 } 5 (.sig 10) false 0 }] }

def tRel : Cont := ⟨1, 0, 1⟩

theorem witness_PhaserEvents : (∀ op ∈ [PhOp.reg 1, .sig 9, .drop 1 9, .wait 9 tRel false, .sigWait 9 9 tRel false], ((tPh 1 op).phaser 0 5).ripe false = false) ∧
    (({ (tPh 2 (.sig 9)).phaser 0 5 with arr := 3 } : Phaser).ripe false = true ∧ ({ (tPh 1 (.sig 9)).phaser 0 5 with arr := 2 } : Phaser).ripe false = false ∧
      ((tPh 2 (.sig 9)).phaser 0 5).hv = false) ∧ ({ exp := 65535 } : Phaser).ripe false = false ∧
    (let x := (tPh 1 (.drop 1 9)).phaser 0 5; x.arr < x.exp ∧ x.arr < x.exp - 1 ∧ x.exp ≠ 0) ∧ ((8 : Word) - 9).msb = true ∧
    (tPh 1 (.wait 9 tRel false)).absId ((tPh 1 (.wait 9 tRel false)).hedgeOf 0) (hElem tRel.fh) = some 0 ∧
    (∀ op ∈ [PhOp.reg 3, .sig 9, .drop 1 9, .wait 9 tRel false, .sigWait 9 9 tRel false], (tPh2 op).phaser 0 5 = (tPh 1 op).phaser 0 5 ∧
      ∀ r ∈ [(0, 1), (1, 0)], ((tPh2 op).arrived r.1).isSome = true ∧
        ((((tPh2 op).dropFlight r.1).arrived 0).map fun z => (z.dst, z.msg)) = some (Place.clus 0, if r.1 = 0 then .ph { elem := 2, slot := some 1 } 5 (.sig 10) false 0 else .ph { elem := 1, slot := some 0 } 5 op false 0)) ∧
    ∀ op, Arrives (tPh 1 op) 0 (.clus 0) (.ph { elem := 1, slot := some 0 } 5 op false 0) 0 :=
  ⟨by decide +kernel, by decide +kernel, by decide +kernel, by decide +kernel, by decide, by decide +kernel, by decide +kernel,
    fun _ => arrives_of _ _ _ (by decide +kernel) (by decide +kernel)⟩

/-- Cluster 0 with two bindings of phaser 5. -/
def tBind : State := tW.modClus 0 fun x => { x with binds := [⟨5, 0, 1, 1⟩, ⟨5, 0, 4, 2⟩] }

theorem witness_LinksAndBindings : ((tSlots 0).contSlot 0 tRel).isSome = true ∧ (tSlots 0).memWf = true ∧ bindCode (tBind.clus 0).binds 0 5 128 128 = 0 ∧
    bindCode (tBind.clus 0).binds 0 5 0 0 ≠ 0 ∧ (let b : BindEnt := ⟨5, 0, 4, 2⟩; (tBind.clus 0).binds = [⟨5, 0, 1, 1⟩] ++ b :: [] ∧ b ∉ [(⟨5, 0, 1, 1⟩ : BindEnt)]) ∧
    Arrives (tMsg (tSlots 0) (.elem 0) (.link tRel 1)) 0 (.elem 0) (.link tRel 1) 0 ∧ Arrives (tMsg (tSlots 1) (.elem 0) (.release tRel 9 [] [] true)) 0 (.elem 0) (.release tRel 9 [] [] true) 0 ∧
    Arrives (tMsg tBind (.clus 0) (.bind { slot := some 0 } 5 512 256 true)) 0 (.clus 0) (.bind { slot := some 0 } 5 512 256 true) 0 :=
  ⟨by decide +kernel, by decide +kernel, by decide +kernel, by decide +kernel, by decide +kernel, arrives_of _ _ _ (by decide +kernel) (by decide +kernel),
    arrives_of _ _ _ (by decide +kernel) (by decide +kernel), arrives_of _ _ _ (by decide +kernel) (by decide +kernel)⟩

/-- Element 0 with one item in its send queue. -/
def tSend (m : Msg) (fh : Word) : State := tW.modElem 0 fun e => { e with sendq := [⟨{ elem := 0, fh := fh, slot := some 0 }, m, none, false, false⟩] }

/-- One flight of element 1 to element 0, at a place of its way, with the bits that links have flipped. -/
def tFlight (p : FlitAt) (route : List Nat) (noise : Nat) : Flight :=
  { src := .elem 1, dst := .elem 0, vn := 0, cls := 0, own := 0, msg := .ack {} 0, route := route, at_ := p, noise := noise }
def tFly (p : FlitAt) (route : List Nat) (noise : Nat) : State := { tW with net := [tFlight p route noise] }

/-- An output of the memory plane, and an atomic request of element `a` that is a candidate there, by the port `port`. -/
def tOut : Nat := 2 ^ 20 + 5
def tReqFlit (a port own : Nat) (sat : Option Nat) : Flight :=
  { src := .elem a, dst := .slice 3, vn := 4, cls := 0, own := own, msg := .mreq { elem := a, seq := a } 2 256, route := [tOut], port := port, stamp := a, at_ := .cand, sat := sat }
def tAtomic (a : Nat) : Acc := { org := { elem := a, seq := a }, kind := .atomic ⟨0, .n32, 5, 0, none, false⟩, pcs := wordPieces 256 4, xl := [⟨0, 2 ^ 16, 2 ^ 20, 0, false, false⟩] }
/-- Elements 0 and 1 with such an access each, both requests candidates; the turn at the output. -/
def tMeet (l : List Flight) (turn : Nat × Nat) : State :=
  let s := (tW.modElem 0 fun e => { e with memq := [tAtomic 0] }).modElem 1 fun e => { e with memq := [tAtomic 1] }
  { s with net := l, drr := s.drr.put tOut turn }

theorem witness_TransportEvents :
    (let s := (tW.modElem 0 fun e => { e with sendq := [⟨{ elem := 0, ctx := 4 }, .tok { fh := 9 }, none, false, false⟩, ⟨{ elem := 0, fh := 1 }, .tok { fh := 1 }, none, false, false⟩] })
     let s1 := (s.modClus 0 fun x => { x with hedges := [{ v := true, w := 1, h := 1, shr := 1 }, { v := true, own := 9, w := 1, h := 1, shr := 1 }] }).modPart 9 fun x => { x with frozen := true }
     (s1.part (s1.ownOf 0 4)).frozen = true ∧ (s1.part (s1.ownOf 0 0)).frozen = false ∧ s1.mayLeave ⟨{ elem := 0, fh := 1 }, .tok { fh := 1 }, none, false, false⟩ = true) ∧
    (2 ^ 20 ≤ tOut ∧ (∀ x ∈ tW.net, tW.isCand x tOut = false) ∧ tOut ∉ tW.egress ∧ outWidth tOut ≤ 16) ∧
    (∀ t ∈ [(0, 40), (126, 0)], let l := (List.range 16).map fun k => tReqFlit 5 (2 ^ 20 + 100 + k) 0 none
      let s := tMeet l t
      (∃ x ∈ s.net, s.isCand x tOut = true) ∧ (∀ x ∈ s.net, x.own < 128) ∧ (∀ x ∈ s.net, ∀ y ∈ s.net, s.flitsAlike x y = false) ∧ (∀ x ∈ s.net, x.sat = none) ∧
        (s.net.filter fun x => s.isCand x tOut && x.own == 0).length = 16 ∧ s.drr.get (127, 0) tOut = t) ∧
    (let x := tReqFlit 0 (2 ^ 20 + 100) 0 none
     let z := tReqFlit 1 (2 ^ 20 + 101) 0 none
     let s := tMeet [x, z] (127, 0)
     tOut ∉ s.egress ∧ s.isCand x tOut = true ∧ s.isCand z tOut = true ∧ s.beats tOut x z = true ∧ s.beats tOut z x = false ∧ s.flitsAlike x z = true ∧ s.carried x = some (0, tAtomic 0) ∧
      s.carried z = some (1, tAtomic 1) ∧ (tAtomic 0).joined = [] ∧ (tAtomic 0).alone = none) ∧
    (let s := tMeet [tReqFlit 5 (2 ^ 20 + 100) 0 (some 3), tReqFlit 6 (2 ^ 20 + 101) 9 none] (9, 4); (s.net.filter fun x => s.isCand x tOut).length = 2) ∧
    (let s := tSend (.tok { fh := 1 }) 1; ∃ i, (s.elem 0).sendq = [i] ∧ i.org.elem = 0 ∧ (s.part (s.ownOf 0 i.org.ctx)).frozen = false ∧ s.mayLeave i = true ∧ i.msg = .tok { fh := 1 } ∧
      s.absOf 0 i.org.ctx (hElem 1) = some 0) ∧
    (∀ n ∈ [0, 1], let s := tFly .link [] n
      let x := tFlight .link [] n
      s.net[0]? = some x ∧ x.at_ = .link ∧ (∀ y ∈ s.net, y.at_ = .link → y.port = x.port → y.vn = x.vn → x.stamp ≤ y.stamp) ∧ x.noise = n ∧ s.admits (State.landing x) x.own = true) ∧
    (tFly .link [] 0).admits (State.landing (tFlight .link [] 0)) 3 = false ∧
    (let x := tFlight .link [] 1
     let w := (State.flitBits x + x.chk) ^^^ x.noise
     w % 2 ^ 32 ≠ State.crc32c (w / 2 ^ 32) 224) ∧
    ((7 : Nat) < 2 ^ 20 ∧ 7 ∉ (tFly .cand [7] 0).egress ∧ (tFly .cand [7] 0).isCand (tFlight .cand [7] 0) 7 = true ∧ 7 ∈ ({ tFly .cand [7] 0 with egress := [7] } : State).egress) ∧
    (tW.localCheck 0 0 [0, 3] = none ∧ (tW.elem 0).ecc = [] ∧ (tW.elem 1).buffered 0 = none) ∧
    (let o : Org := { elem := 0, fh := 1 }
     (((tW.memqDrop 0 o.seq).settle 0).elem 0).sects = [] ∧
      ∀ k ∈ [(0, false), (65, true)], let s := (tSect false).modElem 0 fun e => { e with sects := e.sects.map fun x => { x with buf := (List.range k.1).map fun i => (32 * i, 0xFF, 0) } }
        (((((s.memqDrop 0 o.seq).settle 0).elem 0).sects.find? fun x => x.issued 0 o && !x.wait && !x.direct).map fun y =>
          decide (64 < bufEntries (bufStore y 0 [{ va := 3, la := 5, val := 9 }]))) = some k.2) ∧
    ∀ m, Arrives (tMsg tW (.elem 0) m) 0 (.elem 0) m 0 :=
  ⟨by decide +kernel, by decide +kernel, by decide +kernel, by decide +kernel, by decide +kernel, ⟨⟨{ elem := 0, fh := 1, slot := some 0 }, .tok { fh := 1 }, none, false, false⟩, by decide +kernel⟩, by decide +kernel, by decide +kernel, by decide +kernel, by decide +kernel, by decide +kernel,
    by decide +kernel, fun _ => arrives_tW _ _⟩

/-- An array of one element, and the entries of its operand and result buffers. -/
def tFireArr (fir : Bool) : ArrEnt :=
  { origin := 0, rows := 1, cols := 1, n := 8, m := 32, af := .bf16, wf := .bf16, f := .f32, fir := fir, bind := some (mkHandle 0 0 1, mkHandle 0 1 1, {}) }
def tYd (full : Bool) : HEntry := { v := true, gen := 1, cons := 1, base := 256, size := 130, fe := full }

/-- Element 0 is an array of one element, with its operation bound: activations at handle 1, results at the handle of entry 1, weights at that of entry 2. -/
def tFire (fir full : Bool) : State :=
  (tW.modElem 0 fun e => { e with
    handles := ((e.handles.put 0 { tY with fe := !full }).put 1 (tYd full)).put 2 { v := true, gen := 1, cons := 1, base := 512, size := 130, fe := true }
    wbuf := some (mkHandle 0 2 1) }).modClus 0 fun x => { x with
    arrays := ⟨[(0, tFireArr fir)]⟩ }

/-- The same array with activations of e4m3, whose scale tile is at the handle of entry 3, full; SCSND may have named it again. -/
def tScaled (fir fresh : Bool) : State :=
  let h := mkHandle 0 3 1
  ((tFire fir false).modElem 0 fun e => { e with handles := e.handles.put 3 { v := true, gen := 1, cons := 1, base := 1024, size := 130, fe := true } }).modClus 0 fun x => { x with
    arrays := ⟨[(0, { tFireArr fir with af := .e4m3, scn := some h, used := some h, fresh := fresh })]⟩ }

/-- The controller has an MDRN at the head of its queue, whose activation tile is full or not. -/
def tDrain (after passed full : Bool) : State :=
  ((tFire false false).modElem 0 fun e => { e with handles := e.handles.put 0 { tY with fe := full } }).modClus 0 fun x => { x with
    arrMsgs := [{ org := {}, op := .mdrn 0 after, drain := passed }] }

/-- What a firing needs but the tags of its scale tile and its buffers (R181). -/
def ready (s : State) (x : ArrEnt) (ya yd : HEntry) : Prop :=
  (s.clus 0).arrays.find? 0 = some x ∧ x.bind = some (mkHandle 0 0 1, mkHandle 0 1 1, {}) ∧ s.handleAt 0 0 (mkHandle 0 0 1) = some (0, ya) ∧
  s.handleAt 0 0 (mkHandle 0 1 1) = some (0, yd) ∧ (s.clus 0).arrNext ≤ s.cycle ∧ x.fir = false ∧ s.waitingDrain 0 x = none ∧ ya.fe = true ∧ yd.fe = false ∧
  (∀ j ∈ x.members, ((s.buffer 0 j).map fun y => y.fe && decide (bufferNeed x ≤ 32 * y.size)) = some true) ∧
  packedBytes x.af (x.m * x.k) ≤ 32 * ya.size ∧ packedBytes x.f (x.m * x.n) ≤ 32 * yd.size ∧ (s.part (s.ownOf 0 0)).frozen = false

theorem witness_ArrayEvents :
    (let e := ((tFire false false).modElem 0 fun e => { e with handles := e.handles.put 2 { e.handles.get {} 2 with fe := false } }).elem 0
     ((0xFF : Nat) = 0xFF ∧ (0 = e.busCol.toNat ∨ (0 : Nat) = 0xFF)) ∧ e.wbuf = some (mkHandle 0 2 1) ∧ ((e.live (mkHandle 0 2 1)).map fun y => (y.size, y.fe)) = some (130, false) ∧ 32 * 129 + 32 ≤ 32 * 130) ∧
    ((∀ i < 96, (0 = (tW.elem (idOfClus 0 i)).busRow.toNat ∧ 0 = (tW.elem (idOfClus 0 i)).busCol.toNat) ↔ i = 0) ∧ (tW.elem (idOfClus 0 0)).wbuf = none) ∧
    ((tW.clus 0).arrNext ≤ tW.cycle ∧ (tW.clus 0).msgNext ≤ tW.cycle ∧ (tW.clus 0).arrMsgs = [] ∧ 0 ∉ (tW.clus 0).noCfg ∧ ((tArr.arrayAt 0 0).isSome = true)) ∧
    ready (tFire false false) (tFireArr false) { tY with fe := true } (tYd false) ∧ (tFireArr false).af = .bf16 ∧ (∀ b, ((tFire false false).elem b).ecc = []) ∧
    (let s := tScaled false false
     let h := mkHandle 0 3 1
     let x := { tFireArr false with af := .e4m3, scn := some h, used := some h }
     ready s x { tY with fe := true } (tYd false) ∧ ((x.scn.bind fun h => s.handleAt 0 0 h).map fun r => r.2.fe && decide (4 * (x.m * x.k / 32) ≤ 32 * r.2.size)) = some true) ∧
    (∀ b, ((tScaled false false).elem b).ecc = []) ∧
    (let s := tFire true false; ∃ x ya, (s.clus 0).arrays.rows = [(0, x)] ∧ (s.clus 0).arrMsgs = [] ∧ x.fir = true ∧ x.bind = some (mkHandle 0 0 1, mkHandle 0 1 1, {}) ∧ x.af = .bf16 ∧
      s.handleAt 0 0 (mkHandle 0 0 1) = some (0, ya)) ∧
    (∀ b ∈ [false, true], let s := tScaled true b
      (s.clus 0).arrays.rows.map (fun r => r.2.fir && r.2.af == .e4m3 && r.2.fresh == b && r.2.used == some (mkHandle 0 3 1)) = [true] ∧
        (s.handleAt 0 0 (mkHandle 0 0 1)).isSome = true ∧ (s.handleAt 0 0 (mkHandle 0 3 1)).isSome = true) ∧
    (∀ d ∈ [(false, false, true), (true, true, true), (true, false, false)], let s := tDrain d.1 d.2.1 d.2.2
      (s.clus 0).arrays.rows = [(0, tFireArr false)] ∧ (s.clus 0).arrMsgs = [{ org := {}, op := .mdrn 0 d.1, drain := d.2.1 }] ∧ elemIdx 0 = (tFireArr false).origin ∧
        s.handleAt 0 0 (mkHandle 0 1 1) = some (0, tYd false) ∧ (d.1 = false ∨ d.2.1 = true ∨ s.tagOf {} (mkHandle 0 0 1) = some false) ∧ (s.clus 0).arrNext ≤ s.cycle ∧
        (tYd false).fe = false ∧ (s.part (s.ownOf 0 0)).frozen = false) ∧
    Arrives (tMsg tW (.clus 0) (.mwld {} 0xFF 0 0 [] false false)) 0 (.clus 0) (.mwld {} 0xFF 0 0 [] false false) 0 ∧
    Arrives (tMsg tArr (.clus 0) (.arr {} .mstat)) 0 (.clus 0) (.arr {} .mstat) 0 :=
  ⟨by decide +kernel, by decide +kernel, by decide +kernel, by unfold ready; decide +kernel, rfl, no_flips _ (by decide +kernel), by unfold ready; decide +kernel, no_flips _ (by decide +kernel),
    ⟨tFireArr true, { tY with fe := true }, by decide +kernel⟩, by decide +kernel, by decide +kernel, arrives_tW _ _, arrives_of _ _ _ (by decide +kernel) (by decide +kernel)⟩

/-- A page of module memory. -/
def tLeaf : Leaf := ⟨0, 2 ^ 16, 2 ^ 20, 0, false, false⟩

/-- Element 0 with one access of 4 or 8 bytes at address 256 and its page's translation; the word there is `v`. -/
def tAcc (k : AccKind) (aq : Bool) (n v : Nat) : State :=
  { (tW.modElem 0 fun e => { e with memq := [{ org := { elem := 0, fh := 1, slot := some 0 }, kind := k, aq := aq, pcs := wordPieces 256 n, xl := [tLeaf] }] }) with
    phys := Memory.write [] (2 ^ 20 + 256) (leBytes 8 v) }

def tAccOf (s : State) : Acc := nth (s.elem 0).memq 0 { org := {}, kind := .store }

theorem tSole (k : AccKind) (aq : Bool) (n v : Nat)
    (h : let s := tAcc k aq n v; (s.elem 0).memq = [tAccOf s] ∧ (tAccOf s).joined = [] ∧ (s.translated 0 (tAccOf s)).toOption = some [tLeaf] ∧ s.dev.inject = []) :
    Sole (tAcc k aq n v) 0 (tAccOf (tAcc k aq n v)) [tLeaf] := by
  obtain ⟨h1, h2, h3, h4⟩ := h
  refine ⟨h1, h2, ?_, h4⟩
  revert h3
  cases (tAcc k aq n v).translated 0 (tAccOf (tAcc k aq n v)) with
  | error e => intro h; cases h
  | ok x => intro h; cases h; rfl

/-- The same with its request at the slice of its line. -/
def tSent (k : AccKind) (aq : Bool) (n v : Nat) : State :=
  let s := tAcc k aq n v
  { s with net := [{ src := .elem 0, dst := .slice (homeSlice (2 ^ 20 + 256)), vn := 4, cls := 0, own := 0, msg := .mreq (tAccOf s).org 2 (2 ^ 20 + 256) }] }

theorem tSole1 (k : AccKind) (aq : Bool) (n v : Nat)
    (h : let s := tSent k aq n v; (s.elem 0).memq = [tAccOf s] ∧ (tAccOf s).joined = [] ∧ (s.translated 0 (tAccOf s)).toOption = some [tLeaf] ∧ s.dev.inject = [] ∧
      s.reqFlit 0 (tAccOf s) = some 0 ∧ s.landed 0 = true) :
    Sole (tSent k aq n v) 0 (tAccOf (tSent k aq n v)) [tLeaf] ∧ AtHome (tSent k aq n v) 0 (tAccOf (tSent k aq n v)) 0 := by
  obtain ⟨h1, h2, h3, h4, h5, h6⟩ := h
  refine ⟨⟨h1, h2, ?_, h4⟩, h5, h6⟩
  revert h3
  cases (tSent k aq n v).translated 0 (tAccOf (tSent k aq n v)) with
  | error e => intro h; cases h
  | ok x => intro h; cases h; rfl

/-- The read cache of cluster 0 holds line 2 for tenant 0. -/
def tCached (s : State) : State := s.modClus 0 fun x => { x with rc := [{ ts := 0, line := 2, data := List.replicate 128 0x3C }] }

/-- A store that has performed its line and waits for nothing more. -/
def tStored : State := (tAcc .store false 4 7).modElem 0 fun e => { e with memq := e.memq.map fun y => { y with rl := true, scope := 4, done := [2] } }

theorem witness_HomeAccesses : let op : AtomOp := ⟨0, .n32, 5, 0, none, true⟩
    (let s := tAcc .store false 4 7
     Sole s 0 (tAccOf s) [tLeaf] ∧ OneLine (tAccOf s) [tLeaf] 2 tLeaf ∧ Going s 0 (tAccOf s) ∧ s.memWf = true ∧ (s.part (s.ownOf 0 0)).frozen = false) ∧
    (let s := tSent .store false 4 7
     (Sole s 0 (tAccOf s) [tLeaf] ∧ AtHome s 0 (tAccOf s) 0) ∧ OneLine (tAccOf s) [tLeaf] 2 tLeaf ∧ ((tAccOf s).pcs.map fun q => q.va).Nodup ∧ s.memWf = true ∧
      (let y := tAccOf s; ¬(y.rl = true ∧ y.scope = 4) ∧ { y with rl := true, scope := 4 }.rl = true) ∧ tLeaf.va % 128 = 0 ∧ tLeaf.pa % 128 = 0 ∧
      ∃ g < 4, nth (s.slices.get {} (homeSlice (State.leafAddr tLeaf 256))).ways g .off = .on) ∧
    ((tStored.elem 0).memq = [tAccOf tStored] ∧ (tAccOf tStored).joined = [] ∧ Going tStored 0 (tAccOf tStored) ∧ (tStored.translated 0 (tAccOf tStored)).toOption = some [tLeaf] ∧
      tStored.dev.inject = [] ∧ (tAccOf tStored).kind = .store ∧ (∀ q ∈ (tAccOf tStored).pcs, q.va / 128 ∈ (tAccOf tStored).done) ∧ tStored.hostq = []) ∧
    (let s := tSent (.load (some 0)) false 4 7
     (Sole s 0 (tAccOf s) [tLeaf] ∧ AtHome s 0 (tAccOf s) 0) ∧ s.poison = [] ∧ (tAcc (.load (some 0)) false 4 7).rcLine 0 0 2 = none ∧ Going (tAcc (.load (some 0)) false 4 7) 0 (tAccOf s)) ∧
    (let s := tCached (tAcc (.load (some 0)) false 4 7)
     (s.elem 0).memq = [tAccOf s] ∧ Going s 0 (tAccOf s) ∧ (s.translated 0 (tAccOf s)).toOption = some [tLeaf] ∧ ((s.rcLine 0 0 2).map fun z => z.bad) = some []) ∧
    (let s := tSent (.atomic op) false 4 7; (Sole s 0 (tAccOf s) [tLeaf] ∧ AtHome s 0 (tAccOf s) 0) ∧ s.leafAgain 0 256 tLeaf = tLeaf) ∧
    (let s := tAcc (.clean 0 4096) false 4 7; Sole s 0 (tAccOf s) [tLeaf] ∧ Going s 0 (tAccOf s)) ∧
    (let s := tSent (.pref false) false 4 7; Sole s 0 (tAccOf s) [tLeaf] ∧ AtHome s 0 (tAccOf s) 0) := by
  refine ⟨⟨tSole _ _ _ _ (by decide +kernel), by unfold OneLine; decide +kernel, by unfold Going; decide +kernel, by decide +kernel, by decide +kernel⟩,
    ⟨tSole1 _ _ _ _ (by decide +kernel), by unfold OneLine; decide +kernel, by decide +kernel, by decide +kernel, by decide +kernel, rfl, rfl, 0, by decide +kernel⟩,
    by unfold Going; decide +kernel, ⟨tSole1 _ _ _ _ (by decide +kernel), by decide +kernel, by decide +kernel, by unfold Going; decide +kernel⟩, by unfold Going; decide +kernel,
    ⟨tSole1 _ _ _ _ (by decide +kernel), by decide +kernel⟩, ⟨tSole _ _ _ _ (by decide +kernel), by unfold Going; decide +kernel⟩, tSole1 _ _ _ _ (by decide +kernel)⟩

/-- Element 0 with one access that has no translation; the quadrant's TLB has the page, or not. -/
def tMiss (va : Nat) (quad : Bool) : State :=
  { (tW.modElem 0 fun e => { e with memq := [{ org := { elem := 0 }, kind := .store, pcs := [{ va := va }] }] }) with
    quads := if quad then Table.empty.put (State.quadNo 0) [⟨0, 0, tLeaf⟩] else .empty }

/-- The page table of partition 0, from 4096 on: it maps the first 2 ^ 30 addresses to the module's first bytes. -/
def tTable (s : State) : State :=
  { s.modPart 0 fun x => { x with root := 4096, quota := 1 } with
    phys := Memory.write (Memory.write (Memory.write [] 4096 (leBytes 8 8193)) 8192 (leBytes 8 12289)) 12288 (leBytes 8 3) }

/-- Its one leaf. -/
def tGiga : Leaf := ⟨0, 2 ^ 30, 0, 0, false, false⟩

/-- The walkers' pool has one request of cluster 0, which a walker has or not, and an access of element 0 waits for it. -/
def tPool (on : Bool) : State :=
  let s := (tTable tW).modElem 0 fun e => { e with memq := [{ org := { elem := 0 }, kind := .store, pcs := [{ va := 8 }], walk := true }] }
  { s with pools := Table.empty.put 0 { reqs := [⟨0, 0, [0], on⟩] } }

theorem witness_TranslationEvents :
    (let s := tMiss (2 ^ 57) false; ∃ y, (s.elem 0).memq = [y] ∧ s.accGo 0 y = true ∧ y.walk = false ∧ s.lookAll 0 0 y.xl y.needs = ([], some (2 ^ 57, true))) ∧
    (let s := tMiss 512 true; ∃ y, (s.elem 0).memq = [y] ∧ s.accGo 0 y = true ∧ y.walk = false ∧ s.lookAll 0 0 y.xl y.needs = ([], some (512, false)) ∧
      State.tlbHit (s.quads.get [] (State.quadNo 0)) 0 512 = some tLeaf) ∧
    State.tlbHit ((tMiss 512 false).quads.get [] (State.quadNo 0)) 0 512 = none ∧
    (∀ on ∈ [false, true], let s := tPool on
     (s.pools.get {} 0).reqs = [⟨0, 0, [0], on⟩] ∧ 0 < (s.part 0).quota ∧ s.dev.inject = [] ∧ (s.xlate 0 (0 * 2 ^ 16)).toOption = some tGiga ∧ (s.elems.rows.map fun x => x.1).Nodup ∧
      ((s.elem 0).memq.map fun y => (y.walk, s.accPage 0 y, s.ownOf 0 y.org.ctx)) = [(true, some 0, 0)]) :=
  ⟨⟨tAccOf (tMiss (2 ^ 57) false), by decide +kernel⟩, ⟨tAccOf (tMiss 512 true), by decide +kernel⟩, by decide +kernel, by decide +kernel⟩

theorem witness_FutureEvents : ∀ k ∈ [AccKind.futn, .fres 9, .freg tRel], ∀ v ∈ [0, 2 ^ 62 + 2 ^ 14, 2 ^ 63 + 2 ^ 14, 3 * 2 ^ 62 + 2 ^ 14], let s := tSent k false 8 v
    (Sole s 0 (tAccOf s) [tLeaf] ∧ AtHome s 0 (tAccOf s) 0) ∧ OneLine (tAccOf s) [tLeaf] 2 tLeaf ∧ s.poison = [] ∧ s.memWf = true ∧ s.leafAgain 0 256 tLeaf = tLeaf ∧
      Memory.readN s.phys (State.leafAddr tLeaf 256) 8 = v ∧ s.absOf 0 0 (hElem tRel.fh) = some 0 ∧ s.absOf 0 0 (hElem (BitVec.ofNat 32 (v / 2 ^ 14 % 2 ^ 32))) = some 0 := by
  intro k hk v hv
  simp only [List.mem_cons, List.not_mem_nil, or_false] at hk hv
  rcases hk with rfl | rfl | rfl <;> rcases hv with rfl | rfl | rfl | rfl <;>
    exact ⟨tSole1 _ _ _ _ (by decide +kernel), by unfold OneLine; decide +kernel, by decide +kernel, by decide +kernel, by decide +kernel, by decide +kernel, by decide +kernel, by decide +kernel⟩

/-- Cluster 0 with one command of element 0 in its copy engines. -/
def tCmd (k : EngKind) (fin : Bool) (poison : Option Nat) : EngCmd :=
  { org := { elem := 0, slot := some 0 }, kind := k, aq := true, rl := false, scope := 0, xl := [tLeaf], finished := fin, poison := poison }

def tEng (k : EngKind) (fin : Bool) (poison : Option Nat) : State :=
  tW.modClus 0 fun x => { x with eng := [tCmd k fin poison] }

/-- A COPY between pages, of 200 bytes, and one whose destination's line ends first. -/
def kCopy (dst n : Nat) : EngKind := .copy false false false .n8 .n8 0 (BitVec.ofNat 64 dst) 64 n 1

/-- What a line of a COPY needs but the place of its bytes: the command, `m` bytes from 64 to `dst`. -/
def copyLine (k : EngKind) (n dst m : Nat) : Prop :=
  let s := tEng k false none
  let y := tCmd k false none
  (s.clus 0).eng = [y] ∧ s.engGo 0 0 y = true ∧ y.kind = k ∧ y.aq = true ∧ y.at_ = 0 ∧ s.lookAll 0 (s.ownOf 0 0) y.xl (State.engNeeds y) = ([tLeaf], none) ∧
  (∀ l ∈ [tLeaf], l.tier ≠ 2 ∧ l.nw = false ∧ l.va % 2 ^ 16 = 0 ∧ l.size % 2 ^ 16 = 0) ∧ s.dev.inject = [] ∧ s.poison = [] ∧ s.memWf = true ∧
  m = min n (min (128 - 64 % 128) (128 - dst % 128)) ∧ 0 < n ∧ (64 + n ≤ dst ∨ dst + n ≤ 64)

theorem witness_EngineEvents : copyLine (kCopy 1024 200) 200 1024 64 ∧ copyLine (kCopy 1096 200) 200 1096 56 ∧
    (∀ i < 64, ∀ j < 64, State.leafAddr (State.leafOf [tLeaf] (1024 + i)) (1024 + i) = State.leafAddr (State.leafOf [tLeaf] (1024 + j)) (1024 + j) → i = j) ∧
    (let y := { tCmd (kCopy 1024 200) false none with at_ := 200 }
     let s := tW.modClus 0 fun x => { x with eng := [y] }
     (s.clus 0).eng = [y] ∧ s.engGo 0 0 y = true ∧ y.at_ = 200) ∧
    (let k : EngKind := .gath (some 0) [{ va := 300, la := 4 }, { va := 8 }]
     let y := tCmd k false none
     (tEng k false none).engGo 0 0 y = true ∧ (tEng k false none).lookAll 0 0 y.xl (State.engNeeds y) = ([tLeaf], none) ∧
      ([{ va := 300, la := 4 }, { va := 8 }].find? fun q : Piece => q.va / 128 == nth [0, 2] y.at_ 0) = some { va := 8 }) ∧
    (let k : EngKind := .scat [[{ va := 8, val := 7 }, { va := 9, val := 8 }]]
     let y := tCmd k false none
     (tEng k false none).engGo 0 0 y = true ∧ (tEng k false none).lookAll 0 0 y.xl (State.engNeeds y) = ([tLeaf], none) ∧
      ([8, 9].map fun v => State.leafAddr (State.leafOf [tLeaf] v) v).Nodup ∧ tLeaf.va ≤ 8 ∧ 9 < tLeaf.va + tLeaf.size) ∧
    (∀ k ∈ [kCopy 1024 200, .gath none [], .scat []], ∀ c ∈ [none, some 0x52], ((tEng k true c).clus 0).eng = [tCmd k true c] ∧
      (tCmd k true c).finished = true ∧ (tCmd k true c).rl = false ∧ (tCmd k true c).poison = c ∧ (tCmd k true c).kind = k ∧ ((tEng k true c).part ((tEng k true c).ownOf 0 0)).frozen = false) :=
  ⟨by unfold copyLine; decide +kernel, by unfold copyLine; decide +kernel, by decide +kernel, by decide +kernel, by decide +kernel, by decide +kernel, by decide +kernel⟩

/-- Element 0 with a closed section instance at the cursor, which holds one byte and one token. -/
def tInst : Sect :=
  { num := 1, ctx := 0, fh := 1, key := 0, node := 0, ins := [], buf := [(64, 0xFF, 0x5A)], hold := [⟨{ elem := 0 }, .tok { fh := 1 }, none, false, false⟩], closed := true }
/-- The instance, with STCs, and one of the next key that has read a bank. -/
def tClosed (stcs : List (Org × Nat × Nat × Nat)) : State :=
  tW.modElem 0 fun e => { e with sects := [{ tInst with stcs := stcs }, { tInst with key := 1, fh := 2, buf := [], closed := false, sig := -1 }] }

theorem witness_SectionCommits : (∀ l ∈ [[], [({ elem := 0, slot := some 0 }, 0, 0, 1)]], let s := tClosed l
      let x : Sect := { tInst with stcs := l }
      s.memWf = true ∧ (s.elem 0).sects[0]? = some x ∧ s.regionOf 0 x.ctx = some (0, 0) ∧ x.closed = true ∧ x.key = (s.region 0 0).cursors.get 0 (16 * x.ctx + x.num) ∧
        (∀ y ∈ (s.elem 0).memq, y.org.fh ≠ x.fh) ∧ (s.part 0).frozen = false ∧ s.localCheck 0 0 [64] = none) ∧
    sectHits tInst (-1) = true ∧
    (tW.modElem 0 fun e => { e with thirds := setAt e.thirds 0 .off }).localCheck 0 0 [64] ≠ none := by decide +kernel

theorem ok_of {α ε : Type} {x : Except ε α} (h : x.toOption.isSome = true) : ∃ a, x = .ok a := by
  cases x with
  | error e => cases h
  | ok a => exact ⟨a, rfl⟩

theorem error_of {α ε : Type} {x : Except ε α} (h : x.toOption.isNone = true) : ∃ e, x = .error e := by
  cases x with
  | error e => exact ⟨e, rfl⟩
  | ok a => cases h

theorem ok_eq {α ε : Type} {x : Except ε α} {a : α} (h : x.toOption = some a) : x = .ok a := by
  cases x with
  | error e => cases h
  | ok b => cases h; rfl

/-- Element 0 with a request of key 7 that waits, and a snapshot of the region or none. -/
def tHorizon (snap : Option (Option Word × Nat)) : State :=
  { (tW.modElem 0 fun e => { e with reqs := setAt e.reqs 0 (some ⟨.alloc, 0, 0, 0, 7⟩), lists := e.lists.put 0 [{ tReq 0 1 with org := { elem := 0, slot := some 0 } }] }).modRegion 0 0 fun g => { g with snap := snap, snapAt := 0 } with cycle := 512 }

/-- Element 0 with a waking third, or with errors injected into its own storage. -/
def tThird (t : Third) (ecc : List Flip) : State :=
  tW.modElem 0 fun e => { e with thirds := setAt e.thirds 1 t, ecc := ecc, mem := Memory.write [] 0x20000 [7] }

/-- An error in a third that is on, correctable or not; the cluster has a tenant or none. -/
def tFlip (mask : Nat) : List Flip := [{ array := 0, at_ := 0x4000, mask := mask }]
def tScrub (mask : Nat) (owned : Bool) : State := if owned then tThird .on (tFlip mask) else (tThird .on (tFlip mask)).modClus 0 fun x => { x with hedges := [{}, {}] }

theorem witness_UpkeepEvents :
    (let g := (tHorizon none).region 0 0; g.used = true ∧ g.snap = none ∧ g.snapAt + 512 ≤ (tHorizon none).cycle ∧ ((tHorizon none).part 0).frozen = false ∧ (tHorizon none).waitingKeys 0 0 = [7]) ∧
    ((tHorizon (some (some 7, 3))).region 0 0).snap = some (some 7, 3) ∧
    ((tThird (.waking 0) []).memWf = true ∧ nth ((tThird (.waking 0) []).elem 0).thirds 1 .on = .waking 0 ∧ 0 ≤ (tThird (.waking 0) []).now) ∧
    (nth ((tThird .on []).elem 0).thirds 1 .off = .on ∧ ∀ f ∈ ((tThird .on [{ array := 0, at_ := 0x3FFF, mask := 1 }, { array := 1, at_ := 0x4000, mask := 1 }]).elem 0).ecc,
      f.array ≠ 0 ∨ f.at_ / 0x4000 ≠ 1) ∧
    (∀ m ∈ [(1, false), (3, true)], ∀ b ∈ [false, true], let s := tScrub m.1 b
      (s.elem 0).ecc = tFlip m.1 ∧ 0x4000 / 0x4000 = 1 ∧ (s.elem 0).errlog = [] ∧ (tFlip m.1).map Flip.ue = [m.2] ∧ (s.tenantOf 0 1).isSome = b ∧
        nth (s.elem 0).thirds 1 .off = .on ∧ (b = true → (s.hedge (clusNo 0) (s.ctxNow 0 0)).v = true)) ∧
    nth ((tW.modClus 0 fun x => { x with ways := setAt x.ways 2 (.waking 0) }).clus 0).ways 2 .on = .waking 0 ∧
    nth (({ tW with slices := Table.empty.put 5 { ways := [.waking 0, .on, .on, .on] } } : State).slices.get {} 5).ways 0 .on = .waking 0 := by decide +kernel

/-- Partition 0 with its page table, and in its pages at 2 ^ 20 the bytes `bs`; queue 0 of its VF has its ring there. -/
def tQueue (bs : List Byte) (x : Queue) : State :=
  let s := tTable tW
  { s with phys := Memory.write s.phys (2 ^ 20) bs, fns := Table.empty.put 0 { bound := true, queues := Table.empty.put 0 { x with qbase := 2 ^ 20, qcb := 2 ^ 21 } } }

/-- A NOP packet (R261, R263), marked or not as waiting for those before it. -/
def tNop (b : Bool) : List Byte := leBytes 64 (2 ^ 31 + b.toNat * 2 ^ 30 + 8 * 256)

/-- A queue that runs, with packets up to K, or one that is off. -/
def qRun (kept : Word) : Queue := { en := true, state := 1, kept := kept }
def qOff : Queue := {}

theorem witness_RegisterEvents :
    (let s := tQueue [] (qRun 4); (s.queue 0 0).kept = 4 ∧ ((16 : Word) - 4 ≠ 0 ∧ ((16 : Word) - 4).toNat < 2 ^ 31 ∧ ((16 : Word) - (s.queue 0 0).read).toNat ≤ 2 ^ ((s.queue 0 0).sz + 4)) ∧
      2 ^ ((s.queue 0 0).sz + 4) < ((17 : Word) - (s.queue 0 0).read).toNat ∧ 2 ^ 31 ≤ ((3 : Word) - 4).toNat ∧ (s.part (s.queueSlot 0 0)).frozen = false) ∧
    ((tQueue [] qOff).queue 0 0).en = false ∧ Arrives (tMsg (tQueue [] (qRun 4)) (.clus 0) (.kick {} 0 0 5)) 0 (.clus 0) (.kick {} 0 0 5) 0 ∧
    (∃ s2, ((tQueue [] qOff).modQueue 0 0 fun x => { x with en := true, state := 1 }).qcbWrite 0 0 = .ok s2) ∧
    (∃ c, ((tQueue [] qOff).modQueue 0 0 fun x => { x with en := true, state := 1, qcb := 2 ^ 40 }).qcbWrite 0 0 = .error c) ∧
    ((tQueue [] (qRun 4)).modPart 0 fun x => { x with frozen := true }).part ((tQueue [] (qRun 4)).queueSlot 0 0) = { (tQueue [] (qRun 4)).part 0 with frozen := true } ∧
    ((0x800C0000 : Word).getLsbD 31 = true ∧ (0x800C0000 : Word).toNat / 2 ^ 16 % 16 = 12 ∧ (0x800D0000 : Word).toNat / 2 ^ 16 % 16 = 13 ∧ (0x80000001 : Word).getLsbD 0 = true) ∧
    (((tQueue [] { qRun 4 with state := 3 }).queue 0 0).state = 3 ∧ ((tQueue [] (qRun 4)).queue 0 0).state ≠ 2) ∧
    ({ tW.dev with mode := .service }.mode ≠ .off ∧ tW.dev.admin.busy = false ∧ nth tW.dev.admin.cmd 0 0 = 0) ∧
    (let s := tW.modFn 0 fun x => { x with icbs := x.icbs.put 1 { pend := 1 } }; ((s.fn 0).icbs.get {} 1).pend ≠ 0 ∧ max 1 ((s.fn 0).icbs.get {} 1).cnt ≤ ((s.fn 0).icbs.get {} 1).pend) ∧
    (∀ b ∈ [false, true], let s : State := { tW.modFn 0 fun x => { x with icbs := x.icbs.put 1 { pend := 1, cnt := 9, time := 2, since := 5 }, vmask := x.vmask.put 1 b } with t7 := 14005 }
      let i := (s.fn 0).icbs.get {} 1
      i.pend ≠ 0 ∧ i.time ≠ 0 ∧ i.since + 7000 * i.time ≤ s.t7 ∧ (s.fn 0).vmask.get true 1 = b) :=
  ⟨by decide +kernel, by decide +kernel, arrives_of _ _ _ (by decide +kernel) (by decide +kernel), ok_of (by decide +kernel), error_of (by decide +kernel), by decide +kernel,
    by decide +kernel, by decide +kernel, by decide +kernel, by decide +kernel, by decide +kernel⟩

/-- Element 0 in the stack of packet 1, which is in the table; queue 0 of function 0 has room. -/
def tIssuer : State := ({ tQueue [] (qRun 0) with pkts := Table.empty.put 1 { fn := 0, q := 0, slot := 0, index := 0, bytes := [] } }).modRegion 0 0 fun g =>
  { g with run := some { pid := 1, x0 := 0, y0 := 0, w := 12, h := 8, ctxs := [0] } }

theorem witness_PacketStarts :
    (let s := tQueue (tNop false) { qRun 1 with empty := true }; (s.queue 0 0).en = true ∧ (s.queue 0 0).state = 1 ∧ (s.queue 0 0).kept ≠ (s.queue 0 0).read ∧ (s.queue 0 0).empty = true ∧
      ((s.gget 0 (2 ^ 20) 4).toOption.map fun r => leNat r.2 / 2 ^ 31 % 2) = some 1) ∧
    (((tQueue [] (qRun 1)).gget 0 (2 ^ 20) 4).toOption.map fun r => leNat r.2 / 2 ^ 31 % 2) = some 0 ∧
    (let s := tQueue (tNop true) (qRun 1); s.chooseQueue 0 (s.readyQueues 0) = some 0 ∧ s.fns.rows.map (fun r => r.1) = [0] ∧ (∀ r < 16, r ≠ 0 → (s.queue 0 r).en = false) ∧
      ((s.gget 0 (2 ^ 20) 4).toOption.map fun r => hdrV (leNat r.2)) = some true ∧ s.pkts.rows = [] ∧
      ((((s.modFn 0 fun x => { x with pending := x.pending &&& ~~~1 }).decided 0 0).readPacket 0 (s.queue 0 0) 0).toOption.map fun r => packetOk r.2 none) = some true ∧
      ((((s.modFn 0 fun x => { x with pending := x.pending &&& ~~~1 }).decided 0 0).readPacket 0 (s.queue 0 0) 0).toOption.map fun r =>
        (r.1.gput 0 (2 ^ 20) (leBytes 4 (leNat r.2 % 2 ^ 31))).toOption.isSome) = some true) ∧
    packetOk (leBytes 64 (2 ^ 31 + 9 * 256)) none = false ∧
    (∃ e, ((tQueue [] (qRun 1)).slotsBusy 0 [(2 ^ 40, tNop false)]) = .error e) ∧
    (let s := tQueue (tNop true) (qRun 1); s.dev.inject = [] ∧ (s.queue 0 0).empty = false) ∧
    (let s := tQueue [] { qRun 1 with state := 4, replay := [⟨0, tNop false, false, []⟩] }; (s.queue 0 0).state = 4 ∧ (s.queue 0 0).replay = [⟨0, tNop false, false, []⟩]) ∧
    (let s := tIssuer; let x := s.queue (s.ringFn 0 0) 0; s.ringFn 0 0 = 0 ∧ x.en = true ∧ ¬2 ^ (x.sz + 4) ≤ ((15 : Word) + BitVec.ofNat 32 0 - x.read).toNat ∧
      2 ^ (x.sz + 4) ≤ ((16 : Word) + BitVec.ofNat 32 0 - x.read).toNat ∧ ((s.slotsBusy 0 [(2 ^ 20 + 64 * 15, tNop false)]).toOption.map fun r => r.2) = some false ∧
      ((tQueue (tNop false) (qRun 1)).slotsBusy 0 [(2 ^ 20, tNop false)]).toOption.map (fun r => r.2) = some true ∧ (s.putSlots 0 [(2 ^ 20 + 64 * 15, tNop false)]).toOption.isSome = true ∧
      s.issuerPkt { elem := 0 } = some 1 ∧ (s.pkts.find? 1).isSome = true) ∧ tW.issuerPkt {} = none ∧
    Arrives (tMsg tIssuer (.clus 0) (.lnch {} 0 15 [tNop false])) 0 (.clus 0) (.lnch {} 0 15 [tNop false]) 0 :=
  ⟨by decide +kernel, by decide +kernel, by decide +kernel, by decide +kernel, error_of (by decide +kernel), by decide +kernel, by decide +kernel, by decide +kernel, by decide +kernel,
    arrives_of _ _ _ (by decide +kernel) (by decide +kernel)⟩

/-- Packet 1 of queue 0 of function 0 runs with the given bits; its pages hold `bs` at 2 ^ 20. -/
def tPkt (b : Nat) (bs : List Byte) (f : Pkt → Pkt) : State :=
  { tQueue bs (qRun 1) with pkts := Table.empty.put 1 (f { fn := 0, q := 0, slot := 0, index := 0, bytes := leBytes 64 b }), pidNext := 2 }

theorem reads_of (s : State) (va n : Nat) (h : (s.xlate 0 va).toOption = some tGiga ∧ va % 2 ^ 16 + n ≤ 2 ^ 16 ∧ s.poison = [] ∧ s.dev.inject = []) : ReadsAt s 0 va n tGiga :=
  ⟨ok_eq h.1, h.2.1, h.2.2.1, h.2.2.2, fun e => absurd e (by decide)⟩

theorem writes_of (s : State) (va : Nat) (bs : List Byte) (h : s.memWf = true ∧ va % 2 ^ 16 + bs.length ≤ 2 ^ 16 ∧ s.poison = [] ∧ s.dev.inject = [] ∧ s.hostq = [] ∧ ∀ k < bs.length,
    ((s.withBytes tGiga (Memory.write (s.bytesOf tGiga) (State.leafAddr tGiga va) (bs.take k))).xlate 0 (va + k)).toOption = some tGiga) : WritesAt s 0 va bs tGiga :=
  ⟨h.1, rfl, Nat.zero_le _, h.2.1, h.2.2.1, h.2.2.2.1, h.2.2.2.2.1, fun e => absurd e (by decide), fun k hk => ok_eq (h.2.2.2.2.2 k hk)⟩

/-- A packet of each type: WRITE of one word, SIGNAL and COPY at 2 ^ 20, barriers on the word there, a graph of two slots there, and COND on the word. -/
def pWrite : Nat := 9 * 256 + 2 ^ 32 + 2 ^ 20 * 2 ^ 64 + 5 * 2 ^ 128
def pSignal : Nat := 5 * 256 + 2 ^ 32 + 2 ^ 34 + 2 ^ 20 * 2 ^ 64 + 5 * 2 ^ 128
def pCopy : Nat := 2 * 256 + (2 ^ 20 + 4096) * 2 ^ 64 + 2 ^ 20 * 2 ^ 128 + 200 * 2 ^ 192
def pBar (t : Nat) : Nat := t * 256 + 2 ^ 20 * 2 ^ 64
def pGraph : Nat := 6 * 256 + 2 * 2 ^ 32 + 2 ^ 20 * 2 ^ 64 + 3 * 2 ^ 128
def pCond (f : Nat) : Nat := 7 * 256 + f * 2 ^ 32 + 2 ^ 20 * 2 ^ 64 + 5 * 2 ^ 128

/-- A COND packet, packet 1, in the graph of packet 0, which has re-armed three times of three. -/
def tCond : State :=
  let s := tPkt (pCond 0) [] fun x => { x with graph := some 0 }
  { s with pkts := s.pkts.put 0 { fn := 0, q := 0, slot := 0, index := 0, bytes := leBytes 64 pGraph, run := some { arms := 3 } } }

theorem witness_PacketWork :
    (∀ x ∈ [(8 * 256, 8), (pWrite, 9), (pSignal, 5), (pCopy, 2), (pBar 3, 3), (pBar 4, 4), (pGraph, 6), (pCond 0, 7)], ((tPkt x.1 [] id).working 1 x.2).isSome = true) ∧
    WritesAt (tPkt pWrite [] id) 0 (2 ^ 20) (leBytes 8 5) tGiga ∧ WritesAt (tPkt pSignal [] id) 0 (2 ^ 20) (leBytes 8 5) tGiga ∧ ReadsAt (tPkt pCopy [] id) 0 (2 ^ 20) 128 tGiga ∧
    WritesAt (tPkt pCopy [] id) 0 (2 ^ 20 + 4096) (List.replicate 128 0) tGiga ∧ Apart (tPkt pCopy [] id) 0 (2 ^ 20 + 4096) (List.replicate 128 0) tGiga (2 ^ 20) 128 tGiga ∧
    (let s := tPkt pCopy [] id
     copyChunk (2 ^ 20) (2 ^ 20 + 4096) 200 = 128 ∧ Memory.read (s.bytesOf tGiga) (State.leafAddr tGiga (2 ^ 20)) 128 = List.replicate 128 0 ∧ 2 ^ 20 + 200 ≤ 2 ^ 20 + 4096) ∧
    (let i := ((tPkt pSignal [] id).fn 0).icbs.get {} 0; i.pend < max 1 i.cnt ∧ i.time = 0) ∧ ReadsAt (tPkt (pBar 3) [] id) 0 (2 ^ 20) 8 tGiga ∧
    (signed64 0 ≤ 0 ∧ signed64 (2 ^ 63 + 255) ≤ -(2 ^ 63) + 255 ∧ ¬signed64 (2 ^ 63 + 256) ≤ -(2 ^ 63) + 255 ∧ 0 < signed64 (2 ^ 63 - 1)) ∧
    (let s := tPkt pGraph (tNop false) id; s.members 1 = [] ∧ ((s.graphPacket 0 (2 ^ 20) 0).toOption.map fun r => hdrV (leNat r.2) && packetOk r.2 (some 2)) = some true) ∧
    (let s := tCond
     ((s.pkts.find? 0).bind fun y => y.run.map fun g => (g.arms, y.bits / 2 ^ 128 % 2 ^ 32)) = some (3, 3) ∧ (s.working 1 7).isSome = true) :=
  ⟨by decide +kernel, writes_of _ _ _ (by decide +kernel), writes_of _ _ _ (by decide +kernel), reads_of _ _ _ (by decide +kernel), writes_of _ _ _ (by decide +kernel),
    ⟨fun _ => by decide +kernel, by decide +kernel, fun k hk => ok_eq (by revert k hk; decide +kernel)⟩, by decide +kernel, by decide +kernel, reads_of _ _ _ (by decide +kernel), by decide, by decide +kernel,
    by decide +kernel⟩

theorem witness_PacketEnds : let s := tPkt (pBar 3 + 2 ^ 20 * 2 ^ 384) [] fun x => { x with done := true }
    (s.hostq = [] ∧ ∀ n ∈ [0, 3], let t : State := { tPkt (pBar 3 + 4 * 2 ^ 24) [] (fun x => { x with done := true }) with hostq := [{ own := n, elem := 0, aid := 0, seq := 0, at_ := 0, bytes := [] }] }
      ((t.pkts.find? 1).map fun x => (x.bits / 2 ^ 24 % 8, t.hostq.any fun h => h.own == x.slot)) = some (4, n == 0)) ∧
    (s.pkts.rows.map fun r => r.1).Nodup ∧ ((s.pkts.find? 1).map fun x => (x.done, x.kids, x.outcome, x.signal, x.mute)) = some (true, 0, none, 2 ^ 20, false) ∧ (s.part 0).frozen = false ∧
    WritesAt s 0 (2 ^ 20) (leBytes 8 (2 ^ 64 - 1)) tGiga ∧ ((s.gput 0 (2 ^ 20) (leBytes 8 (2 ^ 63 + 0x74))).toOption.isSome = true) ∧
    (((tPkt (pBar 3) [] fun x => { x with done := true, fault := some 0x74, graph := some 0, parent := none }).pkts.find? 1).map fun x => (x.outcome, x.signal, x.graph)) = some (some 0x74, 0, some 0) ∧
    (let s := tPkt (pBar 3) [] fun x => { x with done := true, parent := some 0 }
     let t : State := { s with pkts := s.pkts.put 0 { fn := 0, q := 0, slot := 0, index := 0, bytes := [], kids := 1 } }
     (t.pkts.rows.map fun r => r.1).Nodup ∧ ((t.pkts.find? 1).map fun x => (x.outcome, x.parent, x.signal)) = some (none, some 0, 0) ∧ (t.pkts.find? 0).isSome = true) :=
  ⟨by decide +kernel, by decide +kernel, by decide +kernel, by decide +kernel, writes_of _ _ _ (by decide +kernel), by decide +kernel, by decide +kernel, by decide +kernel⟩

/-- A one-word window: a head that consumes one input (R36). -/
def tHeadWord : NWord := (encode (.sink ⟨1, 0, ⟨0, 0, 0⟩, ⟨0, 0, 0⟩, 0, 0, 0, 0⟩)).getD 0

/-- A stack image at 2 ^ 20 of one context, which has one word and one pool, and a launch record after it (R118, R156, R273). -/
def tImage : List Byte :=
  leBytes 64 0 ++ leBytes 64 (2 ^ 231 + 2 ^ 172 + 130 * 2 ^ 8 + (2 ^ 20 + 256) * 2 ^ 320) ++ List.replicate 128 0 ++ leBytes 64 tHeadWord.toNat

def tRecBytes : List Byte := leBytes 64 (2 ^ 128 + 2 ^ 64 + 2 ^ 24 + 2 ^ 18 + 3 * 2 ^ 10)

/-- A LAUNCH of an image and one record, over elements (0, 0) to (3, 0) of region 1, with priority 5. -/
def pLaunch (cstk recs : Nat) : Nat := 2 ^ 8 + 2 ^ 32 + 5 * 2 ^ 43 + 2 ^ 48 + 4 * 2 ^ 96 + 2 ^ 112 + cstk * 2 ^ 128 + recs * 2 ^ 192

def tStackImg : StackImg :=
  { ctxs := [{ cidx := 1, entry := { wbase := 16, wlen := 1, pv := 1, pools := [{ size := 130 }, {}, {}, {}] }, words := [tHeadWord] }], routes := [], classes := [], recs := [] }

/-- The stack that runs in region 1 of the launch below it. -/
def tStackRun : StackRun := { pid := 7, x0 := 0, y0 := 0, w := 4, h := 1, ctxs := [0], dist := 100 }

/-- Packet 1 is a LAUNCH with its checked image; region 1 is free or holds a stack. -/
def tLaunch (img : Option StackImg) (run : Option StackRun) (cstk : Nat) : State :=
  (tPkt (pLaunch cstk (2 ^ 20 + 512)) (tImage ++ List.replicate 192 0 ++ tRecBytes) fun x => { x with img := img }).modRegion 0 1 fun g => { g with used := run.isSome, run := run }

/-- A property of a packet that is at work. -/
def tWork (s : State) (p : Pkt → Bool) : Option Bool := (s.working 1 1).map p

theorem witness_LaunchPlaces :
    (∀ x ∈ [tLaunch none none (2 ^ 20), tLaunch (some tStackImg) none 0, tLaunch (some tStackImg) (some tStackRun) 0], tWork x (fun y => !y.stack) = some true) ∧
    ((tLaunch none none (2 ^ 40)).readStack 0 (2 ^ 40) (2 ^ 20 + 512) 1).toOption.isNone = true ∧
    (∀ x ∈ [(64, false), (0, true)], let s := tLaunch none none (2 ^ 20 + x.1)
      tWork s (fun y => ((s.readStack 0 (2 ^ 20 + x.1) (2 ^ 20 + 512) 1).toOption.map fun r => (r.1.checkStack 0 1 (y.stackRun 1) r.2).toOption.isSome) == some x.2) = some true) ∧
    (let s := tLaunch (some tStackImg) none 0
     tWork s (fun x => x.img == some tStackImg && s.rectFree 0 1 (x.stackOf 1 tStackImg) && s.routesAgree 0 tStackImg.routes) = some true ∧ (s.region 0 1).run = none ∧ tStackImg.ctxs.length = 1) ∧
    (let s := (tLaunch (some tStackImg) none 0).modRegion 0 2 fun g => { g with run := some tStackRun }
     tWork s (fun x => x.img == some tStackImg && s.rectFree 0 1 (x.stackOf 1 tStackImg) && s.routesAgree 0 tStackImg.routes) = some false ∧ (s.region 0 1).run = none) ∧
    (let s := tLaunch (some tStackImg) (some tStackRun) 0
     tWork s (fun x => x.img == some tStackImg && tStackRun.prio < (x.stackOf 1 tStackImg).prio && s.rectFree 0 1 (x.stackOf 1 tStackImg) && s.routesAgree 0 tStackImg.routes && s.apart 0 tStackRun tStackImg) = some true ∧
      (s.region 0 1).run = some tStackRun ∧ (s.region 0 1).parked = none ∧ (s.region 0 1).next = none ∧ tStackRun.dist ≠ 0 ∧ tStackRun.halted = false) ∧
    (let r := { tStackRun with w := 2, h := 2 }
     let s := tLaunch (some tStackImg) (some r) 0
     tWork s (fun x => x.img == some tStackImg && !s.rectFree 0 1 (x.stackOf 1 tStackImg) && s.apart 0 r tStackImg) = some true) ∧
    (tLaunch (some tStackImg) (some { tStackRun with ctxs := [1] }) 0).apart 0 { tStackRun with ctxs := [1] } tStackImg = false ∧
    ({ tStackRun with dist := 0 } : StackRun).dist = 0 := by decide +kernel

/-- Region 0 of partition 0, of one element, in the given state; its launch is packet 1, and nothing waits at element 0. -/
def tRegion (g : Region) : State :=
  ({ (tPkt (pLaunch 0 0) [] fun x => { x with stack := true }) with cycle := 1000 }.modElem 0 fun e => { e with seqs := [none, none] }).modRegion 0 0 fun _ => g

/-- Its stack, of the given contexts and records, at context `pos`. -/
def tStk (ctxs : List Nat) (recs : List (Option Nat × LaunchRec)) (pos : Nat) : StackRun := { pid := 1, x0 := 0, y0 := 0, w := 2, h := 1, ctxs := ctxs, recs := recs, pos := pos, dist := 100 }

/-- The region runs that stack; `w` is what its last wave found. -/
def tReg (x : StackRun) (w : Option (Nat × Nat)) : Region := { used := true, w := 2, h := 1, cur := some 0, run := some x, wave := w }

/-- A record that writes at 2 ^ 20 when its context closes. -/
def tDone : LaunchRec := { done := 2 ^ 20, args := 0 }

theorem witness_RegionEvents :
    (∀ w ∈ [none, some (0, 0), some (4, 3)], let s := tRegion (tReg (tStk [0, 1] [] 0) w)
      (s.region 0 0).run = some (tStk [0, 1] [] 0) ∧ (s.part 0).frozen = false ∧ (tStk [0, 1] [] 0).halted = false ∧ (tStk [0, 1] [] 0).arm = [] ∧ s.regionDone 0 0 = true ∧ (s.region 0 0).wave = w ∧
        s.sums 0 0 = (0, 0) ∧ (s.region 0 0).waveAt + 256 ≤ s.cycle) ∧
    (let s := tRegion (tReg (tStk [0, 1] [] 0) (some (0, 0)))
     let t : State := { s with pkts := s.pkts.mapVals fun _ y => { y with bytes := leBytes 64 (pLaunch 0 0 + 4 * 2 ^ 24) }, hostq := [{ elem := 0, aid := 0, seq := 0, at_ := 0, bytes := [] }] }
     ((t.pkts.find? (tStk [0, 1] [] 0).pid).map fun y => (y.bits / 2 ^ 24 % 8, t.hostq.any fun h => h.own == y.slot)) = some (4, true) ∧ t.regionDone 0 0 = true ∧ s.hostq = []) ∧
    (∀ y ∈ [none, some (tStk [2] [] 0)], let s := tRegion { tReg (tStk [0] [] 0) (some (0, 0)) with parked := y }
      s.regionDone 0 0 = true ∧ s.sums 0 0 = (0, 0) ∧ (s.region 0 0).parked = y ∧ (s.region 0 0).next = none ∧ (tStk [0] [] 0).ctxs.length ≤ (tStk [0] [] 0).pos + 1) ∧
    (let x := tStk [0] [(none, tDone)] 0
     let s := tRegion (tReg x (some (0, 0)))
     x.recs = [(none, tDone)] ∧ tDone.ctx = nth x.ctxs x.pos 0 ∧ tDone.donek = false ∧ tDone.done ≠ 0 ∧ ((s.pkts.find? x.pid).map fun y => y.mute) = some false ∧ s.regionDone 0 0 = true ∧
      s.sums 0 0 = (0, 0)) ∧
    WritesAt (tRegion (tReg (tStk [0] [(none, tDone)] 0) (some (0, 0)))) 0 (2 ^ 20) (leBytes 8 (2 ^ 64 - 1)) tGiga ∧
    (let s := tRegion (tReg { tStk [0] [] 0 with halted := true } none); ∀ a ∈ s.regionElems 0 0, s.seqsIdle 0 a = true ∧ s.reqsFree 0 a = true) ∧
    (let s := tRegion { tReg (tStk [0] [] 0) none with next := some (tStk [1] [] 0), parking := true, parkAt := 900 }
     (s.region 0 0).next = some (tStk [1] [] 0) ∧ (s.region 0 0).parking = true ∧ s.cycle < (s.region 0 0).parkAt + 2 * (tStk [0] [] 0).dist ∧ s.converged 0 0 = true) ∧
    (let x := { tStk [0] [] 0 with halted := true }
     let s := tRegion { tReg x none with next := some (tStk [1] [] 0), parking := true, parkAt := 900 }
     (s.region 0 0).run = some x ∧ (s.region 0 0).next = some (tStk [1] [] 0) ∧ x.halted = true ∧ (s.fn 0).vuesta = 0) ∧
    (let s := tRegion { tReg (tStk [0] [] 0) none with parking := true, parkAt := 800 }; (s.region 0 0).parking = true ∧ (s.region 0 0).parkAt + 2 * (tStk [0] [] 0).dist ≤ s.cycle) ∧
    (let s := tRegion { tReg (tStk [0] [] 0) none with hzSame := 64, horizon := some 7 }; 64 ≤ (s.region 0 0).hzSame ∧ (s.region 0 0).horizon ≠ none ∧ (s.region 0 0).granted = false) ∧
    (let s : State := { tRegion (tReg (tStk [0] [] 0) none) with t7 := 14000000000 }
     (s.part 0).life = .live ∧ (s.region 0 0).parking = false ∧ (s.part 0).fqw = (s.part 0).fqr ∧ (s.region 0 0).lastEvent + (s.part 0).hang * 7000000 ≤ s.t7) :=
  ⟨by decide +kernel, by decide +kernel, by decide +kernel, by decide +kernel, writes_of _ _ _ (by decide +kernel), by decide +kernel, by decide +kernel, by decide +kernel, by decide +kernel, by decide +kernel,
    by decide +kernel⟩

/-- The device serves in full and runs the admin command with the given words. -/
def tAdmin (s : State) (w : List Nat) : State :=
  { s with dev := { s.dev with mode := .service, admin := { s.dev.admin with busy := true, run := w.map (BitVec.ofNat 32) } } }

/-- A mapping of the first 64 KiB to the module's second MiB as MAP and CREATE read it (R290), at host address 4096. -/
def tMapOne : Mapping := ⟨0, 2 ^ 20, 2 ^ 16, 0, false, false⟩
def tHost (s : State) : State := { s with host := Memory.write [] 4096 (leBytes 32 (2 ^ 20 * 2 ^ 64 + 2 ^ 16 * 2 ^ 128)) }

/-- CREATE of slot 5 with one cluster at column `x`, weight, quota and period 1, HANG_MS 2000 and one mapping. -/
def tCreate (x : Nat) : List Nat := [1 + 256 * 5, 5, x, 3 * 2 + 8 + 2 ^ 11 + 2 ^ 17, 2000, 4096, 0, 1]

/-- Slot 0 is frosted; slot 5 has been evicted, with the given images in host memory. -/
def tFrosted : State := tW.modPart 0 fun x => { x with life := .frosted, frozen := true, frz := [{ elem := 0 }] }
def tImg (move : Bool) : Image :=
  { bytes := [7, 8], slot := 5, ok := true, move := move, home := true, part := { life := .frosted, w := 1, h := 1 }, fn := {}, elems := [], clusters := [], net := [], regions := [], pkts := [],
    phys := [], poison := [] }
/-- Slot 0 with FROST's broadcast on its way, or at its cluster; or with a LAUNCH that starts. -/
def tFrosting (at_ : FlitAt) : State := { tW with net := [{ src := .clus 0, dst := .clus 0, vn := 3, cls := 0, own := 0, msg := .frost, at_ := at_ }] }
def tStarting : State := { tW with pkts := Table.empty.put 1 { fn := 0, q := 0, slot := 0, index := 0, bytes := leBytes 64 (2 ^ 8) } }
/-- Slot 0 frosted with a request of element 0 under way: to a slice of the module, or a store that the host still has. -/
def tUnder (host : Bool) (t7 : Nat) : State :=
  let y : Acc := { org := { elem := 0, seq := 3, slot := some 0 }, kind := .store, pcs := [{ va := 8 }], left := true, done := if host then [0] else [] }
  { tFrosted.modElem 0 (fun e => { e with memq := [y] }) with
    t7 := t7
    net := if host then [] else [{ src := .elem 0, dst := .slice 3, vn := 4, cls := 0, own := 0, msg := .mreq y.org 0 8, at_ := .link }] }

def tEvicted (imgs : List (Nat × Image)) : State := { tW.modPart 5 (fun x => { x with life := .evicted }) with images := imgs, host := Memory.write [] 4096 [7, 8] }

/-- Element 0 has a store that waits in the fault queue, and its page, at `va`, is mapped or not. -/
def tRetry (va : Nat) : State :=
  ((tTable tW).modPart 0 fun x => { x with fqWait := [⟨0, 3, 0⟩], fqw := 1 }).modElem 0 fun e => { e with memq := [{ org := { elem := 0, seq := 3 }, kind := .store, pcs := [{ va := va }], wait := true }] }

/-- What SERVICE finds of it. -/
def again (s : State) : List (Option (Nat × Nat)) :=
  (s.elem 0).memq.map fun y => s.faultsAgain 0 y.needs (if y.kind.writes then y.pcs.map fun c => c.va else []) (y.pcs.map fun c => c.va)

theorem asked_of (s : State) (code p : Nat) (w : List Nat) (h : (w.map (BitVec.ofNat 32)).map BitVec.toNat = w ∧ nth w 0 0 = code + 256 * p ∧ p < 128) : Asked (tAdmin s w) code p w :=
  ⟨rfl, h.1, h.2.1, h.2.2, .inl rfl⟩

theorem witness_SlotCommands :
    (∀ x ∈ [2, 0], let w := tCreate x
      let s := tAdmin (tHost tW) w
      let y := State.newPart w
      Asked s 1 5 w ∧ wordsClean w [0x7F, 0x3FFFFF, 0x7FFFFF, 0xFFFF, 2 ^ 32 - 1, 2 ^ 32 - 1, 2 ^ 32 - 1, 2 ^ 32 - 1, 2 ^ 32 - 1, 0xFFFFFF] = true ∧ 1 ≤ y.shr ∧ 1 ≤ y.weight ∧ 1 ≤ y.quota ∧ y.quota ≤ 32 ∧
        1 ≤ y.period ∧ y.period ≤ 60 ∧ 1 ≤ y.hang ∧ y.hang ≤ 60000 ∧ pairAt w 5 % 32 = 0 ∧ 1 ≤ nth w 7 0 ∧ y.fqBase % 4096 = 0 ∧ y.fqSz ≤ 8 ∧ (s.part 5).life = .free ∧ (s.fn 5).bound = false ∧
        nth w 1 0 = 5 ∧ (s.rectOk 5 y.x0 y.y0 y.w y.h y.ts y.shr = true ↔ x = 2) ∧ s.readMaps (pairAt w 5) (nth w 7 0) [] = some [tMapOne]) ∧
    (tAdmin tW (tCreate 2)).readMaps 4096 1 [] = none ∧ (∀ r ∈ tW.clusters.rows, r.2.hedges.length = 2) ∧ (∀ d, (tW.crossbars.get [{}, {}] d).length = 2) ∧
    (Asked (tAdmin tW [2]) 2 0 [2] ∧ wordsClean [2] [] = true ∧ ((tAdmin tW [2]).part 0).life ≠ .free ∧ (tAdmin tW [2]).parts.rows.Pairwise fun a b => a.1 < b.1) ∧
    (let w := [3, 4096, 0, 1]; let s := tAdmin (tHost tW) w
     Asked s 3 0 w ∧ wordsClean w [2 ^ 32 - 1, 2 ^ 32 - 1, 2 ^ 32 - 1] = true ∧ mapArgs w = true ∧ (s.part 0).live = true ∧ s.readMaps (pairAt w 1) (nth w 3 0) (s.part 0).maps = some [tMapOne]) ∧
    (let w := [4, 4096, 0, 1]; let s := tAdmin ((tHost tW).modPart 0 fun x => { x with maps := [tMapOne] }) w
     Asked s 4 0 w ∧ s.hostFails (pairAt w 1) (32 * nth w 3 0) = false ∧ Mapping.ofNat (Memory.readN s.host (pairAt w 1) 32) = tMapOne ∧ leafSize tMapOne.size = true ∧
      Memory.readN s.host (pairAt w 1) 32 / 2 ^ 196 = 0 ∧ Memory.readN s.host (pairAt w 1) 32 / 2 ^ 192 % 4 ≠ 3 ∧
      (unmapped (s.part 0).maps tMapOne).isSome = true) ∧
    (let s := tAdmin (tRetry 8) [5]
     Asked s 5 0 [5] ∧ (s.part 0).live = true ∧ (∀ q ∈ (s.part 0).fqWait, q.kind = 0) ∧ (∀ q ∈ (s.part 0).fqWait, ((s.elem q.elem).memq.map fun y => y.org.seq).Nodup) ∧ again s = [none]) ∧
    (let s := tAdmin (tRetry (2 ^ 40)) [5]
     Asked s 5 0 [5] ∧ (s.part 0).fqWait = [⟨0, 3, 0⟩] ∧ ((s.elem 0).memq.find? fun y => y.wait && y.org.seq == 3).isSome = true ∧ again s = [some (0x51, 2 ^ 40)]) ∧
    (Asked (tAdmin tW [6]) 6 0 [6] ∧ ((tAdmin tW [6]).part 0).life = .live ∧ 0 ∈ { tW.dev with frostAsk := [0] }.frostAsk ∧
      (∀ q ∈ [FlitAt.link, .here], ((tFrosting q).net.filter fun f => f.own == 0 && f.msg == .frost).map (fun f => f.at_) = [q]) ∧ tW.net = [] ∧ tW.pkts.rows = [] ∧
      ∃ r ∈ tStarting.pkts.rows, r.2.slot = 0 ∧ r.2.type = 1 ∧ r.2.done = false ∧ r.2.stack = false ∧ r.2.img = none) ∧
    (Asked (tAdmin tFrosted [7]) 7 0 [7] ∧ (tFrosted.part 0).life = .frosted ∧ ∀ r ∈ tFrosted.elems.rows, tFrosted.inRect 0 (clusNo r.1) = true → r.2.memq = []) ∧
    (let w := [8, 4096, 0, 1]; Asked (tAdmin tFrosted w) 8 0 w ∧ wordsClean w [2 ^ 32 - 1, 2 ^ 32 - 1, 1] = true ∧ pairAt w 1 % 4096 = 0 ∧ tFrosted.hostq = [] ∧ tFrosted.hostBad = [] ∧ tFrosted.memWf = true ∧
      tFrosted.underWay 0 = [] ∧
      ((tUnder false 0).underWay 0).map (fun r => (tUnder false 0).atHost r.1 r.2) = [false] ∧ ((tUnder true 0).underWay 0).map (fun r => (tUnder true 0).atHost r.1 r.2) = [true] ∧
      (tUnder true 0).t7 < (tUnder true 0).dev.admin.since + 70000000 ∧ ¬(tUnder true 70000000).t7 < (tUnder true 70000000).dev.admin.since + 70000000 ∧
      ((tUnder true 70000000).underWay 0).map (fun r => (r.1, r.2.org.elem, r.2.joined)) = [(0, 0, [])] ∧ (tUnder true 70000000).memWf = true) ∧
    (let w := [9 + 256 * 5, 4096, 0, 0xFFFF]
     wordsClean w [2 ^ 32 - 1, 2 ^ 32 - 1, 0xFFFF, 2 ^ 32 - 1, 2 ^ 32 - 1] = true ∧ (∀ b, Asked (tAdmin (tEvicted [(4096, tImg b)]) w) 9 5 w) ∧ ((tEvicted []).part 5).life = .evicted ∧
      ((tEvicted [(4096, tImg true)]).images.find? fun r => r.1 == pairAt w 1) = some (pairAt w 1, tImg true) ∧ (tAdmin (tEvicted [(4096, tImg true)]) w).findPlace 5 (tImg true).part 0xFFFF = some (1, 0) ∧
      (tAdmin (tEvicted [(4096, tImg true)]) w).findPlace 5 (tImg true).part 0 = none ∧ (tEvicted [(4096, tImg true)]).pagesFree 5 (tImg true).part.maps = true ∧
      (let s := tEvicted [(4096, tImg true)]; s.hostFails 4096 2 = false ∧ Memory.read s.host 4096 2 = (tImg true).bytes ∧ (tImg true).key ∈ s.dev.manifest.trust ∧ (tImg true).slot = 5 ∧
        (tImg true).part.frozeAt = (s.part 5).frozeAt) ∧ (tEvicted []).pagesFree 5 [⟨0, 2 ^ 64, 2 ^ 16, 0, false, false⟩] = false) := by
  refine ⟨?_, by decide +kernel, by decide +kernel, fun _ => rfl, ⟨asked_of _ _ _ _ (by decide), by decide +kernel⟩, ⟨asked_of _ _ _ _ (by decide), by decide +kernel⟩, ⟨asked_of _ _ _ _ (by decide), by decide +kernel⟩,
    ⟨asked_of _ _ _ _ (by decide), by decide +kernel⟩, ⟨asked_of _ _ _ _ (by decide), by decide +kernel⟩, ⟨asked_of _ _ _ _ (by decide), by decide +kernel⟩,
    ⟨asked_of _ _ _ _ (by decide), by decide +kernel⟩, ⟨asked_of _ _ _ _ (by decide), by decide +kernel⟩, by decide +kernel, fun _ => asked_of _ _ _ _ (by decide),
    by decide +kernel⟩
  intro x hx
  simp only [List.mem_cons, List.not_mem_nil, or_false] at hx
  rcases hx with rfl | rfl <;> exact ⟨asked_of _ _ _ _ (by decide), by decide +kernel⟩

/-- An export window of slot 0 open to all for reading and writing, of 64 KiB. -/
def tWindow : Nat := 2 ^ 127 + 3 * 2 ^ 124 + 0xFFF * 2 ^ 112 + 0x7F * 2 ^ 105 + 2 ^ 32
def tWindowAsk : List Nat := [0x15, 3, 0, 1, 0, tWindow / 2 ^ 96]

theorem witness_DeviceCommands :
    (let w := [0xA, 0, 0, 1]
     Asked (tAdmin (tThird .on []) w) 0xA 0 w ∧ wordsClean w [0x3FFFF, 0x3FFFF, 3] = true ∧ thirdArgs w = true ∧ (tAdmin (tThird .on []) w).memWf = true ∧ gridElems w = [0] ∧
      nth ((tThird .on []).elem 0).thirds 1 .off ≠ .off ∧ ((tThird .on []).elem 0).thirdBusy 1 = false ∧
      (((tThird .on []).modElem 0 fun e => { e with handles := e.handles.put 3 { v := true, base := 4096, size := 4 } }).elem 0).thirdBusy 1 = true) ∧
    (let w := [0xB, 0, 0, 1]; Asked (tAdmin (tThird .off []) w) 0xB 0 w ∧ wordsClean w [0x3FFFF, 0x3FFFF, 3] = true ∧ thirdArgs w = true ∧ nth ((tThird .off []).elem 0).thirds 1 .off = .off) ∧
    (∀ c ∈ [0xC, 0xD], ∀ u ∈ [0x160, 1], let w := [c, u, 2]; Asked (tAdmin tW w) c 0 w ∧ wordsClean w [0xFFF, 3] = true ∧ waysArgs w = true) ∧
    (nth ((tW.clus 0).ways) 2 .off ≠ .off ∧ nth ((tW.slices.get {} 11).ways) 2 .off ≠ .off) ∧
    (Asked (tAdmin tW [0xE, 3]) 0xE 0 [0xE, 3] ∧ wordsClean [0xE, 3] [3] = true) ∧
    (∀ c ∈ [0xF, 0x10], ∀ u ∈ [0, 23], let w := [c, u]; Asked (tAdmin tW w) c 0 w ∧ wordsClean w [0x1F] = true ∧ u ≤ 23 ∧ ((tAdmin tW w).dieHeld u = true ↔ u = 0)) ∧
    (let w := [0x11, 0xF, 8 * 255 + 32 * 2 ^ 11 + 60 * 2 ^ 17, 60000]
     Asked (tAdmin tW w) 0x11 0 w ∧ wordsClean w [0xF, 0x7FFFFF, 0xFFFF] = true ∧ nth w 2 0 / 8 % 256 = 255 ∧ nth w 2 0 / 2 ^ 11 % 64 = 32 ∧ nth w 2 0 / 2 ^ 17 % 64 = 60 ∧
      ((tAdmin tW w).part 0).life = .live) ∧
    (∀ w ∈ [[0x12, 0x100, 0, 7, 1], [0x12, 0, 0, 7], [0x12, 6, 0, 64, 3]], Asked (tAdmin tW w) 0x12 0 w ∧
      wordsClean w [0x107, 2 ^ 32 - 1, 2 ^ 32 - 1, 2 ^ 32 - 1, 2 ^ 32 - 1, 0xFF] = true ∧ injectArgs w = true) ∧
    (let w := [0x13, 4096, 0, 65536]; Asked (tAdmin tW w) 0x13 0 w ∧ wordsClean w [2 ^ 32 - 1, 2 ^ 32 - 1, 2 ^ 32 - 1] = true ∧ pairAt w 1 % 4096 = 0 ∧ ringPow2 65536 = true ∧
      (tAdmin tW w).dev.waiting = []) ∧
    (let w := [0x14, 4096, 0, 0, 0, 4096]
     let s : State := { tAdmin tW w with dev := { (tAdmin tW w).dev with mode := .harvest 1 0 } }
     s.dev.admin.busy = true ∧ s.dev.admin.run.map BitVec.toNat = w ∧ s.dev.mode = .harvest 1 0 ∧ wordsClean w [2 ^ 32 - 1, 2 ^ 32 - 1, 2 ^ 32 - 1, 2 ^ 32 - 1, 2 ^ 32 - 1] = true ∧ s.memWf = true ∧
      pairAt w 3 + 4096 ≤ 96 * 2 ^ 30 ∧ 96 * 2 ^ 30 < pairAt [0x14, 4096, 0, 0, 24, 4096] 3 + 4096 ∧ s.hostFails (pairAt w 1) 4096 = false ∧ ({ s with hostBad := [(5000, 1)] } : State).hostFails (pairAt w 1) 4096 = true) ∧
    (Asked (tAdmin tW tWindowAsk) 0x15 0 tWindowAsk ∧ wordsClean tWindowAsk [0xF, 0, 2 ^ 32 - 1, 2 ^ 32 - 1, 2 ^ 32 - 1] = true ∧
      (let e := Window.ofNat (pairAt tWindowAsk 2 + pairAt tWindowAsk 4 * 2 ^ 64); e.v = true ∧ e.len = 1) ∧ ((tAdmin tW tWindowAsk).part 0).live = true) ∧
    (let w := [0x16, 5, 4096, 0, 4095, 1]
     Asked (tAdmin tW w) 0x16 0 w ∧ wordsClean w [0xFFF, 2 ^ 32 - 1, 2 ^ 32 - 1, 0xFFF, 0x1FFF, 2 ^ 32 - 1, 0xF] = true ∧ pairAt w 2 % 2 = 0 ∧ 4095 + 1 ≤ 4096 ∧ (∃ r ∈ tW.parts.rows, r.2.life ≠ .free) ∧
      (∀ r ∈ State.reset.parts.rows, r.2.life = .free) ∧ (tAdmin State.reset w).hostFails (pairAt w 2) 2 = false) ∧
    (let w := [0x16, 5, 0, 0, 0, 0, 5]; Asked (tAdmin State.reset w) 0x16 0 w ∧ ((tAdmin State.reset w).port 2).state ≠ 2 ∧ (pairAt w 6).testBit 2 = true) ∧
    (nth ((tThird .on []).elem 0).thirds 1 .off = .on ∧ 1 < ((tThird .on []).elem 0).thirds.length) := by
  refine ⟨⟨asked_of _ _ _ _ (by decide), by decide +kernel⟩, ⟨asked_of _ _ _ _ (by decide), by decide +kernel⟩, ?_, by decide +kernel, ⟨asked_of _ _ _ _ (by decide), by decide +kernel⟩, ?_,
    ⟨asked_of _ _ _ _ (by decide), by decide +kernel⟩, ?_, ⟨asked_of _ _ _ _ (by decide), by decide +kernel⟩, by decide +kernel, ⟨asked_of _ _ _ _ (by decide), by decide +kernel⟩,
    ⟨asked_of _ _ _ _ (by decide), by decide +kernel⟩, ⟨asked_of _ _ _ _ (by decide), by decide +kernel⟩, by decide +kernel⟩
  · intro c hc u hu
    simp only [List.mem_cons, List.not_mem_nil, or_false] at hc hu
    rcases hc with rfl | rfl <;> rcases hu with rfl | rfl <;> exact ⟨asked_of _ _ _ _ (by decide), by decide +kernel⟩
  · intro c hc u hu
    simp only [List.mem_cons, List.not_mem_nil, or_false] at hc hu
    rcases hc with rfl | rfl <;> rcases hu with rfl | rfl <;> exact ⟨asked_of _ _ _ _ (by decide), by decide +kernel⟩
  · intro w hw
    simp only [List.mem_cons, List.not_mem_nil, or_false] at hw
    rcases hw with rfl | rfl | rfl <;> exact ⟨asked_of _ _ _ _ (by decide), by decide +kernel⟩

/-- The tenant's clock has passed a period of the meter since its last record. -/
def tPeriod : State := (tAdmin tW [0]).modPart 0 fun x => { x with guest := 7 * 1000000000 }

theorem witness_DeviceEvents : State.reset.dev.mode = .off ∧ (tAdmin tW [0]).dev.mode ≠ .off ∧ (∀ n ∈ [0, 22], let s : State := { tW with dev := { tW.dev with mode := .seedling, admitted := (List.range n).map (· + 1) } }
      s.dev.mode = .seedling ∧ 0 ∉ s.dev.admitted ∧ s.dev.admitted.length = n) ∧ (let s : State := { tW with dev := { tW.dev with mode := .seedling, admitted := (List.range 23).map (· + 1) } }
      0 ∉ s.dev.admitted ∧ 23 ≤ s.dev.admitted.length) ∧
    (∀ m ∈ [none, some {}], let img : FwImage := ⟨true, 7, 1, m⟩; img.signed = true ∧ tW.dev.minVersion ≤ img.version ∧ img.manifest = m) ∧ ((⟨false, 7, 1, none⟩ : FwImage).signed = false) ∧
    (tW.dev.minVersion ≤ tW.dev.manifest.version ∧ ∀ r ∈ tW.dev.versions.rows, tW.dev.minVersion ≤ r.2) ∧ tW.memWf = true ∧
    (let s := tAdmin tW [0]; s.dev.mode = .service ∧ 3 ∉ s.dev.droop ∧ (s.part 0).life = .live) ∧
    (let x := tPeriod.part 0; x.live = true ∧ tPeriod.dev.waiting = [] ∧ x.tEnd / (x.period * 1000000000) < x.guest / 7 / (x.period * 1000000000)) ∧ tPeriod.up = true ∧ (∃ c ∈ tW.clustersOf 0, dieOfClus c = 0) ∧
    (let s : State := { tW with dev := { tW.dev with versions := Table.empty.put 2 0, minVersion := 1 } }; ∃ r ∈ s.dev.versions.rows, r.2 < s.dev.minVersion) := by decide +kernel

/-- A message of n flits to module 5; its route goes by port 3, else by port 4, and both are up. -/
def tRos (n : Nat) (b : RBody) : RMsg := ⟨n, 0, 1, 0, 0, 5, 5, b⟩
def tPorts (x : Port) : State :=
  { tHost (tTable tW) with dev := { tW.dev with mode := .service, routes := Table.empty.put 5 (0x8000 + 4 * 64 + 3) }, ports := (Table.empty.put 3 { x with state := 2 }).put 4 { state := 2 } }

def tFlit (q : BitVec 12) (k : RKind) : RFlit := ⟨q, 0, k, 0⟩
def tSlotTx (q : BitVec 12) (m : RMsg) (ue : Bool) (naks : Nat) : TxSlot := { seq := q, msg := m, part := 0, sentAt := 0, naks := naks, ue := ue }

def tM2 : RMsg := tRos 2 (.outcome [])
def tM1 : RMsg := tRos 1 (.outcome [])

theorem witness_PortEvents :
    (tPorts {}).linked = true ∧ (tPorts {}).up = true ∧ State.reset.linked = false ∧ (State.reset.port 3).state = 0 ∧
    ({ ({} : Port) with state := 1 }.state = 1 ∧ ((tPorts {}).port 3).state = 2 ∧ ((tPorts {}).port 3).window = [] ∧ ((tPorts {}).port 3).todo = [] ∧ ((tPorts {}).port 3).urgent = [] ∧
      ((tPorts {}).port 3).resend = [] ∧ ((tPorts {}).port 3).buf = []) ∧
    (let s := { tPorts { todo := [(tM2, 0), (tM2, 1)] } with dev := { tW.dev with routes := Table.empty.put 5 (0x8000 + 3 * 64 + 4) } }
     (s.port 3).todo = (List.range tM2.nfl).map (fun i => (tM2, i)) ∧ tM2.nfl ≠ 0 ∧ tM2.dmod ≠ s.dev.modId ∧ s.routeTo tM2.dmod = some 4 ∧ (s.dev.routes.get 0 tM2.dmod).toNat % 64 ≠ 3) ∧
    (∀ k ∈ [0, 62, 63], ((({ window := [tSlotTx 7 tM2 false k] } : Port).window.find? fun w => w.seq == 7).map fun w => w.naks) = some k) ∧
    (∃ w ∈ ({ window := [tSlotTx 7 tM2 false 0] } : Port).window, w.sentAt + 4 * 4096 ≤ ({ tPorts {} with t7 := 16384 } : State).t7) ∧
    (∀ k ∈ [RKind.idle, .nak 7, .data tM2 0, .void 0 9 1 5 0, .void 0 9 12 5 0], flitSound (tFlit 0 k) = true ∧ (tFlit 0 k).kind = k) ∧
    flitSound (tFlit 0 (.reserved 2)) = false ∧ ({ tFlit 0 .idle with noise := 1 } : RFlit).noise ≠ 0 ∧
    ((({} : Port).dead = [] ∧ ({ dead := [(tM1.smod, tM1.seng, tM1.mid, 0)] } : Port).dead = [(tM1.smod, tM1.seng, tM1.mid, 0)]) ∧ ({ msg := tM1, failed := false } : RxMsg).failed = false ∧
     ¬((tPorts {}).rxNext.get 0 (tM1.smod * 16 + tM1.seng) + 2 ^ 16 - 1 - tM1.mid.toNat) % 2 ^ 16 < 2 ^ 15 ∧
     (let s : State := { tPorts {} with rxNext := Table.empty.put (tM1.smod * 16 + tM1.seng) 1 }
      (s.rxNext.get 0 (tM1.smod * 16 + tM1.seng) + 2 ^ 16 - 1 - tM1.mid.toNat) % 2 ^ 16 < 2 ^ 15 ∧ s.rx = [] ∧ tM1.smod ≠ s.dev.modId) ∧ tM1.nfl ≤ 1 ∧ isPlain tM1.body = false) ∧
    ((tPorts {}).routeTo 5 = some 3 ∧ (({ tPorts {} with dev := { tW.dev with mode := .service, routes := Table.empty.put 5 (0x8000 + 3 * 64 + 4) } } : State).routeTo 5 = some 4)) ∧
    ((tFlit 0xFFF (.data tM2 0)).seq = ((tPorts {}).port 3).last ∧ (tFlit 0 (.data tM2 0)).seq = ((tPorts {}).port 3).last + 1 ∧ (tFlit 1 (.data tM2 0)).seq = ((tPorts {}).port 3).last + 2 ∧
      (1024 : Nat) < ((0xFFE : BitVec 12) - ((tPorts {}).port 3).last).toNat ∧ ((tPorts {}).port 3).last + 1 ∉ ((tPorts {}).port 3).naked) ∧
    ((tRos 1 (.ack 0 0)).nfl ≤ 1 ∧ 1 < tM2.nfl ∧ isPlain tM2.body = false) ∧ ({ urgent := [.nak 4] } : Port).urgent = .nak 4 :: [] ∧
    (∀ ue ∈ [false, true], (({ resend := [7], window := [tSlotTx 7 tM2 ue 0] } : Port).window.find? fun w => w.seq == 7) = some (tSlotTx 7 tM2 ue 0) ∧ (tSlotTx 7 tM2 ue 0).ce = false) ∧ (tSlotTx 7 (tRos 1 (.ack 0 0)) true 0).ue = true ∧
    (({ todo := [(tM2, 0)] } : Port).todo = (tM2, 0) :: [] ∧ ({ todo := [(tM2, 0)] } : Port).window.length < 1024) ∧
    1024 ≤ ({ todo := [(tM2, 0)], window := List.replicate 1024 (tSlotTx 7 tM2 false 0) } : Port).window.length := by
  refine ⟨by decide +kernel, by decide +kernel, by decide +kernel, by decide +kernel, by decide +kernel, by decide +kernel, by decide +kernel, by decide +kernel, by decide +kernel, by decide +kernel, by decide +kernel, by decide +kernel, by decide +kernel, by decide +kernel, by decide +kernel, by decide +kernel, by decide +kernel, by decide +kernel, by decide +kernel, by decide +kernel⟩

/-- A DISP's payload to slot 0's window 3 of module 0, whose receive buffer is at its start, and the state that receives it. -/
def tWire : DispWire := ⟨5, 3 * 2 ^ 41, List.replicate 16 0xAB, 2⟩
def tRx (b : RBody) (adm : Option Nat) (eff failed : Bool) (res : List (Nat × Option (BitVec 8))) : State :=
  let s := (tPorts {}).modPart 0 fun x => { x with exports := x.exports.put 3 { v := true, perm := 3, pmod := 0xFFF, pslot := 0x7F, base := 16, len := 1 } }
  { s with rx := [{ msg := tRos 1 b, failed := failed, adm := adm, res := res, eff := eff }] }

/-- A dispatch entry that its engine has sent, and a COLL of slot 0 on group 6. -/
def tEnt (sc : Bool) : DispEnt := ⟨1, { elem := 0 }, 0, 0, 2 ^ 20, 0, 1, 16, 4, 2 ^ 20 + 4096, 1, 1, 3 * 2 ^ 41, sc, true, none, 0, none⟩
def tCollRun : CollRun := { org := { elem := 0 }, slot := 0, cmd := ⟨0, .i32, 0, false, false, 0, 0, 0, 4⟩, gid := 6, seqNo := 0, topo := 0, members := [0, 0], rank := 0, own := [], acc := [] }
def tDispEng (e : DispEng) (b : RBody) : State := { tRx b none false false [] with disp := Table.empty.put 1 e }
def tCollAt (code : BitVec 8) (n : Nat) : State :=
  { tRx (.coll 6 0 0 tCollRun.cmd.ty.code n 0 0 code []) (some 0) false false [] with coll := Table.empty.put 1 { runs := [tCollRun] } }

/-- A dispatch table at 2 ^ 20 with one expert of module 5, and the message of a DISP of element 0 that names it. -/
def tTabled : State :=
  let s := { tPorts {} with phys := Memory.write (Memory.write (tTable tW).phys (2 ^ 20) (leBytes 16 (1 + 16 * 2 ^ 16))) (2 ^ 20 + 16) (leBytes 16 (5 * 2 ^ 52)) }
  tMsg s (.disp 0) (.disp { elem := 0 } ⟨0, 2 ^ 21, 2 ^ 20, false⟩ 0)

theorem witness_MessageEvents :
    (∀ b : Bool, ((tRx (.dispatch []) none false b []).rx[0]?).map (fun x => x.failed) = some b) ∧
    (∀ b ∈ [RBody.outcome [(1, none)], .dispatch [tWire]], let s := tRx b none true false []
      ((s.rxTurn 0).map fun x => (x.eff, x.msg.body)) = some (true, b) ∧ (tRos 1 b).smod ≠ s.dev.modId ∧ s.routeTo 5 = some 3) ∧
    (∀ b ∈ [RBody.ack 1 9, .fail 1 9], ((tRx b none false false []).rx[0]?).map (fun x => x.msg.body) = some b) ∧
    (let d : SrcMsg := ⟨1, { tRos 2 (.outcome []) with mid := 9 }, 0⟩; d.msg.seng = 1 ∧ d.msg.mid = 9 ∧ d.msg.dmod = (tRos 1 (.fail 1 9)).smod ∧ d.tries < 3 ∧ d.msg.dmod ≠ (tPorts {}).dev.modId ∧
      (tPorts {}).routeTo d.msg.dmod = some 3) ∧
    (tRx (.dispatch [tWire]) (some 0) false false []).dev.modId ≠ { tWire with ref := 2 ^ 52 }.ref.toNat / 2 ^ 52 % 2 ^ 12 ∧
    (∀ adm ∈ [none, some 0, some 0x65], let s := tRx (.dispatch [tWire]) adm false false []
      ((s.rxTurn 0).map fun x => x.msg.body) = some (.dispatch [tWire]) ∧ ((s.rxTurn 0).map fun x => (x.adm, x.eff, x.res.length)) = some (adm, false, 0) ∧ tWire.ref.toNat = 3 * 2 ^ 41 ∧
        s.dev.modId = 0 ∧ (s.part 0).life = .live ∧ (s.part 0).exports.get {} 3 = { v := true, perm := 3, pmod := 0xFFF, pslot := 0x7F, base := 16, len := 1 } ∧ 64 + 32 * (16 + tWire.payload.length) ≤ 2 ^ 16) ∧
    (let s := { tRx (.dispatch [tWire]) (some 0) false false [] with phys := [] }; ∃ e, s.gget 0 (2 ^ 20) 8 = .error e) ∧
    (∀ v ∈ [0, 32], let s := { tRx (.dispatch [tWire]) (some 0) false false [] with phys := Memory.write (tTable tW).phys (2 ^ 20) (leBytes 8 v) }
      ((s.gget 0 (2 ^ 20) 8).toOption.map fun r => leNat r.2) = some v ∧ (s.gput 0 (2 ^ 20) (leBytes 8 (v + 1))).toOption.isSome = true ∧
        (s.gput 0 (2 ^ 20 + 64) (leBytes 16 5 ++ tWire.payload)).toOption.isSome = true) ∧
    (let s := tTabled
     ((s.dropFlight 0).tableRead 0 (2 ^ 20) 0).2.toOption = some [1, 16, 0, 0, 5 * 2 ^ 52, 0] ∧ (s.gget 0 (2 ^ 21) 16).toOption.isSome = true ∧ s.routeTo 5 = some 3 ∧ (s.dispEng 0).ents = []) ∧
    Arrives tTabled 0 (.disp 0) (.disp { elem := 0 } ⟨0, 2 ^ 21, 2 ^ 20, false⟩ 0) 0 ∧
    (let s := tDispEng { settled := [⟨0, [1], 0⟩, ⟨0, [2], 3⟩] } (.outcome []); (s.dispEng 1).ents = [] ∧ (s.dispEng 1).flushes = [] ∧ ∀ d ∈ (s.dispEng 1).settled, d.kind < 4) ∧
    Arrives (tMsg tW (.disp 1) (.dflsh { elem := 0 } 1 false)) 0 (.disp 1) (.dflsh { elem := 0 } 1 false) 0 ∧
    (∀ r ∈ [none, some 0, some 0x52], ∀ sc, let s := tDispEng { ents := [tEnt sc] } (.outcome [(1, r)])
      ((s.rxTurn 0).map fun x => (x.eff, x.msg.body)) = some (false, .outcome [(1, r)]) ∧ (s.dispEng (1 % 12)).flushes = [] ∧ ((s.dispEng 1).ents.find? fun e => e.id == 1) = some (tEnt sc) ∧
        (tEnt sc).flush = none ∧ (tEnt sc).ovfK = none ∧ (s.gget 0 (tEnt sc).ovfAt 8).toOption.isSome = true ∧ (s.gput 0 (tEnt sc).ovfAt (leBytes 8 1)).toOption.isSome = true ∧
        (s.gput 0 ((tEnt sc).ovfAt + 64) (leBytes 16 0 ++ leBytes 16 0)).toOption.isSome = true) ∧
    (let e := tEnt false
     let y := { e with id := 13, wait := 3 }
     let s := tDispEng { ents := [y, e] } (.outcome [(1, some 0)])
     y ∈ (s.dispEng 1).ents ∧ y.id ≠ 1 ∧ y.list = e.list ∧ y.ref / 2 ^ 52 % 2 ^ 12 = e.ref / 2 ^ 52 % 2 ^ 12 ∧ y.wait = 3 ∧ ((s.dispEng 1).ents.find? fun e => e.id == 1) = some e) ∧
    (let e := { tEnt false with hdr := 2 ^ 16, nexp := 2, table := 2 ^ 20, ptr := 2 ^ 21 }
     let s := { tDispEng { ents := [e] } (.outcome [(1, some 0)]) with phys := Memory.write (Memory.write (tTable tW).phys (2 ^ 20) (leBytes 16 (2 + 16 * 2 ^ 16))) (2 ^ 20 + 32) (leBytes 16 (5 * 2 ^ 52)) }
     e.sc = false ∧ e.hdr / 2 ^ 16 % 2 ^ 16 = 1 ∧ (s.tableRead e.slot e.table 1).2.toOption = some [2, 16, 0, 0, 5 * 2 ^ 52, 0] ∧ (s.dispEng 1).ents = [e] ∧ e.wait = 0 ∧
      (s.gget e.slot e.ptr e.bytes).toOption.isSome = true ∧ s.routeTo 5 = some 3 ∧ s.dev.modId ≠ 5) ∧
    (∀ c ∈ [0, 0x52], ∀ n ∈ [4, 5], let s := tCollAt c n
      ((s.rxTurn 0).map fun x => (x.eff, x.adm, x.msg.dslot)) = some (false, some 0, 0) ∧ s.findColl 0 6 0 = some (1, tCollRun)) ∧
    (let s := tRx (.coll 6 0 0 0 4 0 0 0 []) (some 0) false false []; s.findColl 0 6 0 = none ∧ s.collCount 0 6 ≤ 0) := by
  refine ⟨by decide +kernel, by decide +kernel, by decide +kernel, by decide +kernel, by decide +kernel, by decide +kernel, error_of (by decide +kernel), by decide +kernel, by decide +kernel, ?_, by decide +kernel,
    arrives_tW _ _, by decide +kernel, by decide +kernel, by decide +kernel, by decide +kernel, by decide +kernel⟩
  exact arrives_of _ _ _ (by decide +kernel) (by decide +kernel)

/-- Element 0 about to run a word, the given one, of an activation at word `pc`; or to start a node whose head it is. -/
def tTurn (w : NWord) (pc : Nat) : State :=
  (State.reset.probe w).modElem 0 fun e => { e with seqs := e.seqs.map fun q => q.map fun y => { y with pc := pc } }

theorem witness_StepsRunTurns :
    (∀ pc ∈ [1, 2], let s := tTurn 0xE30200000000000000000000#96 pc
      s.agenda = [⟨0, .word 0⟩] ∧ ((s.atTurn 0 []).pickSeq 0).map (fun r => (r.1, r.2.pc, r.2.len)) = some (0, pc, 1) ∧ ((s.atTurn 0 []).elem 0).ecc = []) ∧
    (let x := (tTurn 0xE30200000000000000000000#96 1).atTurn 0 []
     ((x.pickSeq 0).bind fun r => decode ((x.elem 0).nodes.get 0 ((x.ctx 0 r.2.ctx).wbase + r.2.node + r.2.pc))).isSome = true) ∧
    (({ tTurn 0 1 with agenda := [⟨0, .word 5⟩] } : State).atTurn 0 []).pickSeq 5 = none ∧
    (let x := (tTurn 0 1).atTurn 0 []; (x.elem 0).wordNext ≤ x.cycle ∧ (x.elem 0).startNext ≤ x.cycle) ∧
    (let s := (tTurn 0 1).modElem 0 fun e => { e with wordNext := 1, startNext := 1 }
     let x := s.atTurn 0 []
     x.cycle < (x.elem 0).wordNext ∧ x.cycle < (x.elem 0).startNext) ∧
    (let s := tTurn tHeadWord 1
     let x := s.atTurn 0 []
     s.agenda = [⟨0, .start 0⟩] ∧ ((x.chooseStart 0).bind fun r => ((x.elem 0).live r.fh).map fun y => (decode ((x.elem 0).nodes.get 0 ((x.ctx 0 ((x.elem 0).readHdr y).ctx).wbase + r.node))).isSome) = some true ∧
      (x.elem 0).ecc = []) ∧
    (({ tTurn 0 1 with agenda := [⟨0, .start 5⟩] } : State).atTurn 0 []).chooseStart 5 = none ∧
    ((Instr.powerOn).isWord = false ∧ ∀ r ∈ State.reset.elems.rows, r.2.ecc = []) ∧ State.reset.agenda = [] ∧ State.reset.hurt = [] ∧
    ({ tW with hurt := [({}, 0x33)] } : State).hurt = [({}, 0x33)] := by decide +kernel

-- Values from the spec's worked examples -------------------------------------------------------------------------------------------------------------

/-- The lane from a container and a tail. -/
def ln (v : Word) (g : Bool := false) (s : Bool := false) : Lane := ⟨v, g, s⟩

/-- An activation of width `n` with lanes in t1, t2 and t3. -/
def tVals (n : Nat) (a b c : List Lane) : Act :=
  let pad (l : List Lane) : List Lane := (l ++ List.replicate 32 Lane.zero).take 32
  { tAct with width := n, temps := [pad [], pad a, pad b, pad c] ++ List.replicate 4 (pad []) }

/-- The first lanes of t0 after a word, and the exceptions noted in XS. -/
def ran (i : Instr) (act : Act) (k : Nat) : Option (List Lane × Bool) :=
  match exec i (tRun act) with
  | .next t => (nth (t.elem 0).seqs 0 none).map fun y => ((nth y.temps 0 []).take k, y.xs)
  | _ => none

/-- Operands t0, t1, t2 of a type. -/
def oV (ty : Ty) : OpA := { oA with ty := ty, d := .t 0, a := .t 1, b := .t 2, c := .t 3 }

/-- `add.f32` keeps a source's tail where the sum is exact (R85). -/
theorem test_add_tail : ran (.add (oV .f32)) (tVals 1 [ln 0x3F800000 true] [ln 0] []) 1 = some ([ln 0x3F800000 true], false) := by decide +kernel

/-- The table of R86. -/
theorem test_div : (ran (.div (oV .i32)) (tVals 1 [ln 7] [ln 0xFFFFFFFE] []) 1).map (fun r => r.1) = some [ln 0xFFFFFFFD] ∧
    (ran (.div (oV .i32)) (tVals 1 [ln 5] [ln 0] []) 1).map (fun r => r.1) = some [ln 0xFFFFFFFF] ∧
    (ran (.div (oV .i8)) (tVals 1 [ln 0xFFFFFF80] [ln 0xFFFFFFFF] []) 1).map (fun r => r.1) = some [ln 0xFFFFFF80] ∧
    (ran (.div (oV .n64)) (tVals 1 [ln 0, ln 1] [ln 3] []) 2).map (fun r => r.1) = some [ln 0x55555555, ln 0] := by decide +kernel

theorem test_rem : (ran (.rem (oV .i32)) (tVals 1 [ln 0xFFFFFFF9] [ln 2] []) 1).map (fun r => r.1) = some [ln 0xFFFFFFFF] ∧
    (ran (.rem (oV .n32)) (tVals 1 [ln 5] [ln 0] []) 1).map (fun r => r.1) = some [ln 5] ∧
    (ran (.rem (oV .n64)) (tVals 1 [ln 0, ln 1] [ln 3] []) 2).map (fun r => r.1) = some [ln 1, ln 0] := by decide +kernel

/-- `sar.i8` of 0b10000011 by 1 is -63, and a count past the width leaves copies of the sign (R89). -/
theorem test_sar : (ran (.sar (oV .i8)) (tVals 1 [ln 0xFFFFFF83] [ln 1] []) 1).map (fun r => r.1) = some [ln 0xFFFFFFC1] ∧
    (ran (.sar (oV .i32)) (tVals 1 [ln 0x80000000] [ln 32] []) 1).map (fun r => r.1) = some [ln 0xFFFFFFFF] := by decide +kernel

theorem test_shl_shr : (ran (.shl (oV .n32)) (tVals 1 [ln 1] [ln 32] []) 1).map (fun r => r.1) = some [ln 0] ∧
    (ran (.shr (oV .i8)) (tVals 1 [ln 0xFFFFFF83] [ln 1] []) 1).map (fun r => r.1) = some [ln 0x41] := by decide +kernel

theorem test_rot : (ran (.rot (oV .n32)) (tVals 1 [ln 0x80000001] [ln 33] []) 1).map (fun r => r.1) = some [ln 3] := by decide +kernel

/-- t1 = 0xF123456789ABCDEF, t2 = 0xAB, as in R92. -/
def tBits : Act := tVals 1 [ln 0x89ABCDEF, ln 0xF1234567] [ln 0xAB] []

/-- The tables of R91 and R92. -/
theorem test_bext : (ran (.bext { oV .n64 with ka := 8, kb := 8 }) tBits 2).map (fun r => r.1) = some [ln 0xCD, ln 0] ∧
    (ran (.bext { oV .i64 with ka := 56, kb := 16 }) tBits 2).map (fun r => r.1) = some [ln 0xFFFFFFF1, ln 0xFFFFFFFF] ∧
    (ran (.bext { oV .n64 with ka := 56, kb := 16 }) tBits 2).map (fun r => r.1) = some [ln 0xF1, ln 0] := by decide +kernel

theorem test_bins : (ran (.bins { oV .n64 with ka := 4, kb := 8 }) tBits 2).map (fun r => r.1) = some [ln 0x89ABCABF, ln 0xF1234567] ∧
    (ran (.bins { oV .n64 with ka := 60, kb := 8 }) tBits 2).map (fun r => r.1) = some [ln 0x89ABCDEF, ln 0xB1234567] ∧
    (ran (.bins { oV .n64 with ka := 64, kb := 4 }) tBits 2).map (fun r => r.1) = some [ln 0x89ABCDEF, ln 0xF1234567] := by decide +kernel

/-- R97: 0x0123456789ABCDEF in two words, and -2 in one. -/
theorem test_lit : (ran (.lit { oV .i64 with a := .lit, b := .t 0, lit := 0xFFFFFFFE }) (tVals 1 [] [] []) 2).map (fun r => r.1) = some [ln 0xFFFFFFFE, ln 0xFFFFFFFF] := by decide +kernel

theorem test_lith : (ran (.lith { oV .n64 with b := .lit, lit := 0x01234567 }) (tVals 1 [ln 0x89ABCDEF] [] []) 3).map (fun r => r.1) = some [ln 0x89ABCDEF, ln 0x01234567, ln 0] := by decide +kernel

/-- `vfma.f32` rounds once (R104). -/
theorem test_vfma : ran (.vfma (oV .f32)) (tVals 1 [ln 0x3F800800] [ln 0x3F7FF000] [ln 0xBF800000]) 1 = some ([ln 0xB3800000], false) := by decide +kernel

/-- `vabs.i8` and `vneg.i8` of -128 (R103). -/
theorem test_vabs : ran (.vabs (oV .i8)) (tVals 1 [ln 0xFFFFFF80] [] []) 1 = some ([ln 0xFFFFFF80], false) := by decide +kernel
theorem test_vneg : ran (.vneg (oV .i8)) (tVals 1 [ln 0xFFFFFF80] [] []) 1 = some ([ln 0xFFFFFF80], false) := by decide +kernel

/-- `vexp.e4m3` of 10 overflows to 472, held in f32 layout (R106). -/
theorem test_vexp : ran (.vexp (oV .e4m3)) (tVals 1 [ln 0x41200000] [] []) 1 = some ([ln 0x43EC0000], true) := by decide +kernel

/-- `vcvt.w4.f32` of 7.6 is 7 with both tail bits, `vcvt.i8.f32` of -2.3 is -3 with both (R63, R110). -/
theorem test_vcvt : ran (.vcvt { oV .w4 with ts := .f32 }) (tVals 1 [ln 0x40F33333] [] []) 1 = some ([ln 7 true true], false) ∧
    ran (.vcvt { oV .i8 with ts := .f32 }) (tVals 1 [ln 0xC0133333] [] []) 1 = some ([ln 0xFFFFFFFD true true], false) := by decide +kernel

/-- `vmov.f32` of a literal fills W lanes (R109). -/
theorem test_vmov : ran (.vmov { oV .f32 with a := .lit, lit := 0x3F000000 }) (tVals 2 [] [] []) 3 = some ([ln 0x3F000000, ln 0x3F000000, ln 0], false) := by decide +kernel

/-- The worked example of R112. -/
def tTerms : Act := tVals 4 [ln 0x3F800000, ln 0x33800000, ln 0x33800000, ln 0x33800000] [] []
theorem test_vred : ran (.vred (oV .f32)) tTerms 2 = some ([ln 0x3F800001 true, ln 0], false) := by decide +kernel
theorem test_vscan : ran (.vscan (oV .f32)) tTerms 5 = some ([ln 0x3F800000, ln 0x3F800000 true, ln 0x3F800001, ln 0x3F800001 true, ln 0], false) := by decide +kernel

/-- `viota.i8` from 100 in steps of 10 wraps (R111). -/
theorem test_viota : ran (.viota { oV .i8 with a := .lit, lit := 100, ka := 10 }) (tVals 4 [] [] []) 4 = some ([ln 100, ln 110, ln 120, ln 0xFFFFFF82], false) := by decide +kernel

/-- `vscl.sc20.w4` of a block whose largest magnitude is 3.5 (R116). -/
theorem test_vscl : (ran (.vscl { oV .sc20 with ts := .w4 }) (tVals 2 [ln 0x40600000, ln 0xBF800000] [] []) 1).map (fun r => r.1) = some [ln 0x7E000] := by decide +kernel

/-- `vpack.f32` joins two halves and `vunpk.f32` takes the high half (R114). -/
theorem test_vpack : ran (.vpack (oV .f32)) (tVals 4 [ln 1, ln 2] [ln 3, ln 4] []) 4 = some ([ln 1, ln 2, ln 3, ln 4], false) := by decide +kernel
theorem test_vunpk : ran (.vunpk { oV .f32 with fn := 1 }) (tVals 4 [ln 1, ln 2, ln 3, ln 4] [] []) 4 = some ([ln 3, ln 4, ln 0, ln 0], false) := by decide +kernel

/-- `stl.f32.rne` of that root, a tie, writes the even neighbour 0x3F800002 (R66, R112). -/
theorem test_stl_rne : (match exec (.stl { oM with ty := .f32, a := .z, c := .t 1, lit := 64, rm := 0 }) (tRun (tVals 1 [ln 0x3F800001 true] [] [])) with
    | .next t => Memory.readN (t.elem 0).mem 64 4 | _ => 0) = 0x3F800002 := by decide +kernel

/-- A state that meets the invariant and whose step goes on: an element with a byte in its local store, and a turn that brings an eviction image. -/
def tInv : State :=
  let s := State.reset.modElem 0 fun e => { e with mem := Memory.put e.mem 64 7, rng := 5, startCount := 63 }
  { s with agenda := [⟨0, .hostImage 4096 none⟩], host := Memory.put [] 8 1 }
theorem test_w_StepsKeepInvariant : tInv.inv ∧ ∃ t, step tInv = .next t := by
  refine ⟨⟨rfl, rfl, fun r h => ?_, (fun _ h => by cases h), fun t h a x e => ?_⟩, _, rfl⟩
  · cases List.mem_singleton.mp h
    exact ⟨rfl, by decide, by decide⟩
  · cases List.mem_singleton.mp h
    cases e

end Sys2Proof.Tests
end

section
/-! SUPPORT. Words and instructions: the fields of each format are read back as they were written, a word is its fields side by side,
and decoder and encoder agree (R17 to R35). -/

namespace Sys2Proof

-- Codes ------------------------------------------------------------------------------------------------------------------------------------

@[simp] theorem Ty.ofCode_toBits (t : Ty) : Ty.ofCode t.toBits = t := by cases t <;> rfl

@[simp] theorem Ty.toBits_ofCode : ∀ b : BitVec 4, (Ty.ofCode b).toBits = b := by decide

@[simp] theorem Sel.ofCode_toBits (x : Sel) : Sel.ofCode x.toBits = x := by
  cases x with
  | t k => revert k; decide
  | inp k => revert k; decide
  | lit | z | tag | fp => rfl

@[simp] theorem Sel.toBits_ofCode : ∀ b : BitVec 4, (Sel.ofCode b).toBits = b := by decide

-- Fields -----------------------------------------------------------------------------------------------------------------------------------

/-- A field that lies within the low part of a concatenation. -/
theorem slice_cat_low {n m : Nat} (x : BitVec n) (y : BitVec m) {lo k : Nat} (h : lo + k ≤ m) : (cat x y).extractLsb' lo k = y.extractLsb' lo k :=
  BitVec.extractLsb'_append_eq_of_add_le h

/-- A field that lies within the high part of a concatenation. -/
theorem slice_cat_high {n m : Nat} (x : BitVec n) (y : BitVec m) {lo k : Nat} (h : m ≤ lo) : (cat x y).extractLsb' lo k = x.extractLsb' (lo - m) k :=
  BitVec.extractLsb'_append_eq_of_le h

/-- The last step of the encoders, from a sum of widths to 96, keeps every field. -/
theorem fld_setWidth {n : Nat} (x : BitVec n) {lo k : Nat} (h : lo + k ≤ 96) : fld (x.setWidth 96) lo k = x.extractLsb' lo k := by
  unfold fld
  ext i hi
  have : lo + i < 96 := by omega
  simp [this]

/-- A bit is a field of one. -/
theorem bit_eq_fld (w : NWord) (k : Nat) : bit w k = (fld w k 1)[0] := by simp [bit, fld]

@[simp] theorem b1_bit (w : NWord) (k : Nat) : b1 (bit w k) = fld w k 1 := by
  ext i hi
  obtain rfl : i = 0 := by omega
  simp [b1, bit, fld]

@[simp] theorem b1_getElem (b : Bool) : (b1 b)[0] = b := by cases b <;> rfl

/-- Two fields side by side are one. -/
theorem cat_fld (w : NWord) {hi lo n m : Nat} (h : hi = lo + m) : cat (fld w hi n) (fld w lo m) = fld w lo (n + m) :=
  BitVec.extractLsb'_append_extractLsb'_eq_extractLsb' h

@[simp] theorem fld_whole (w : NWord) : fld w 0 96 = w := BitVec.extractLsb'_eq_self

@[simp] theorem Dst.ofBits_toBits (d : Dst) : Dst.ofBits d.toBits = d := by
  have node : (cat (cat d.node d.port) d.mode).extractLsb' 4 12 = d.node := by simp [slice_cat_high]
  have port : (cat (cat d.node d.port) d.mode).extractLsb' 2 2 = d.port := by simp [slice_cat_high, slice_cat_low]
  have mode : (cat (cat d.node d.port) d.mode).extractLsb' 0 2 = d.mode := by simp [slice_cat_low]
  obtain ⟨n, p, m⟩ := d
  exact congr (congr (congrArg Dst.mk node) port) mode

@[simp] theorem Dst.toBits_ofBits (b : BitVec 16) : (Dst.ofBits b).toBits = b := by
  have h : b.extractLsb' 4 12 ++ b.extractLsb' 2 2 = b.extractLsb' 2 (12 + 2) := BitVec.extractLsb'_append_extractLsb'_eq_extractLsb' rfl
  calc (b.extractLsb' 4 12 ++ b.extractLsb' 2 2) ++ b.extractLsb' 0 2
    _ = b.extractLsb' 2 (12 + 2) ++ b.extractLsb' 0 2 := by rw [h]
    _ = b.extractLsb' 0 16 := BitVec.extractLsb'_append_extractLsb'_eq_extractLsb' rfl
    _ = b := BitVec.extractLsb'_eq_self

-- Format N (R19) --------------------------------------------------------------------------------------------------------------

theorem OpN.ofWord_toWord (op : BitVec 8) (o : OpN) : OpN.ofWord (o.toWord op) = o := by
  simp [OpN.ofWord, OpN.toWord, dstAt, fld_setWidth, slice_cat_low, slice_cat_high, -BitVec.setWidth_eq]

theorem OpN.opcode_toWord (op : BitVec 8) (o : OpN) : fld (o.toWord op) 88 8 = op := by
  simp [OpN.toWord, fld_setWidth, slice_cat_high, -BitVec.setWidth_eq]

theorem OpN.rsv32_toWord (op : BitVec 8) (o : OpN) : fld (o.toWord op) 32 3 = 0 := by
  simp [OpN.toWord, fld_setWidth, slice_cat_low, slice_cat_high, -BitVec.setWidth_eq]

theorem OpN.toWord_ofWord (w : NWord) (r32 : fld w 32 3 = 0) : (OpN.ofWord w).toWord (fld w 88 8) = w := by
  simp [OpN.ofWord, OpN.toWord, dstAt, ← r32, cat_fld]

-- Format A (R22) --------------------------------------------------------------------------------------------------------------

theorem OpA.ofWord_toWord (op : BitVec 8) (o : OpA) : OpA.ofWord (o.toWord op) = o := by
  simp [OpA.ofWord, OpA.toWord, tyAt, selAt, bit_eq_fld, fld_setWidth, slice_cat_low, slice_cat_high, -BitVec.setWidth_eq]

theorem OpA.opcode_toWord (op : BitVec 8) (o : OpA) : fld (o.toWord op) 88 8 = op := by
  simp [OpA.toWord, fld_setWidth, slice_cat_high, -BitVec.setWidth_eq]

theorem OpA.rsv32_toWord (op : BitVec 8) (o : OpA) : fld (o.toWord op) 32 8 = 0 := by
  simp [OpA.toWord, fld_setWidth, slice_cat_low, slice_cat_high, -BitVec.setWidth_eq]

theorem OpA.toWord_ofWord (w : NWord) (r32 : fld w 32 8 = 0) : (OpA.ofWord w).toWord (fld w 88 8) = w := by
  simp [OpA.ofWord, OpA.toWord, tyAt, selAt, ← r32, cat_fld]

-- Format Y (R23) --------------------------------------------------------------------------------------------------------------

theorem OpY.ofWord_toWord (op : BitVec 8) (o : OpY) : OpY.ofWord (o.toWord op) = o := by
  simp [OpY.ofWord, OpY.toWord, tyAt, selAt, fld_setWidth, slice_cat_low, slice_cat_high, -BitVec.setWidth_eq]

theorem OpY.opcode_toWord (op : BitVec 8) (o : OpY) : fld (o.toWord op) 88 8 = op := by
  simp [OpY.toWord, fld_setWidth, slice_cat_high, -BitVec.setWidth_eq]

theorem OpY.rsv32_toWord (op : BitVec 8) (o : OpY) : fld (o.toWord op) 32 8 = 0 := by
  simp [OpY.toWord, fld_setWidth, slice_cat_low, slice_cat_high, -BitVec.setWidth_eq]

theorem OpY.toWord_ofWord (w : NWord) (r32 : fld w 32 8 = 0) : (OpY.ofWord w).toWord (fld w 88 8) = w := by
  simp [OpY.ofWord, OpY.toWord, tyAt, selAt, ← r32, cat_fld]

-- Format M (R24) --------------------------------------------------------------------------------------------------------------

theorem OpM.ofWord_toWord (op : BitVec 8) (o : OpM) : OpM.ofWord (o.toWord op) = o := by
  simp [OpM.ofWord, OpM.toWord, tyAt, selAt, dstAt, bit_eq_fld, fld_setWidth, slice_cat_low, slice_cat_high, -BitVec.setWidth_eq]

theorem OpM.opcode_toWord (op : BitVec 8) (o : OpM) : fld (o.toWord op) 88 8 = op := by
  simp [OpM.toWord, fld_setWidth, slice_cat_high, -BitVec.setWidth_eq]

theorem OpM.toWord_ofWord (w : NWord) : (OpM.ofWord w).toWord (fld w 88 8) = w := by
  simp [OpM.ofWord, OpM.toWord, tyAt, selAt, dstAt, cat_fld]

-- Format K (R25) --------------------------------------------------------------------------------------------------------------

theorem OpK.ofWord_toWord (op : BitVec 8) (o : OpK) : OpK.ofWord (o.toWord op) = o := by
  simp [OpK.ofWord, OpK.toWord, selAt, dstAt, bit_eq_fld, fld_setWidth, slice_cat_low, slice_cat_high, -BitVec.setWidth_eq]

theorem OpK.opcode_toWord (op : BitVec 8) (o : OpK) : fld (o.toWord op) 88 8 = op := by
  simp [OpK.toWord, fld_setWidth, slice_cat_high, -BitVec.setWidth_eq]

theorem OpK.toWord_ofWord (w : NWord) : (OpK.ofWord w).toWord (fld w 88 8) = w := by
  simp [OpK.ofWord, OpK.toWord, selAt, dstAt, cat_fld]

-- Format S (R26) --------------------------------------------------------------------------------------------------------------

theorem OpS.ofWord_toWord (op : BitVec 8) (o : OpS) : OpS.ofWord (o.toWord op) = o := by
  simp [OpS.ofWord, OpS.toWord, tyAt, selAt, dstAt, bit_eq_fld, fld_setWidth, slice_cat_low, slice_cat_high, -BitVec.setWidth_eq]

theorem OpS.opcode_toWord (op : BitVec 8) (o : OpS) : fld (o.toWord op) 88 8 = op := by
  simp [OpS.toWord, fld_setWidth, slice_cat_high, -BitVec.setWidth_eq]

theorem OpS.toWord_ofWord (w : NWord) : (OpS.ofWord w).toWord (fld w 88 8) = w := by
  simp [OpS.ofWord, OpS.toWord, tyAt, selAt, dstAt, cat_fld]

-- Format X (R27) --------------------------------------------------------------------------------------------------------------

theorem OpX.ofWord_toWord (op : BitVec 8) (o : OpX) : OpX.ofWord (o.toWord op) = o := by
  simp [OpX.ofWord, OpX.toWord, selAt, dstAt, bit_eq_fld, fld_setWidth, slice_cat_low, slice_cat_high, -BitVec.setWidth_eq]

theorem OpX.opcode_toWord (op : BitVec 8) (o : OpX) : fld (o.toWord op) 88 8 = op := by
  simp [OpX.toWord, fld_setWidth, slice_cat_high, -BitVec.setWidth_eq]

theorem OpX.rsv68_toWord (op : BitVec 8) (o : OpX) : fld (o.toWord op) 68 4 = 0 := by
  simp [OpX.toWord, fld_setWidth, slice_cat_low, slice_cat_high, -BitVec.setWidth_eq]

theorem OpX.rsv60_toWord (op : BitVec 8) (o : OpX) : fld (o.toWord op) 60 5 = 0 := by
  simp [OpX.toWord, fld_setWidth, slice_cat_low, slice_cat_high, -BitVec.setWidth_eq]

theorem OpX.toWord_ofWord (w : NWord) (r68 : fld w 68 4 = 0) (r60 : fld w 60 5 = 0) : (OpX.ofWord w).toWord (fld w 88 8) = w := by
  simp [OpX.ofWord, OpX.toWord, selAt, dstAt, ← r68, ← r60, cat_fld]

-- The opcode map (R33) ------------------------------------------------------------------------------------------------------------------------

/-- The opcode's high three bits name the column. -/
theorem group_eq (w : NWord) : (fld w 93 3).toNat = (fld w 88 8).toNat / 32 := by
  simp only [fld, BitVec.extractLsb'_toNat, Nat.shiftRight_eq_div_pow]
  omega

/-- The opcode's low five bits name the row. -/
theorem row_eq (w : NWord) : (fld w 88 5).toNat = (fld w 88 8).toNat % 32 := by
  simp only [fld, BitVec.extractLsb'_toNat, Nat.shiftRight_eq_div_pow]
  omega

theorem opcode_of_group {w : NWord} {g : Nat} (hg : (fld w 93 3).toNat = g) : BitVec.ofNat 8 (32 * g + (fld w 88 5).toNat) = fld w 88 8 := by
  rw [← hg, group_eq, row_eq, Nat.div_add_mod, BitVec.ofNat_toNat, BitVec.setWidth_eq]

theorem group_cases (w : NWord) : (fld w 93 3).toNat = 0 ∨ (fld w 93 3).toNat = 1 ∨ (fld w 93 3).toNat = 2 ∨ (fld w 93 3).toNat = 3 ∨
    (fld w 93 3).toNat = 4 ∨ (fld w 93 3).toNat = 5 ∨ (fld w 93 3).toNat = 6 ∨ (fld w 93 3).toNat = 7 := by
  have := (fld w 93 3).isLt
  omega

theorem rsvN_of_fmtRsv {w : NWord} (hr : fmtRsv w = false) (hg : (fld w 93 3).toNat = 0) : fld w 32 3 = 0 := by simpa [fmtRsv, hg] using hr

/-- Formats A and Y share their reserved bits. -/
theorem rsvA_of_fmtRsv {w : NWord} (hr : fmtRsv w = false) (hg : (fld w 93 3).toNat = 1 ∨ (fld w 93 3).toNat = 2 ∨ (fld w 93 3).toNat = 3) : fld w 32 8 = 0 := by
  obtain hg | hg | hg := hg <;> simpa [fmtRsv, hg] using hr

theorem rsvX_of_fmtRsv {w : NWord} (hr : fmtRsv w = false) (hg : (fld w 93 3).toNat = 7) : fld w 68 4 = 0 ∧ fld w 60 5 = 0 := by simpa [fmtRsv, hg] using hr

/-- Word `w` names `i`: its opcode and fields give `i`, and its format's reserved bits are zero. -/
def Names (w : NWord) (i : Instr) : Prop := decodeRaw w = some i ∧ fmtRsv w = false

/-- A word decodes to the instruction that it names, if that passes the checks of R35. -/
theorem decode_eq_some_iff (w : NWord) (i : Instr) : decode w = some i ↔ Names w i ∧ i.reason = none := by
  unfold decode checkWord Names
  cases hd : decodeRaw w with
  | none => simp
  | some j =>
    cases hf : fmtRsv w with
    | true => simp
    | false =>
      cases hr : j.reason with
      | none => simpa [hr] using fun h : j = i => h ▸ hr
      | some r =>
        have h : j = i → i.reason ≠ none := by rintro rfl; simp [hr]
        simpa [hr] using h

-- From fields to the word's name ----------------------------------------------------------------------------------------------------------------

theorem names_of_colN {op : BitVec 8} {o : OpN} {i : Instr} (hg : op.toNat / 32 = 0) (hi : (colN[op.toNat % 32]?).map (· o) = some i) : Names (o.toWord op) i := by
  simp [Names, decodeRaw, fmtRsv, group_eq, row_eq, OpN.opcode_toWord, OpN.ofWord_toWord, OpN.rsv32_toWord, hg, hi]

theorem names_of_colA1 {op : BitVec 8} {o : OpA} {i : Instr} (hg : op.toNat / 32 = 1) (hi : (colA1[op.toNat % 32]?).map (· o) = some i) : Names (o.toWord op) i := by
  simp [Names, decodeRaw, fmtRsv, group_eq, row_eq, OpA.opcode_toWord, OpA.ofWord_toWord, OpA.rsv32_toWord, hg, hi]

theorem names_of_colA2 {op : BitVec 8} {o : OpA} {i : Instr} (hg : op.toNat / 32 = 2) (hi : (colA2[op.toNat % 32]?).map (· o) = some i) : Names (o.toWord op) i := by
  simp [Names, decodeRaw, fmtRsv, group_eq, row_eq, OpA.opcode_toWord, OpA.ofWord_toWord, OpA.rsv32_toWord, hg, hi]

theorem names_of_colY {op : BitVec 8} {o : OpY} {i : Instr} (hg : op.toNat / 32 = 3) (hi : (colY[op.toNat % 32]?).map (· o) = some i) : Names (o.toWord op) i := by
  simp [Names, decodeRaw, fmtRsv, group_eq, row_eq, OpY.opcode_toWord, OpY.ofWord_toWord, OpY.rsv32_toWord, hg, hi]

theorem names_of_colM {op : BitVec 8} {o : OpM} {i : Instr} (hg : op.toNat / 32 = 4) (hi : (colM[op.toNat % 32]?).map (· o) = some i) : Names (o.toWord op) i := by
  simp [Names, decodeRaw, fmtRsv, group_eq, row_eq, OpM.opcode_toWord, OpM.ofWord_toWord, hg, hi]

theorem names_of_colK {op : BitVec 8} {o : OpK} {i : Instr} (hg : op.toNat / 32 = 5) (hi : (colK[op.toNat % 32]?).map (· o) = some i) : Names (o.toWord op) i := by
  simp [Names, decodeRaw, fmtRsv, group_eq, row_eq, OpK.opcode_toWord, OpK.ofWord_toWord, hg, hi]

theorem names_of_colS {op : BitVec 8} {o : OpS} {i : Instr} (hg : op.toNat / 32 = 6) (hi : (colS[op.toNat % 32]?).map (· o) = some i) : Names (o.toWord op) i := by
  simp [Names, decodeRaw, fmtRsv, group_eq, row_eq, OpS.opcode_toWord, OpS.ofWord_toWord, hg, hi]

theorem names_of_colX {op : BitVec 8} {o : OpX} {i : Instr} (hg : op.toNat / 32 = 7) (hi : (colX[op.toNat % 32]?).map (· o) = some i) : Names (o.toWord op) i := by
  simp [Names, decodeRaw, fmtRsv, group_eq, row_eq, OpX.opcode_toWord, OpX.ofWord_toWord, OpX.rsv68_toWord, OpX.rsv60_toWord, hg, hi]

-- From the word's name to its fields ------------------------------------------------------------------------------------------------------------

/-- A column lists instructions in the order of their opcodes. -/
theorem encode_of_row {α : Type} {col : List (α → Instr)} {enc : BitVec 8 → α → NWord} {base : Nat}
    (h : ∀ p ∈ col.zipIdx base, ∀ o, encode (p.1 o) = some (enc (BitVec.ofNat 8 p.2) o)) {k : Nat} {f : α → Instr} (hf : col[k]? = some f) (o : α) :
    encode (f o) = some (enc (BitVec.ofNat 8 (base + k)) o) :=
  h (f, base + k) (List.mk_add_mem_zipIdx_iff_getElem?.mpr hf) o

theorem encode_mkMbind (o : OpY) : encode (mkMbind o) = some (o.toWord 0x63) := by unfold mkMbind; split <;> rfl

theorem encode_mkMfree (o : OpY) : encode (mkMfree o) = some (o.toWord 0x64) := by
  unfold mkMfree
  split
  · rfl
  · split <;> rfl

theorem encode_colN : ∀ p ∈ colN.zipIdx (32 * 0), ∀ o, encode (p.1 o) = some (OpN.toWord (BitVec.ofNat 8 p.2) o) := by
  simp only [colN, List.cons_append, List.nil_append, List.zipIdx_cons, List.zipIdx_nil, List.forall_mem_cons, List.not_mem_nil, false_implies, implies_true, and_true]
  and_intros <;> exact fun _ => rfl

theorem encode_colA1 : ∀ p ∈ colA1.zipIdx (32 * 1), ∀ o, encode (p.1 o) = some (OpA.toWord (BitVec.ofNat 8 p.2) o) := by
  simp only [colA1, List.cons_append, List.nil_append, List.zipIdx_cons, List.zipIdx_nil, List.forall_mem_cons, List.not_mem_nil, false_implies, implies_true, and_true]
  and_intros <;> exact fun _ => rfl

theorem encode_colA2 : ∀ p ∈ colA2.zipIdx (32 * 2), ∀ o, encode (p.1 o) = some (OpA.toWord (BitVec.ofNat 8 p.2) o) := by
  simp only [colA2, List.cons_append, List.nil_append, List.zipIdx_cons, List.zipIdx_nil, List.forall_mem_cons, List.not_mem_nil, false_implies, implies_true, and_true]
  and_intros <;> exact fun _ => rfl

theorem encode_colY : ∀ p ∈ colY.zipIdx (32 * 3), ∀ o, encode (p.1 o) = some (OpY.toWord (BitVec.ofNat 8 p.2) o) := by
  simp only [colY, List.zipIdx_cons, List.zipIdx_nil, List.forall_mem_cons, List.not_mem_nil, false_implies, implies_true, and_true]
  exact ⟨fun _ => rfl, fun _ => rfl, fun _ => rfl, encode_mkMbind, encode_mkMfree, fun _ => rfl, fun _ => rfl, fun _ => rfl, fun _ => rfl, fun _ => rfl⟩

theorem encode_colM : ∀ p ∈ colM.zipIdx (32 * 4), ∀ o, encode (p.1 o) = some (OpM.toWord (BitVec.ofNat 8 p.2) o) := by
  simp only [colM, List.cons_append, List.nil_append, List.zipIdx_cons, List.zipIdx_nil, List.forall_mem_cons, List.not_mem_nil, false_implies, implies_true, and_true]
  and_intros <;> exact fun _ => rfl

theorem encode_colK : ∀ p ∈ colK.zipIdx (32 * 5), ∀ o, encode (p.1 o) = some (OpK.toWord (BitVec.ofNat 8 p.2) o) := by
  simp only [colK, List.cons_append, List.nil_append, List.zipIdx_cons, List.zipIdx_nil, List.forall_mem_cons, List.not_mem_nil, false_implies, implies_true, and_true]
  and_intros <;> exact fun _ => rfl

theorem encode_colS : ∀ p ∈ colS.zipIdx (32 * 6), ∀ o, encode (p.1 o) = some (OpS.toWord (BitVec.ofNat 8 p.2) o) := by
  simp only [colS, List.cons_append, List.nil_append, List.zipIdx_cons, List.zipIdx_nil, List.forall_mem_cons, List.not_mem_nil, false_implies, implies_true, and_true]
  and_intros <;> exact fun _ => rfl

theorem encode_colX : ∀ p ∈ colX.zipIdx (32 * 7), ∀ o, encode (p.1 o) = some (OpX.toWord (BitVec.ofNat 8 p.2) o) := by
  simp only [colX, List.cons_append, List.nil_append, List.zipIdx_cons, List.zipIdx_nil, List.forall_mem_cons, List.not_mem_nil, false_implies, implies_true, and_true]
  and_intros <;> exact fun _ => rfl

/-- The encoder gives back the word that names an instruction: its column has it at its row. -/
theorem encode_of_names {w : NWord} {i : Instr} (h : Names w i) : encode i = some w := by
  obtain ⟨hd, hr⟩ := h
  obtain hg | hg | hg | hg | hg | hg | hg | hg := group_cases w <;> simp only [decodeRaw, hg] at hd <;> obtain ⟨f, hf, rfl⟩ := Option.map_eq_some_iff.mp hd
  · rw [encode_of_row encode_colN hf, opcode_of_group hg, OpN.toWord_ofWord w (rsvN_of_fmtRsv hr hg)]
  · rw [encode_of_row encode_colA1 hf, opcode_of_group hg, OpA.toWord_ofWord w (rsvA_of_fmtRsv hr (.inl hg))]
  · rw [encode_of_row encode_colA2 hf, opcode_of_group hg, OpA.toWord_ofWord w (rsvA_of_fmtRsv hr (.inr (.inl hg)))]
  · rw [encode_of_row encode_colY hf, opcode_of_group hg, OpY.toWord_ofWord w (rsvA_of_fmtRsv hr (.inr (.inr hg)))]
  · rw [encode_of_row encode_colM hf, opcode_of_group hg, OpM.toWord_ofWord w]
  · rw [encode_of_row encode_colK hf, opcode_of_group hg, OpK.toWord_ofWord w]
  · rw [encode_of_row encode_colS hf, opcode_of_group hg, OpS.toWord_ofWord w]
  · obtain ⟨r68, r60⟩ := rsvX_of_fmtRsv hr hg
    rw [encode_of_row encode_colX hf, opcode_of_group hg, OpX.toWord_ofWord w r68 r60]

-- The forms of MBIND and MFREE (R180, R182) -------------------------------------------------------------------------------------------------------

/-- An instruction without a reason has no field out of range (R35). -/
theorem badField_of_reason {i : Instr} (h : i.reason = none) : i.badField = false := by
  unfold Instr.reason at h
  repeat (split at h; · cases h)
  exact eq_false_of_ne_true ‹¬i.badField = true›

theorem fieldBad_of_reason {i : Instr} {k : Nat} {o : OpY} (hs : i.shape = .y k o) (h : i.reason = none) : o.fieldBad k = false := by
  simpa [Instr.badField, hs] using badField_of_reason h

theorem mkMbind_eq_mbindW {o : OpY} (h : (Instr.mbindW o).reason = none) : mkMbind o = .mbindW o := by
  have ka : o.ka = 0 := BitVec.eq_of_toNat_eq (by simpa [OpY.fieldBad] using fieldBad_of_reason rfl h)
  simp [mkMbind, ka]

theorem mkMbind_eq_mbindOp {o : OpY} (h : (Instr.mbindOp o).reason = none) : mkMbind o = .mbindOp o := by
  have ⟨hk, _⟩ : o.ka.toNat = 1 ∧ o.cdst.badField = false := by simpa [OpY.fieldBad] using fieldBad_of_reason rfl h
  have ka : o.ka = 1 := BitVec.eq_of_toNat_eq hk
  simp [mkMbind, ka]

theorem mkMfree_eq_mfreeW {o : OpY} (h : (Instr.mfreeW o).reason = none) : mkMfree o = .mfreeW o := by
  have ka : o.ka = 0 := BitVec.eq_of_toNat_eq (by simpa [OpY.fieldBad] using fieldBad_of_reason rfl h)
  simp [mkMfree, ka]

theorem mkMfree_eq_mfreeOp {o : OpY} (h : (Instr.mfreeOp o).reason = none) : mkMfree o = .mfreeOp o := by
  have ⟨hk, _⟩ : o.ka.toNat = 1 ∧ o.cdst.badField = false := by simpa [OpY.fieldBad] using fieldBad_of_reason rfl h
  have ka : o.ka = 1 := BitVec.eq_of_toNat_eq hk
  simp [mkMfree, ka]

theorem mkMfree_eq_mfreeCfg {o : OpY} (h : (Instr.mfreeCfg o).reason = none) : mkMfree o = .mfreeCfg o := by
  have ⟨hk, _⟩ : o.ka.toNat = 2 ∧ o.cdst.badField = false := by simpa [OpY.fieldBad] using fieldBad_of_reason rfl h
  have ka : o.ka = 2 := BitVec.eq_of_toNat_eq hk
  simp [mkMfree, ka]

-- Both ways ----------------------------------------------------------------------------------------------------------------------------------------

/-- The word that encodes an instruction names it, where no check of R35 fails: KA then says the form of MBIND or MFREE. -/
theorem names_of_encode {w : NWord} {i : Instr} (he : encode i = some w) (hr : i.reason = none) : Names w i := by
  cases i with
  | seq o | steer o | merge o | gate o | loop o | next o | exit o | call o | retn o | join o | sink o | const o | prune o =>
    obtain rfl := Option.some.inj he
    exact names_of_colN rfl rfl
  | add o | sub o | mul o | mulh o | div o | rem o | min o | max o | and o | or o | xor o | andn o | shl o | shr o | sar o | rot o | clz o
  | popc o | bext o | bins o | sel o | cmp o | plog o | mov o | lit o | lith o | lea o | tagr o | idr o =>
    obtain rfl := Option.some.inj he
    exact names_of_colA1 rfl rfl
  | vadd o | vsub o | vmul o | vfma o | vdiv o | vsqrt o | vrcp o | vrsq o | vexp o | vlog o | vtanh o | vmin o | vmax o | vabs o | vneg o
  | vcmp o | vsel o | vcvt o | vrnd o | vtail o | vshuf o | vtrn o | vred o | vscan o | vbcst o | viota o | vpack o | vunpk o | colr o | vscl o
  | vmov o | vbit o =>
    obtain rfl := Option.some.inj he
    exact names_of_colA2 rfl rfl
  | mode o | mcfg o | mwld o | mdrn o | mstat o | scsnd o | scpr o | zskp o =>
    obtain rfl := Option.some.inj he
    exact names_of_colY rfl rfl
  | ldl o | stl o | ldc o | stc o | ldg o | stg o | copy o | gath o | scat o | pref o | clean o | inval o | alloc o | free o | hold o | aqry o
  | tful o =>
    obtain rfl := Option.some.inj he
    exact names_of_colM rfl rfl
  | send o | emit o | sendc o | mcast o | mask o | unmsk o | walk o | split o | wstat o | kick o | lnch o | disp o | dflsh o | coll o | rstat o =>
    obtain rfl := Option.some.inj he
    exact names_of_colK rfl rfl
  | phreg o | phdrp o | phsig o | phwt o | phsw o | amo o | cas o | famo o | fence o | bind o | unbnd o | acq o | rel o | osec o | oend o
  | otok o | futn o | fres o | freg o =>
    obtain rfl := Option.some.inj he
    exact names_of_colS rfl rfl
  | nop o | trap o | brk o | time o | rtime o | metr o | csrr o | csrw o | erri o | rseed o | perf o | sysc o | halt o | frzr o =>
    obtain rfl := Option.some.inj he
    exact names_of_colX rfl rfl
  | mbindW o =>
    obtain rfl := Option.some.inj he
    exact names_of_colY rfl (congrArg some (mkMbind_eq_mbindW hr))
  | mbindOp o =>
    obtain rfl := Option.some.inj he
    exact names_of_colY rfl (congrArg some (mkMbind_eq_mbindOp hr))
  | mfreeW o =>
    obtain rfl := Option.some.inj he
    exact names_of_colY rfl (congrArg some (mkMfree_eq_mfreeW hr))
  | mfreeOp o =>
    obtain rfl := Option.some.inj he
    exact names_of_colY rfl (congrArg some (mkMfree_eq_mfreeOp hr))
  | mfreeCfg o =>
    obtain rfl := Option.some.inj he
    exact names_of_colY rfl (congrArg some (mkMfree_eq_mfreeCfg hr))
  | _ => cases he

theorem isWord_eq_isSome_encode (i : Instr) : i.isWord = (encode i).isSome := by cases i <;> rfl

theorem wellFormed_iff (i : Instr) : i.wellFormed = true ↔ i.isWord = true ∧ i.reason = none := by simp [Instr.wellFormed]

/-- Settles O56: the word that encodes an instruction names it, and the other way round; both sides ask for no reason of R35. -/
theorem wordsRoundTrip : Obligations.WordsRoundTrip := by
  unfold Obligations.WordsRoundTrip
  intro w i
  rw [decode_eq_some_iff, wellFormed_iff, isWord_eq_isSome_encode]
  constructor
  · rintro ⟨hn, hr⟩
    have he := encode_of_names hn
    exact ⟨⟨by simp [he], hr⟩, he⟩
  · rintro ⟨⟨-, hr⟩, he⟩
    exact ⟨names_of_encode he hr, hr⟩

/-- Settles O57: the ten words decoded. -/
theorem sampleWords : Obligations.SampleWords := by
  unfold Obligations.SampleWords
  decide

end Sys2Proof
end

section
/-! SUPPORT. Words of groups 1 and 2: what the shared forms of their meanings change of an activation, and what CMP, VCMP and PLOG write (R83, R94, R95, R101, R104). -/

namespace Sys2Proof.Machine

-- What a word may change of its activation -----------------------------------------------------------------------------------------------------

/-- From `a` to `b` nothing changes but temporary `d`, the note of the lanes written, which grows, and XS, which stays set. -/
structure OnlyTemp (d : Sel) (a b : Act) : Prop where
  same : b = { a with temps := b.temps, wrote := b.wrote, xs := b.xs }
  wrote : a.wrote <+: b.wrote
  temps : ∀ r : Fin 8, d ≠ .t r → nth b.temps r.val [] = nth a.temps r.val []
  xs : a.xs = true → b.xs = true

/-- From `a` to `b` nothing changes but predicate `p`, and for pt nothing at all. -/
structure OnlyPred (p : Nat) (a b : Act) : Prop where
  same : b = { a with preds := b.preds }
  preds : ∀ q, q ≤ 3 → q ≠ p → b.pred q = a.pred q
  pt : p = 0 → b = a

namespace OnlyTemp

variable {d : Sel} {a b : Act}

theorem refl (d : Sel) (a : Act) : OnlyTemp d a a := ⟨rfl, List.prefix_refl _, fun _ _ => rfl, id⟩

theorem setTemp (a : Act) (d : Sel) (ls : List Lane) : OnlyTemp d a (a.setTemp d ls) := by
  cases d with
  | t k =>
    refine ⟨rfl, List.prefix_append _ _, fun r hr => ?_, id⟩
    have hk : r.val ≠ k.val := fun e => hr (congrArg Sel.t (Fin.ext e.symm))
    simp only [Act.setTemp]
    rw [nth_map_range 8 r.val _ _ r.isLt, if_neg hk]
  | inp | lit | z | tag | fp => exact refl _ a

theorem raise (h : OnlyTemp d a b) (x : Exc) : OnlyTemp d a (b.raise x) :=
  ⟨congrArg (fun y => y.raise x) h.same, h.wrote, h.temps, fun hx => by simp [Act.raise, h.xs hx]⟩

/-- Raising the exceptions of lane after lane. -/
theorem raise_foldl (h : OnlyTemp d a b) (rs : List (Option (Lane × Exc))) :
    OnlyTemp d a (rs.foldl (fun b r => match r with | some x => b.raise x.2 | none => b) b) := by
  induction rs generalizing b with
  | nil => exact h
  | cons r rs ih =>
    cases r with
    | none => exact ih h
    | some x => exact ih (h.raise x.2)

theorem wrInt (a : Act) (o : OpA) (x : Int) : OnlyTemp o.d a (a.wrInt o x) := by unfold Act.wrInt; split <;> exact setTemp ..

theorem copy0 (a : Act) (o : OpA) (x : Sel) : OnlyTemp o.d a (a.copy0 o x) := by unfold Act.copy0; split <;> exact setTemp ..

theorem wrFlt (a : Act) (o : OpA) (r : Lane × Exc) : OnlyTemp o.d a (a.wrFlt o r) := (setTemp a o.d _).raise r.2

theorem aid_eq (h : OnlyTemp d a b) : b.aid = a.aid := by rw [h.same]
theorem preds_eq (h : OnlyTemp d a b) : b.preds = a.preds := by rw [h.same]
theorem width_eq (h : OnlyTemp d a b) : b.width = a.width := by rw [h.same]

theorem pred_eq (h : OnlyTemp d a b) (p : Nat) : b.pred p = a.pred p := by unfold Act.pred; rw [h.preds_eq]

end OnlyTemp

namespace OnlyPred

variable {p : Nat} {a b : Act}

theorem refl (p : Nat) (a : Act) : OnlyPred p a a := ⟨rfl, fun _ _ _ => rfl, fun _ => rfl⟩

theorem setPred (a : Act) (p : Nat) (bs : List Bool) : OnlyPred p a (a.setPred p bs) := by
  by_cases hp : p = 0
  · rw [Act.setPred, if_pos hp]; exact refl _ _
  · rw [Act.setPred, if_neg hp]
    refine ⟨rfl, fun q hq hne => ?_, fun h => absurd h hp⟩
    unfold Act.pred
    by_cases h0 : q = 0
    · simp [h0]
    · have hpq : q - 1 ≠ p - 1 := by omega
      simp only [h0, if_false]
      rw [nth_map_range 3 (q - 1) _ _ (by omega), if_neg hpq]

theorem aid_eq (h : OnlyPred p a b) : b.aid = a.aid := by rw [h.same]
theorem temps_eq (h : OnlyPred p a b) : b.temps = a.temps := by rw [h.same]
theorem wrote_eq (h : OnlyPred p a b) : b.wrote = a.wrote := by rw [h.same]
theorem xs_eq (h : OnlyPred p a b) : b.xs = a.xs := by rw [h.same]
theorem width_eq (h : OnlyPred p a b) : b.width = a.width := by rw [h.same]

end OnlyPred

/-- A written predicate is read back lane by lane. -/
theorem pred_setPred (a : Act) {p : Nat} (h0 : p ≠ 0) (h3 : p ≤ 3) (bs : List Bool) (j : Nat) : (a.setPred p bs).pred p j = nth bs j false := by
  rw [Act.setPred, if_neg h0]
  simp only [Act.pred, h0, if_false]
  rw [nth_map_range 3 (p - 1) _ _ (by omega), if_pos rfl]

-- What the shared forms of groups 1 and 2 do ------------------------------------------------------------------------------------------------------

/-- A word that ends as `r` completes and of its activation changes what may change with destination temporary `d`. -/
def WritesTemp (s : State) (c : Cur) (act : Act) (d : Sel) (r : Out) : Prop := ∃ t b, r = .next t ∧ OnlyAct s t c b ∧ OnlyTemp d act b

section
variable {s : State} {c : Cur} {act : Act} {o : OpA}

theorem runPure_writes {d : Sel} {f : State → Nat → Act → Act} (h : Runs s c act) (hf : OnlyTemp d act (f s c.elem act)) : WritesTemp s c act d (runPure s f) := by
  obtain ⟨t, ht, ho⟩ := runPure_done f h hf.aid_eq
  exact ⟨t, _, ht, ho, hf⟩

theorem scalar_writes {f : Act → Act} (h : Runs s c act) (hf : OnlyTemp o.d act (f act)) : WritesTemp s c act o.d (scalar o s f) := by
  refine runPure_writes h ?_
  split
  · exact hf
  · exact .refl _ _

theorem arith_writes (fi : Int → Int → Int) (ff : Val → Val → Val × Exc) (h : Runs s c act) : WritesTemp s c act o.d (arith o s fi ff) := by
  refine scalar_writes h ?_
  dsimp only
  split
  · exact .wrFlt _ _ _
  · exact .wrInt _ _ _

theorem lanewise_writes (f : Act → Nat → Lane × Exc) (h : Runs s c act) : WritesTemp s c act o.d (lanewise o s f) :=
  runPure_writes h ((OnlyTemp.setTemp act o.d _).raise_foldl _)

theorem tagr_writes (h : Runs s c act) : WritesTemp s c act o.d (execTagr o s) := by
  refine scalar_writes h ?_
  dsimp only
  split <;> exact .wrInt _ _ _

theorem lea_writes (h : Runs s c act) : WritesTemp s c act o.d (execLea o s) := by
  refine scalar_writes h ?_
  dsimp only
  split <;> exact .wrInt _ _ _

theorem idr_writes (h : Runs s c act) : WritesTemp s c act o.d (execIdr o s) := by
  refine runPure_writes h ?_
  split
  · exact .wrInt _ _ _
  · exact .refl _ _

theorem vred_writes (h : Runs s c act) : WritesTemp s c act o.d (execVred o s) := by
  unfold execVred
  exact runPure_writes h ((OnlyTemp.setTemp _ _ _).raise _)

theorem vscan_writes (h : Runs s c act) : WritesTemp s c act o.d (execVscan o s) := by
  unfold execVscan
  exact runPure_writes h ((OnlyTemp.setTemp _ _ _).raise _)

theorem vscl_writes (h : Runs s c act) : WritesTemp s c act o.d (execVscl o s) := by
  refine runPure_writes h ?_
  dsimp only
  split
  · exact (OnlyTemp.setTemp _ _ _).raise _
  · split
    · exact .setTemp _ _ _
    · exact .refl _ _

end

/-- The words of groups 1 and 2 that write one temporary: all but CMP, PLOG and VCMP, VTRN, COLR and VRND. -/
theorem exec_writes {i : Instr} {o : OpA} {s : State} {c : Cur} {act : Act} (hi : pureWord i = some o) (hp : writesPred i = false) (hv : ∀ x, i ≠ .vtrn x)
    (hc : ∀ x, i ≠ .colr x) (h : Runs s c act) : WritesTemp s c act o.d (exec i s) := by
  cases i with
  | add o | sub o | mul o => cases hi; simp only [exec_add, exec_sub, exec_mul]; exact arith_writes _ _ h
  | mulh o | and o | or o | xor o | andn o | shl o | shr o | sar o | rot o | clz o | popc o | bext o | bins o =>
    cases hi; exact scalar_writes h (.wrInt _ _ _)
  | div o | rem o => cases hi; exact scalar_writes h ((OnlyTemp.wrInt _ _ _).raise _)
  | min o | max o | sel o | mov o | lit o => cases hi; exact scalar_writes h (.copy0 _ _ _)
  | lith o => cases hi; exact scalar_writes h (.setTemp _ _ _)
  | lea o => cases hi; exact lea_writes h
  | tagr o => cases hi; exact tagr_writes h
  | idr o => cases hi; exact idr_writes h
  | vadd o | vsub o | vmul o | vfma o | vdiv o | vsqrt o | vrcp o | vrsq o | vexp o | vlog o | vtanh o | vmin o | vmax o | vabs o | vneg o | vsel o
  | vcvt o | vtail o | vshuf o | vbcst o | viota o | vpack o | vunpk o | vmov o | vbit o => cases hi; exact lanewise_writes _ h
  | vred o => cases hi; exact vred_writes h
  | vscan o => cases hi; exact vscan_writes h
  | vscl o => cases hi; exact vscl_writes h
  | cmp o | plog o | vcmp o => cases hp
  | vtrn o => exact absurd rfl (hv o)
  | colr o => exact absurd rfl (hc o)
  | _ => cases hi

-- Predicates, VTRN and COLR ------------------------------------------------------------------------------------------------------------------------

/-- The activation that CMP leaves (R94). -/
def cmpAct (o : OpA) (act : Act) : Act :=
  if act.guard o.pr o.pn 0 then act.setPred o.d.code (List.replicate 32 (condOk o.fn.toNat (act.order0 o))) else act

/-- Lane `i` of the predicate that VCMP writes (R104). -/
def vcmpLane (o : OpA) (act : Act) (i : Nat) : Bool :=
  if act.width ≤ i then false
  else if act.guard o.pr o.pn i then condOk o.fn.toNat (ordLane o.ty (vsrc o act o.a i) (vsrc o act o.b i)) else act.pred o.d.code i

/-- Lane `i` of the predicate that PLOG writes, its guard included (R95). -/
def plogGuarded (o : OpA) (act : Act) (i : Nat) : Bool :=
  if act.guard o.pr o.pn i then plogLane act o.fn.toNat o.a.code o.b.code i else act.pred o.d.code i

theorem execCmp_eq (o : OpA) (s : State) : execCmp o s = runPure s fun _ _ => cmpAct o := rfl

theorem execVcmp_eq (o : OpA) (s : State) : execVcmp o s = runPure s fun _ _ a => a.setPred o.d.code ((List.range 32).map (vcmpLane o a)) := rfl

theorem execPlog_eq (o : OpA) (s : State) : execPlog o s = runPure s fun _ _ a => a.setPred o.d.code ((List.range 32).map (plogGuarded o a)) := rfl

theorem cmpAct_onlyPred (o : OpA) (act : Act) : OnlyPred o.d.code act (cmpAct o act) := by
  unfold cmpAct
  split
  · exact .setPred _ _ _
  · exact .refl _ _

section
variable {s : State} {c : Cur} {act : Act}

theorem cmp_done (o : OpA) (h : Runs s c act) : ∃ t, exec (.cmp o) s = .next t ∧ OnlyAct s t c (cmpAct o act) := by
  rw [exec_cmp, execCmp_eq]
  exact runPure_done _ h (cmpAct_onlyPred o act).aid_eq

theorem vcmp_done (o : OpA) (h : Runs s c act) :
    ∃ t, exec (.vcmp o) s = .next t ∧ OnlyAct s t c (act.setPred o.d.code ((List.range 32).map (vcmpLane o act))) := by
  rw [exec_vcmp, execVcmp_eq]
  exact runPure_done _ h (setPred_aid _ _ _)

theorem plog_done (o : OpA) (h : Runs s c act) :
    ∃ t, exec (.plog o) s = .next t ∧ OnlyAct s t c (act.setPred o.d.code ((List.range 32).map (plogGuarded o act))) := by
  rw [exec_plog, execPlog_eq]
  exact runPure_done _ h (setPred_aid _ _ _)

/-- VTRN changes the temporaries alone (R110). -/
theorem vtrn_done (o : OpA) (h : Runs s c act) : ∃ t ts, exec (.vtrn o) s = .next t ∧ OnlyAct s t c { act with temps := ts } := by
  rw [exec_vtrn, execVtrn, runPure_of _ h.1 h.2]
  exact ⟨_, _, rfl, onlyAct_put h rfl⟩

/-- COLR writes its destination and W (R113). -/
theorem colr_done (o : OpA) (h : Runs s c act) : ∃ t b w, exec (.colr o) s = .next t ∧ OnlyAct s t c { b with width := w } ∧ OnlyTemp o.d act b := by
  rw [exec_colr, execColr, runPure_of _ h.1 h.2]
  cases hg : act.guard o.pr o.pn 0 with
  | true => exact ⟨_, _, _, rfl, onlyAct_put h (setTemp_aid _ _ _), .setTemp _ _ _⟩
  | false => exact ⟨_, act, act.width, rfl, onlyAct_put h rfl, .refl _ _⟩

/-- A predicate word completes and of its activation changes its predicate alone. -/
theorem exec_onlyPred {i : Instr} {o : OpA} (hi : pureWord i = some o) (hp : writesPred i = true) (h : Runs s c act) :
    ∃ t b, exec i s = .next t ∧ OnlyAct s t c b ∧ OnlyPred o.d.code act b := by
  cases i with
  | cmp x =>
    obtain rfl : x = o := Option.some.inj hi
    obtain ⟨t, ht, ho⟩ := cmp_done x h
    exact ⟨t, _, ht, ho, cmpAct_onlyPred x act⟩
  | vcmp x =>
    obtain rfl : x = o := Option.some.inj hi
    obtain ⟨t, ht, ho⟩ := vcmp_done x h
    exact ⟨t, _, ht, ho, .setPred _ _ _⟩
  | plog x =>
    obtain rfl : x = o := Option.some.inj hi
    obtain ⟨t, ht, ho⟩ := plog_done x h
    exact ⟨t, _, ht, ho, .setPred _ _ _⟩
  | _ => cases hp

end

-- Every word but VRND -------------------------------------------------------------------------------------------------------------------------------

/-- What a word of group 1 or 2 may change of its activation: its destination, the note of the lanes written, XS, and W for COLR. -/
def PureChange (i : Instr) (o : OpA) (a b : Act) : Prop :=
  b = { a with temps := b.temps, wrote := b.wrote, preds := b.preds, xs := b.xs, width := b.width } ∧ a.wrote <+: b.wrote ∧
  (∀ r : Fin 8, o.d ≠ .t r ∨ writesPred i = true → (∀ x, i ≠ .vtrn x) → nth b.temps r.val [] = nth a.temps r.val []) ∧
  (∀ p, p ≤ 3 → writesPred i = false ∨ p ≠ o.d.code → b.pred p = a.pred p) ∧
  ((∀ x, i ≠ .colr x) → b.width = a.width) ∧
  (a.xs = true → b.xs = true)

theorem OnlyTemp.pureChange {i : Instr} {o : OpA} {a b : Act} (hp : writesPred i = false) (h : OnlyTemp o.d a b) : PureChange i o a b := by
  refine ⟨?_, h.wrote, fun r hr _ => h.temps r (hr.resolve_right (by simp [hp])), fun p _ _ => h.pred_eq p, fun _ => h.width_eq, h.xs⟩
  rw [h.preds_eq, h.width_eq]
  exact h.same

theorem OnlyPred.pureChange {i : Instr} {o : OpA} {a b : Act} (hp : writesPred i = true) (h : OnlyPred o.d.code a b) : PureChange i o a b := by
  refine ⟨?_, h.wrote_eq.symm ▸ List.prefix_refl _, fun _ _ _ => by rw [h.temps_eq], fun p hle hne => h.preds p hle (hne.resolve_left (by simp [hp])),
    fun _ => h.width_eq, fun hx => h.xs_eq.trans hx⟩
  rw [h.temps_eq, h.wrote_eq, h.xs_eq, h.width_eq]
  exact h.same

theorem pureChange_temps (o : OpA) (a : Act) (ts : List (List Lane)) : PureChange (.vtrn o) o a { a with temps := ts } :=
  ⟨rfl, List.prefix_refl _, fun _ _ hn => absurd rfl (hn o), fun _ _ _ => rfl, fun _ => rfl, id⟩

theorem pureChange_width {o : OpA} {a b : Act} (w : Nat) (h : OnlyTemp o.d a b) : PureChange (.colr o) o a { b with width := w } := by
  obtain ⟨hs, hw, ht, hp, -, hx⟩ := h.pureChange (i := .colr o) rfl
  exact ⟨congrArg (fun y : Act => { y with width := w }) hs, hw, ht, hp, fun hn => absurd rfl (hn o), hx⟩

theorem exec_pureChange {i : Instr} {o : OpA} {s : State} {c : Cur} {act : Act} (hi : pureWord i = some o) (h : Runs s c act) :
    ∃ t b, exec i s = .next t ∧ OnlyAct s t c b ∧ PureChange i o act b := by
  by_cases hv : ∃ x, i = .vtrn x
  · obtain ⟨x, rfl⟩ := hv
    obtain rfl : x = o := Option.some.inj hi
    obtain ⟨t, ts, ht, ho⟩ := vtrn_done x h
    exact ⟨t, _, ht, ho, pureChange_temps x act ts⟩
  by_cases hc : ∃ x, i = .colr x
  · obtain ⟨x, rfl⟩ := hc
    obtain rfl : x = o := Option.some.inj hi
    obtain ⟨t, b, w, ht, ho, hb⟩ := colr_done x h
    exact ⟨t, _, ht, ho, pureChange_width w hb⟩
  cases hp : writesPred i with
  | true =>
    obtain ⟨t, b, ht, ho, hb⟩ := exec_onlyPred hi hp h
    exact ⟨t, b, ht, ho, hb.pureChange hp⟩
  | false =>
    obtain ⟨t, b, ht, ho, hb⟩ := exec_writes hi hp (fun x e => hv ⟨x, e⟩) (fun x e => hc ⟨x, e⟩) h
    exact ⟨t, b, ht, ho, hb.pureChange hp⟩

/-- Settles O1: each word takes one of the shared forms (scalar, lane by lane, a predicate), and what a form changes is proved once; VTRN and COLR stand apart. -/
theorem pureWordsComplete : Obligations.PureWordsComplete := by
  unfold Obligations.PureWordsComplete
  intro i o s c act hi h
  exact exec_pureChange hi h

-- Conditions ----------------------------------------------------------------------------------------------------------------------------------------

/-- A condition code asked of the order of two numbers (R94). -/
theorem condOk_compare (fn : Nat) (x y : Int) : condOk fn (compare x y) = true ↔ Meets fn x y := by
  match fn with
  | 0 => exact beq_iff_eq.trans Int.compare_eq_eq
  | 1 => exact bne_iff_ne.trans (not_congr Int.compare_eq_eq)
  | 2 => exact beq_iff_eq.trans Int.compare_eq_lt
  | 3 => exact bne_iff_ne.trans Int.compare_ne_gt
  | 4 => exact beq_iff_eq.trans Int.compare_eq_gt
  | n + 5 => exact bne_iff_ne.trans Int.compare_ne_lt

theorem condHolds_order0 (o : OpA) (a : Act) (fn : Nat) :
    CondHolds o.ty fn (a.src o.ty o.lit o.a 0) (a.src o.ty o.lit o.b 0) (a.ival o o.a) (a.ival o o.b) (condOk fn (a.order0 o)) := by
  unfold CondHolds Act.order0
  split
  · rfl
  · exact condOk_compare _ _ _

theorem condHolds_ordLane (t : Ty) (fn : Nat) (x y : Lane) : CondHolds t fn x y (intOf t x.v) (intOf t y.v) (condOk fn (ordLane t x y)) := by
  unfold CondHolds ordLane
  split
  · rfl
  · exact condOk_compare _ _ _

-- Predicates read back ------------------------------------------------------------------------------------------------------------------------------

theorem nth_replicate {α : Type} {n j : Nat} (x d : α) (h : j < n) : nth (List.replicate n x) j d = x := by simp [nth, h]

theorem cmpAct_true {o : OpA} {a : Act} (hg : a.guard o.pr o.pn 0 = true) (h0 : o.d.code ≠ 0) (h3 : o.d.code ≤ 3) {j : Nat} (hj : j < 32) :
    (cmpAct o a).pred o.d.code j = condOk o.fn.toNat (a.order0 o) := by
  rw [cmpAct, if_pos hg, pred_setPred a h0 h3, nth_replicate _ _ hj]

theorem cmpAct_false {o : OpA} {a : Act} (hg : a.guard o.pr o.pn 0 = false) : cmpAct o a = a := by simp [cmpAct, hg]

/-- A predicate written lane by lane is read back. -/
theorem pred_setPred_lanes (a : Act) {p : Nat} (h0 : p ≠ 0) (h3 : p ≤ 3) (f : Nat → Bool) {j : Nat} (hj : j < 32) :
    (a.setPred p ((List.range 32).map f)).pred p j = f j := by
  rw [pred_setPred a h0 h3, nth_map_range 32 j _ _ hj]

/-- What PLOG's lane is, operation by operation (R95). -/
theorem plogLane_spec (a : Act) (fn : BitVec 5) (p q j : Nat) :
    (fn = 0 → plogLane a fn.toNat p q j = (a.pred p j && a.pred q j)) ∧
    (fn = 1 → plogLane a fn.toNat p q j = (a.pred p j || a.pred q j)) ∧
    (fn = 2 → plogLane a fn.toNat p q j = (a.pred p j ^^ a.pred q j)) ∧
    (fn = 3 → plogLane a fn.toNat p q j = (a.pred p j && !a.pred q j)) ∧
    (fn = 4 → plogLane a fn.toNat p q j = !a.pred p j) ∧
    (fn = 5 → (plogLane a fn.toNat p q j = true ↔ ∃ l < a.width, a.pred p l = true)) ∧
    (fn = 6 → (plogLane a fn.toNat p q j = true ↔ ∀ l < a.width, a.pred p l = true)) := by
  refine ⟨?_, ?_, ?_, ?_, ?_, ?_, ?_⟩ <;> rintro rfl <;> simp [plogLane]

/-- Settles O4: each word writes its predicate lane by lane, and a lane is read back as it was computed; conditions are read by `condOk_compare`. -/
theorem predicateWords : Obligations.PredicateWords := by
  unfold Obligations.PredicateWords
  rintro i o s c act hi h3 h
  obtain rfl | rfl | rfl := hi
  · obtain ⟨t, ht, ho⟩ := cmp_done o h
    have hb := cmpAct_onlyPred o act
    refine ⟨t, _, ht, ho, hb.same, hb.pt, fun h0 j hj => ⟨fun _ hg => ?_, fun _ hg => ?_, nofun, nofun, nofun, nofun, nofun⟩⟩
    · rw [cmpAct_true hg h0 h3 hj]
      exact condHolds_order0 o act _
    · rw [cmpAct_false hg]
  · obtain ⟨t, ht, ho⟩ := vcmp_done o h
    have hb := OnlyPred.setPred act o.d.code ((List.range 32).map (vcmpLane o act))
    refine ⟨t, _, ht, ho, hb.same, hb.pt, fun h0 j hj => ?_⟩
    rw [pred_setPred_lanes act h0 h3 _ hj]
    refine ⟨nofun, nofun, fun _ hw hg => ?_, fun _ hw hg => ?_, fun _ hw => ?_, nofun, nofun⟩
    · have hl : vcmpLane o act j = condOk o.fn.toNat (ordLane o.ty (vsrc o act o.a j) (vsrc o act o.b j)) := by simp [vcmpLane, hg, Nat.not_le.mpr hw]
      rw [hl]
      exact condHolds_ordLane _ _ _ _
    · simp [vcmpLane, hg, Nat.not_le.mpr hw]
    · simp [vcmpLane, hw]
  · obtain ⟨t, ht, ho⟩ := plog_done o h
    have hb := OnlyPred.setPred act o.d.code ((List.range 32).map (plogGuarded o act))
    refine ⟨t, _, ht, ho, hb.same, hb.pt, fun h0 j hj => ?_⟩
    rw [pred_setPred_lanes act h0 h3 _ hj]
    refine ⟨nofun, nofun, nofun, nofun, nofun, fun _ hg => ?_, fun _ hg => ?_⟩
    · simp [plogGuarded, hg]
    · have hl : plogGuarded o act j = plogLane act o.fn.toNat o.a.code o.b.code j := by simp [plogGuarded, hg]
      rw [hl]
      exact plogLane_spec act o.fn o.a.code o.b.code j

end Sys2Proof.Machine
end

section
/-! SUPPORT. Scalar words: the checks of R35 that their entries decide, integer patterns and their wrapping, and the lanes of a scalar result (R57, R64, R83). -/

namespace Sys2Proof

-- The checks of R35 on words of group 1 ---------------------------------------------------------------------------------------------------------------

theorem reason_eq_none_iff (i : Instr) : i.reason = none ↔
    i.rsvBits = false ∧ i.badSel = false ∧ i.badType = false ∧ i.badField = false ∧ i.badNone = false ∧ i.badLit = false ∧ i.badLen = false := by
  unfold Instr.reason
  grind

theorem badType_of_reason {i : Instr} (h : i.reason = none) : i.badType = false := by
  obtain ⟨-, -, ht, -⟩ := (reason_eq_none_iff i).mp h
  exact ht

/-- A word whose entry names its types has one of them (R84). -/
theorem tys_of_wellFormed {i : Instr} {D : ADesc} {o : OpA} (hs : i.shape = .a D o) (hu : D.tyUsed = true) (h : i.wellFormed = true) : D.tys o.ty = true := by
  have hb := badType_of_reason ((wellFormed_iff i).mp h).2
  simp only [Instr.badType, hs, Bool.or_eq_false_iff] at hb
  obtain ⟨⟨ht, -⟩, -⟩ := hb
  simpa [hu] using ht

/-- MOV and SEL admit every type (R93, R96); a literal would be checked against the type (R34). -/
theorem mov_wellFormed_of_ty {o : OpA} (ty : Ty) (ha : o.a ≠ .lit) (h : (Instr.mov o).wellFormed = true) : (Instr.mov { o with ty := ty }).wellFormed = true := by
  rw [wellFormed_iff, reason_eq_none_iff] at h ⊢
  obtain ⟨-, hr, hs, -, hf, -, -, -⟩ := h
  exact ⟨rfl, hr, hs, rfl, hf, rfl, by simp [Instr.badLit, Instr.shape, da, ha], rfl⟩

theorem sel_wellFormed_of_ty {o : OpA} (ty : Ty) (ha : o.a ≠ .lit) (hb : o.b ≠ .lit) (h : (Instr.sel o).wellFormed = true) :
    (Instr.sel { o with ty := ty }).wellFormed = true := by
  rw [wellFormed_iff, reason_eq_none_iff] at h ⊢
  obtain ⟨-, hr, hs, -, hf, -, -, -⟩ := h
  exact ⟨rfl, hr, hs, rfl, hf, rfl, by simp [Instr.badLit, Instr.shape, ha, hb], rfl⟩

/-- SEL's predicate is one of four (R93). -/
theorem sel_not_wellFormed {o : OpA} (h : 3 < o.ka.toNat) : (Instr.sel o).wellFormed = false := by
  have hb : (Instr.sel o).badField = true := by simp [Instr.badField, Instr.shape, overMax, h]
  refine eq_false_of_ne_true fun hw => ?_
  have := badField_of_reason ((wellFormed_iff _).mp hw).2
  simp [hb] at this

end Sys2Proof

namespace Sys2Proof.Machine

/-- The words that admit the integer types alone, by their entries. -/
theorem intWord_shape {i : Instr} {n : Nat} {o : OpA} (h : intWord i = some (n, o)) : ∃ D, i.shape = .a D o ∧ D.tyUsed = true ∧ D.tys = Ty.isInt := by
  cases i with
  | div x | rem x | and x | or x | xor x | andn x | shl x | shr x | sar x | rot x | clz x | popc x => cases h; exact ⟨_, rfl, rfl, rfl⟩
  | _ => cases h

theorem encode_intWord {i : Instr} {n : Nat} {o : OpA} (h : intWord i = some (n, o)) : n < 2 ^ 8 ∧ encode i = some (o.toWord (BitVec.ofNat 8 n)) := by
  cases i with
  | div x | rem x | and x | or x | xor x | andn x | shl x | shr x | sar x | rot x | clz x | popc x => cases h; exact ⟨by decide, rfl⟩
  | _ => cases h

-- Patterns and wrapping ---------------------------------------------------------------------------------------------------------------------------------

theorem bits_le_32 : ∀ {t : Ty}, t.is64 = false → t.bits ≤ 32 := by intro t; cases t <;> decide

theorem bits_of_is64 : ∀ {t : Ty}, t.is64 = true → t.bits = 64 := by intro t; cases t <;> decide

theorem two_pow_bits (t : Ty) : 2 ^ t.bits = 2 * 2 ^ (t.bits - 1) := by cases t <;> rfl

theorem natCast_two_pow (n : Nat) : ((2 ^ n : Nat) : Int) = 2 ^ n := Int.natCast_pow 2 n

theorem two_pow_pos_int (n : Nat) : (0 : Int) < 2 ^ n := Int.pow_pos (by decide)

/-- The numbers are the same up to the wrap of the type (R64). -/
def WrapEq (t : Ty) (x y : Int) : Prop := x % 2 ^ t.bits = y % 2 ^ t.bits

theorem WrapEq.refl (t : Ty) (x : Int) : WrapEq t x x := rfl

theorem WrapEq.symm {t : Ty} {x y : Int} (h : WrapEq t x y) : WrapEq t y x := Eq.symm h

theorem WrapEq.trans {t : Ty} {x y z : Int} (h : WrapEq t x y) (g : WrapEq t y z) : WrapEq t x z := Eq.trans h g

theorem WrapEq.dvd {t : Ty} {x y : Int} (h : WrapEq t x y) : (2 : Int) ^ t.bits ∣ x - y :=
  Int.dvd_of_emod_eq_zero (Int.emod_eq_emod_iff_emod_sub_eq_zero.mp h)

theorem wrapEq_natCast {t : Ty} {p q : Nat} (h : p % 2 ^ t.bits = q % 2 ^ t.bits) : WrapEq t p q := by
  rw [WrapEq, ← natCast_two_pow, ← Int.natCast_emod, ← Int.natCast_emod, h]

theorem patInt_wrapEq (t : Ty) (p : Nat) : WrapEq t (patInt t p) p := by
  have hk : WrapEq t (p % 2 ^ t.bits : Nat) p := wrapEq_natCast (Nat.mod_mod _ _)
  unfold patInt
  dsimp only
  split
  · exact (Int.sub_emod_right _ _).trans hk
  · exact hk

theorem patOf_cast (t : Ty) (x : Int) : (patOf t x : Int) = x % 2 ^ t.bits := Int.toNat_of_nonneg (Int.emod_nonneg _ (Int.ne_of_gt (two_pow_pos_int _)))

theorem patOf_wrapEq (t : Ty) (x : Int) : WrapEq t (patOf t x) x := by
  rw [patOf_cast]
  exact Int.emod_emod _ _

theorem patOf_lt (t : Ty) (x : Int) : patOf t x < 2 ^ t.bits := by
  rw [← Int.ofNat_lt, patOf_cast, natCast_two_pow]
  exact Int.emod_lt_of_pos x (two_pow_pos_int _)

theorem inRange_patInt (t : Ty) (p : Nat) : InRange t (patInt t p) := by
  have hb := two_pow_bits t
  have hk : p % 2 ^ t.bits < 2 ^ t.bits := Nat.mod_lt _ (Nat.two_pow_pos _)
  have cn := natCast_two_pow t.bits
  have ch := natCast_two_pow (t.bits - 1)
  unfold InRange patInt
  generalize p % 2 ^ t.bits = k at hk ⊢
  cases t.isSigned with
  | false =>
    simp only [Bool.false_and, Bool.false_eq_true, if_false]
    omega
  | true =>
    by_cases hm : 2 ^ (t.bits - 1) ≤ k
    · simp only [hm, Bool.true_and, decide_true, if_true]
      omega
    · simp only [hm, Bool.true_and, decide_false, if_true, Bool.false_eq_true, if_false]
      omega

/-- The number of a type that an exact result is wrapped to (R64). -/
def wrapInt (t : Ty) (x : Int) : Int := patInt t (patOf t x)

theorem wrapInt_wrapEq (t : Ty) (x : Int) : WrapEq t (wrapInt t x) x := (patInt_wrapEq _ _).trans (patOf_wrapEq _ _)

theorem wrapsTo_wrapInt {t : Ty} {x y : Int} (h : WrapEq t x y) : WrapsTo t y (wrapInt t x) :=
  ⟨inRange_patInt _ _, ((wrapInt_wrapEq t x).trans h).dvd⟩

/-- A container of at most 32 bits holds the wrapped number, extended (R57). -/
theorem wrapT_eq_wrapInt {t : Ty} (h : t.is64 = false) (x : Int) : wrapT t x = BitVec.ofInt 32 (wrapInt t x) := by
  have hp : patOf t x % 2 ^ t.bits = patOf t x := Nat.mod_eq_of_lt (patOf_lt t x)
  unfold wrapT wrapInt patInt
  rw [Nat.min_eq_left (bits_le_32 h), hp, patOf]
  dsimp only
  split
  · rfl
  · exact (BitVec.ofInt_natCast _ _).symm

/-- The lane pair of a 64-bit number holds its low and its high word (R57). -/
theorem lanePair_ofInt (x : Int) :
    lanePair (BitVec.ofInt 64 x) false false = Lane.ofWord (BitVec.ofInt 32 x) :: Lane.ofWord (BitVec.ofInt 32 (x / 2 ^ 32)) :: List.replicate 30 Lane.zero := by
  have lo : (BitVec.ofInt 64 x).setWidth 32 = BitVec.ofInt 32 x := by
    apply BitVec.eq_of_toNat_eq
    simp only [BitVec.toNat_setWidth, BitVec.toNat_ofInt]
    omega
  have hi : (BitVec.ofInt 64 x >>> 32).setWidth 32 = BitVec.ofInt 32 (x / 2 ^ 32) := by
    apply BitVec.eq_of_toNat_eq
    simp only [BitVec.toNat_setWidth, BitVec.toNat_ushiftRight, BitVec.toNat_ofInt, Nat.shiftRight_eq_div_pow]
    omega
  rw [lanePair, lo, hi]
  rfl

theorem ofInt_congr {n : Nat} {x y : Int} (h : x % 2 ^ n = y % 2 ^ n) : BitVec.ofInt n x = BitVec.ofInt n y := by
  apply BitVec.eq_of_toNat_eq
  rw [BitVec.toNat_ofInt, BitVec.toNat_ofInt, natCast_two_pow, h]

/-- The lanes that `wrInt` puts into its destination: the wrapped number in its lane pair, then zeros (R57, R83). -/
theorem wrInt_eq (a : Act) (o : OpA) (x : Int) :
    a.wrInt o x = a.setTemp o.d ((intLanes o.ty (wrapInt o.ty x)).1 :: (intLanes o.ty (wrapInt o.ty x)).2 :: List.replicate 30 Lane.zero) := by
  unfold Act.wrInt intLanes
  cases h : o.ty.is64 with
  | true =>
    have hw : x % 2 ^ 64 = wrapInt o.ty x % 2 ^ 64 := by
      have hw := (wrapInt_wrapEq o.ty x).symm
      rwa [WrapEq, bits_of_is64 h] at hw
    rw [if_pos rfl, ofInt_congr hw, lanePair_ofInt]
    rfl
  | false =>
    rw [if_neg nofun, wrapT_eq_wrapInt h]
    rfl

/-- Zeros stand behind the two lanes of a scalar result. -/
theorem nth_lanes (x y : Lane) (j : Nat) : nth (x :: y :: List.replicate 30 Lane.zero) (j + 2) Lane.zero = Lane.zero := by
  simp only [nth, List.getElem?_cons_succ, List.getElem?_replicate]
  split <;> rfl

/-- A write of two lanes to a temporary, as the statements put it (R57, R83). -/
theorem setTemp_lanes {a : Act} {k : Fin 8} {ls : List Lane} {x y : Lane} (h : ls = x :: y :: List.replicate 30 Lane.zero) :
    (a.setTemp (.t k) ls).temp k.val 0 = x ∧ (a.setTemp (.t k) ls).temp k.val 1 = y ∧ ∀ j, 2 ≤ j → (a.setTemp (.t k) ls).temp k.val j = Lane.zero := by
  subst h
  simp only [temp_setTemp, if_true]
  refine ⟨rfl, rfl, fun j hj => ?_⟩
  obtain ⟨m, rfl⟩ := Nat.exists_eq_add_of_le' hj
  exact nth_lanes x y m

theorem setTemp_same (a : Act) (d : Sel) (ls : List Lane) :
    a.setTemp d ls = { a with temps := (a.setTemp d ls).temps, wrote := (a.setTemp d ls).wrote } := by cases d <;> rfl

end Sys2Proof.Machine
end

section
/-! SUPPORT. The moving words of group 1: MOV, LIT, LITH, SEL, MIN and MAX copy a source under their guard (R71, R87, R93, R96, R97). -/

namespace Sys2Proof.Machine

/-- A scalar word leaves two lanes of its destination, then zeros, and changes nothing else of its activation (R83). -/
theorem scalar_lanes {o : OpA} {k : Fin 8} {s : State} {c : Cur} {act : Act} {f : Act → Act} {x y : Lane} {ls : List Lane} (hd : o.d = .t k)
    (hg : act.guard o.pr o.pn 0 = true) (h : Runs s c act) (hf : f act = act.setTemp o.d ls) (hl : ls = x :: y :: List.replicate 30 Lane.zero) :
    ∃ t act', scalar o s f = .next t ∧ OnlyAct s t c act' ∧ act' = { act with temps := act'.temps, wrote := act'.wrote } ∧
      act'.temp k.val 0 = x ∧ act'.temp k.val 1 = y ∧ ∀ j, 2 ≤ j → act'.temp k.val j = Lane.zero := by
  obtain ⟨t, ht, ho⟩ := scalar_done f h hg (by rw [hf, setTemp_aid])
  rw [hf, hd] at ho
  exact ⟨t, _, ht, ho, setTemp_same _ _ _, setTemp_lanes hl⟩

/-- The lanes that `copy0` puts into its destination (R57, R93, R96). -/
theorem copy0_eq (a : Act) (o : OpA) (x : Sel) : a.copy0 o x = a.setTemp o.d
    (a.src o.ty o.lit x 0 :: (if o.ty.is64 then Lane.ofWord (a.src o.ty o.lit x 1).v else Lane.zero) :: List.replicate 30 Lane.zero) := by
  unfold Act.copy0
  split <;> rfl

/-- The two readings of a container of at most 32 bits agree (R57, R83). -/
theorem ival_eq_intOf {a : Act} {o : OpA} (h : o.ty.is64 = false) (x : Sel) : a.ival o x = intOf o.ty (a.src o.ty o.lit x 0).v := by
  rw [Act.ival, if_neg (by simp [h]), patInt, intOf, Nat.min_eq_left (bits_le_32 h)]

theorem is64_of_code {t : Ty} : ¬ t.code < 8 → t.is64 = false := by cases t <;> decide

theorem isFlt_of_code {t : Ty} : t.code < 8 → t.isFlt = false := by cases t <;> decide

theorem order0_of_int {a : Act} {o : OpA} (h : o.ty.code < 8) : a.order0 o = compare (a.ext4 o o.a) (a.ext4 o o.b) := by
  rw [Act.order0, if_neg (by simp [isFlt_of_code h])]

/-- Beyond the integer types the order of scalar sources is the order of lanes (R71). -/
theorem order0_of_not_int {a : Act} {o : OpA} (h : ¬ o.ty.code < 8) : a.order0 o = ordLane o.ty (a.src o.ty o.lit o.a 0) (a.src o.ty o.lit o.b 0) := by
  unfold Act.order0 Act.ext4
  split
  · rfl
  · simp only [ival_eq_intOf (is64_of_code h), ordLane, if_neg ‹¬o.ty.isFlt = true›]

/-- The word ends as a scalar word that copies source `x` (R87, R93, R96, R97). -/
def Copies (o : OpA) (s : State) (act : Act) (x : Sel) (r : Out) : Prop := ∃ f, r = scalar o s f ∧ f act = act.copy0 o x

theorem min_copies (o : OpA) (s : State) (act : Act) {x : Sel} (h : copiedFrom (.min o) act = some (o, x)) : Copies o s act x (execMin o s) := by
  refine ⟨_, rfl, congrArg (act.copy0 o) ?_⟩
  obtain ⟨-, rfl⟩ := Prod.mk.inj (Option.some.inj h)
  by_cases hc : o.ty.code < 8
  · simp only [order0_of_int hc, hc, if_true, beq_iff_eq, Int.compare_eq_gt]
    rfl
  · simp only [order0_of_not_int hc, hc, if_false, beq_iff_eq]

theorem max_copies (o : OpA) (s : State) (act : Act) {x : Sel} (h : copiedFrom (.max o) act = some (o, x)) : Copies o s act x (execMax o s) := by
  refine ⟨_, rfl, congrArg (act.copy0 o) ?_⟩
  obtain ⟨-, rfl⟩ := Prod.mk.inj (Option.some.inj h)
  by_cases hc : o.ty.code < 8
  · simp only [order0_of_int hc, hc, if_true, beq_iff_eq, Int.compare_eq_lt]
    rfl
  · simp only [order0_of_not_int hc, hc, if_false, beq_iff_eq]

theorem exec_copies {i : Instr} {o : OpA} {x : Sel} {act : Act} (s : State) (h : copiedFrom i act = some (o, x)) : Copies o s act x (exec i s) := by
  cases i with
  | mov p | lit p | sel p => cases h; exact ⟨_, rfl, rfl⟩
  | min p =>
    obtain rfl : p = o := congrArg Prod.fst (Option.some.inj h)
    exact min_copies p s act h
  | max p =>
    obtain rfl : p = o := congrArg Prod.fst (Option.some.inj h)
    exact max_copies p s act h
  | _ => cases h

/-- Settles O3: each word copies one source under its guard (`exec_copies`), and a copy's lanes are read back; the words follow from the entries' checks. -/
theorem scalarMoves : Obligations.ScalarMoves := by
  unfold Obligations.ScalarMoves
  refine ⟨fun i o k s c act hd hg h => ⟨fun x hx => ?_, ?_⟩, fun o ty => ?_⟩
  · obtain ⟨f, hi, hf⟩ := exec_copies s hx
    rw [hi]
    exact scalar_lanes hd hg h (hf.trans (copy0_eq _ _ _)) rfl
  · rintro rfl
    exact scalar_lanes hd hg h rfl rfl
  · exact ⟨fun hw ha => mov_wellFormed_of_ty ty ha hw, fun hw ha hb => sel_wellFormed_of_ty ty ha hb hw, sel_not_wellFormed,
      ⟨_, rfl, congrArg BitVec.toNat (OpA.opcode_toWord _ o)⟩, ⟨_, rfl, congrArg BitVec.toNat (OpA.opcode_toWord _ o)⟩⟩

end Sys2Proof.Machine
end

section
/-! SUPPORT. The integer words of group 1: each writes its exact result up to the wrap of its type (R85, R86, R88 to R90, R98). -/

namespace Sys2Proof.Machine

-- The results of the integer words ----------------------------------------------------------------------------------------------------------------------

/-- Quotients agree up to the wrap: the one that is too large is the least number itself (R86). -/
theorem divRem_quot_wrapEq (t : Ty) (x y : Int) : WrapEq t (divRem t x y).1 (if y = 0 then -1 else x.tdiv y) := by
  unfold divRem
  split
  · exact .refl _ _
  · split
    next hm =>
      simp only [Bool.and_eq_true, decide_eq_true_eq] at hm
      obtain ⟨⟨-, hx⟩, rfl⟩ := hm
      have hb : (2 : Int) ^ t.bits = 2 * 2 ^ (t.bits - 1) := mod_cast two_pow_bits t
      have hq : x.tdiv (-1) = x + 2 ^ t.bits := by
        rw [Int.tdiv_neg, Int.tdiv_one]
        omega
      rw [hq]
      exact (Int.add_emod_right _ _).symm
    next => exact .refl _ _

theorem divRem_rem (t : Ty) (x y : Int) : (divRem t x y).2.1 = if y = 0 then x else x.tmod y := by
  unfold divRem
  split
  · rfl
  · split
    next hm =>
      simp only [Bool.and_eq_true, decide_eq_true_eq] at hm
      obtain ⟨-, rfl⟩ := hm
      rw [Int.tmod_neg, Int.tmod_one]
    next => rfl

theorem divRem_zero (t : Ty) (x y : Int) : (divRem t x y).2.2 = (y == 0) := by
  unfold divRem
  split
  · simp [*]
  · split <;> simp [*]

theorem shiftPat_shl (t : Ty) (p k : Nat) : shiftPat t 0 p k = if k < t.bits then p * 2 ^ k % 2 ^ t.bits else 0 := rfl

theorem shiftPat_shr (t : Ty) (p k : Nat) : shiftPat t 1 p k = if k < t.bits then p / 2 ^ k else 0 := rfl

theorem shiftPat_sar (t : Ty) (p k : Nat) : shiftPat t 2 p k =
    if 2 ^ (t.bits - 1) ≤ p then p / 2 ^ min k t.bits + (2 ^ t.bits - 2 ^ (t.bits - min k t.bits)) else p / 2 ^ min k t.bits := by simp [shiftPat]

theorem shiftPat_rot (t : Ty) (p k : Nat) : shiftPat t 3 p k = p * 2 ^ (k % t.bits) % 2 ^ t.bits + p / 2 ^ (t.bits - k % t.bits) := rfl

/-- SHL drops what leaves the type (R89). -/
theorem shl_wrapEq (t : Ty) (p k : Nat) : WrapEq t (shiftPat t 0 p k) (p * 2 ^ k : Nat) := by
  refine wrapEq_natCast ?_
  rw [shiftPat_shl]
  split
  · exact Nat.mod_mod _ _
  next h =>
    have hd : 2 ^ t.bits ∣ p * 2 ^ k := Nat.dvd_mul_left_of_dvd (Nat.pow_dvd_pow 2 (Nat.le_of_not_lt h)) p
    rw [Nat.zero_mod, Nat.mod_eq_zero_of_dvd hd]

/-- A count of the width or more leaves nothing of a pattern. -/
theorem div_two_pow_min {n p : Nat} (hp : p < 2 ^ n) (k : Nat) : p / 2 ^ min k n = p / 2 ^ k := by
  by_cases h : k ≤ n
  · rw [Nat.min_eq_left h]
  · have hnk : n ≤ k := Nat.le_of_not_le h
    have hk : p < 2 ^ k := Nat.lt_of_lt_of_le hp (Nat.pow_le_pow_right (by decide) hnk)
    rw [Nat.min_eq_right hnk, Nat.div_eq_of_lt hp, Nat.div_eq_of_lt hk]

/-- SHR divides the pattern (R89). -/
theorem shr_eq (t : Ty) {p : Nat} (hp : p < 2 ^ t.bits) (k : Nat) : shiftPat t 1 p k = p / 2 ^ k := by
  rw [shiftPat_shr]
  split
  · rfl
  next h => rw [← div_two_pow_min hp k, Nat.min_eq_right (Nat.le_of_not_lt h), Nat.div_eq_of_lt hp]

theorem two_pow_split {n k : Nat} (h : k ≤ n) : (2 : Int) ^ n = 2 ^ (n - k) * 2 ^ k := by
  rw [← natCast_two_pow, ← natCast_two_pow, ← natCast_two_pow, ← Int.natCast_mul, ← Nat.pow_add, Nat.sub_add_cancel h]

/-- A negative number shifted right, by way of its pattern: a count of the width or more gives -1, as the width does. -/
theorem ediv_sub_two_pow {n p : Nat} (hp : p < 2 ^ n) (k : Nat) : ((p : Int) - 2 ^ n) / 2 ^ k = (p / 2 ^ min k n : Nat) - 2 ^ (n - min k n) := by
  by_cases h : k ≤ n
  · rw [Nat.min_eq_left h, two_pow_split h, Int.sub_mul_ediv_right _ _ (Int.ne_of_gt (two_pow_pos_int k)), Int.natCast_ediv, natCast_two_pow]
  · have hnk : n ≤ k := Nat.le_of_not_le h
    have hk : 2 ^ n ≤ 2 ^ k := Nat.pow_le_pow_right (by decide) hnk
    have cn := natCast_two_pow n
    have ck := natCast_two_pow k
    rw [Nat.min_eq_right hnk, Nat.div_eq_of_lt hp, Nat.sub_self, Int.ediv_eq_neg_one_of_neg_of_le (by omega) (by omega)]
    rfl

/-- SAR divides the signed number, rounded down (R89). -/
theorem sar_wrapEq (t : Ty) {p : Nat} (hp : p < 2 ^ t.bits) (k : Nat) :
    WrapEq t (shiftPat t 2 p k) ((if 2 ^ (t.bits - 1) ≤ p then (p : Int) - 2 ^ t.bits else p) / 2 ^ k) := by
  rw [shiftPat_sar]
  split
  · have hle : 2 ^ (t.bits - min k t.bits) ≤ 2 ^ t.bits := Nat.pow_le_pow_right (by decide) (Nat.sub_le _ _)
    have hs : ((p / 2 ^ min k t.bits + (2 ^ t.bits - 2 ^ (t.bits - min k t.bits)) : Nat) : Int) =
        (p / 2 ^ min k t.bits : Nat) - 2 ^ (t.bits - min k t.bits) + 2 ^ t.bits := by
      rw [Int.natCast_add, Int.natCast_sub hle, natCast_two_pow, natCast_two_pow]
      omega
    rw [ediv_sub_two_pow hp, hs]
    exact Int.add_emod_right _ _
  · rw [div_two_pow_min hp, Int.natCast_ediv, natCast_two_pow]
    exact .refl _ _

/-- ROT drops what leaves the type and brings it in again below (R89). -/
theorem rot_wrapEq (t : Ty) (p k : Nat) : WrapEq t (shiftPat t 3 p k) (p * 2 ^ (k % t.bits) + p / 2 ^ (t.bits - k % t.bits) : Nat) :=
  wrapEq_natCast (Nat.mod_add_mod _ _ _)

/-- The places before the first that fails a test. -/
theorem length_takeWhile_range {n m : Nat} {f : Nat → Bool} (hm : m ≤ n) (ht : ∀ j < m, f j = true) (hf : m < n → f m = false) :
    ((List.range n).takeWhile f).length = m := by
  obtain ⟨d, rfl⟩ := Nat.exists_eq_add_of_le hm
  rw [List.range_add, List.takeWhile_append_of_pos (fun j hj => ht j (List.mem_range.mp hj))]
  cases d with
  | zero => simp
  | succ d => simp [List.range_succ_eq_map, hf (by omega)]

/-- CLZ counts the zero bits from the top (R90). -/
theorem clzPat_eq {n p : Nat} (hp : p < 2 ^ n) : clzPat n p = ((List.range n).takeWhile fun j => !p.testBit (n - 1 - j)).length := by
  symm
  by_cases h0 : p = 0
  · subst h0
    exact length_takeWhile_range (Nat.le_refl n) (by simp) fun h => absurd h (Nat.lt_irrefl n)
  · have hl : p.log2 < n := (Nat.log2_lt h0).mpr hp
    rw [clzPat, if_neg h0]
    refine length_takeWhile_range (by omega) (fun j hj => ?_) (fun _ => ?_)
    · have hlt : p < 2 ^ (n - 1 - j) := (Nat.log2_lt h0).mp (by omega)
      simp [Nat.testBit_lt_two_pow hlt]
    · rw [show n - 1 - (n - 1 - p.log2) = p.log2 by omega, Nat.testBit_log2 h0]
      rfl

/-- POPC counts the bits that are set (R90). -/
theorem popPat_eq (n p : Nat) : popPat n p = ((List.range n).filter fun j => p.testBit j).length := by
  induction n generalizing p with
  | zero => rfl
  | succ n ih =>
    have ht : (fun j => p.testBit j) ∘ Nat.succ = fun j => (p / 2).testBit j := funext fun j => Nat.testBit_succ p j
    rw [popPat, ih, List.range_succ_eq_map, List.filter_cons, List.filter_map, ht, Nat.testBit_zero]
    obtain h | h := Nat.mod_two_eq_zero_or_one p <;> simp [h, Nat.add_comm]

-- Integer words -----------------------------------------------------------------------------------------------------------------------------------------

theorem pat_lt (a : Act) (o : OpA) (x : Sel) : a.pat o x < 2 ^ o.ty.bits := patOf_lt _ _

/-- The word ends as a scalar word that writes an integer, `y` up to the wrap of its type, and sets XS where `z` says so. -/
def Computes (o : OpA) (s : State) (act : Act) (y : Int) (z : Bool) (r : Out) : Prop :=
  ∃ f x, r = scalar o s f ∧ f act = (act.wrInt o x).raise { dbz := z } ∧ WrapEq o.ty x y

section
variable {o : OpA} {s : State} {act : Act}

theorem raise_nothing (a : Act) : a.raise { dbz := false } = a := by simp [Act.raise, Exc.any]

/-- A word that writes a number and raises nothing. -/
theorem computes_wrInt {f : Act → Act} {x y : Int} (hf : f act = act.wrInt o x) (hx : WrapEq o.ty x y) : Computes o s act y false (scalar o s f) :=
  ⟨f, x, rfl, by rw [hf, raise_nothing], hx⟩

/-- A word that writes a pattern. -/
theorem computes_wrPat {f : Act → Act} {p : Nat} {y : Int} (hf : f act = act.wrPat o p) (hp : WrapEq o.ty p y) :
    Computes o s act y false (scalar o s f) :=
  computes_wrInt hf ((patInt_wrapEq _ _).trans hp)

theorem computes_wrPat_eq {f : Act → Act} {p q : Nat} (hf : f act = act.wrPat o p) (hp : p = q) : Computes o s act q false (scalar o s f) :=
  computes_wrPat hf (hp ▸ .refl _ _)

/-- ADD, SUB and MUL on integers (R85). -/
theorem arith_computes (fi : Int → Int → Int) (ff : Val → Val → Val × Exc) (ht : o.ty.code < 8) :
    Computes o s act (fi (act.ival o o.a) (act.ival o o.b)) false (arith o s fi ff) :=
  computes_wrInt (if_neg (by simp [isFlt_of_code ht])) (.refl _ _)

theorem add_computes (ht : o.ty.code < 8) : Computes o s act (act.ival o o.a + act.ival o o.b) false (execAdd o s) := arith_computes (· + ·) vadd ht

theorem sub_computes (ht : o.ty.code < 8) : Computes o s act (act.ival o o.a - act.ival o o.b) false (execSub o s) := arith_computes (· - ·) _ ht

theorem mul_computes (ht : o.ty.code < 8) : Computes o s act (act.ival o o.a * act.ival o o.b) false (execMul o s) := arith_computes (· * ·) vmul ht

theorem div_computes : Computes o s act (if act.ival o o.b = 0 then -1 else (act.ival o o.a).tdiv (act.ival o o.b)) (act.ival o o.b == 0) (execDiv o s) :=
  ⟨_, _, rfl, congrArg (fun z => (act.wrInt o _).raise { dbz := z }) (divRem_zero _ _ _), divRem_quot_wrapEq _ _ _⟩

theorem rem_computes : Computes o s act (if act.ival o o.b = 0 then act.ival o o.a else (act.ival o o.a).tmod (act.ival o o.b)) (act.ival o o.b == 0) (execRem o s) :=
  ⟨_, _, rfl, congrArg (fun z => (act.wrInt o _).raise { dbz := z }) (divRem_zero _ _ _), divRem_rem _ _ _ ▸ .refl _ _⟩

/-- ANDN takes the complement within the type (R88). -/
theorem andn_computes : Computes o s act (act.pat o o.a &&& (2 ^ o.ty.bits - 1 - act.pat o o.b) : Nat) false (execAndn o s) := by
  refine computes_wrPat_eq rfl ?_
  rw [patNot, Nat.mod_eq_of_lt (pat_lt act o o.b)]

theorem clz_computes : Computes o s act ((List.range o.ty.bits).takeWhile fun j => !(act.pat o o.a).testBit (o.ty.bits - 1 - j)).length false (execClz o s) :=
  computes_wrPat_eq rfl (clzPat_eq (pat_lt _ _ _))

theorem popc_computes : Computes o s act ((List.range o.ty.bits).filter fun j => (act.pat o o.a).testBit j).length false (execPopc o s) :=
  computes_wrPat_eq rfl (popPat_eq _ _)

/-- LEA without the GPA form (R98). -/
theorem lea_computes (hf : o.fn = 0) : Computes o s act (act.ival o o.a + act.ival o o.b * 2 ^ o.ka.toNat + o.lit.toInt) false (execLea o s) := by
  rw [Int.add_assoc]
  exact computes_wrInt (if_pos (by simp [hf])) (.refl _ _)

end

/-- An integer word of group 1 computes its exact result (R85, R86, R88 to R90, R98). -/
theorem exec_computes {i : Instr} {o : OpA} {y : Int} {z : Bool} {act : Act} (s : State) (hi : intResult i act = some (o, y, z)) (ht : o.ty.code < 8) :
    Computes o s act y z (exec i s) := by
  cases i with
  | add p => cases hi; exact add_computes ht
  | sub p => cases hi; exact sub_computes ht
  | mul p => cases hi; exact mul_computes ht
  | mulh p => cases hi; exact computes_wrInt rfl (.refl _ _)
  | div p => cases hi; exact div_computes
  | rem p => cases hi; exact rem_computes
  | and p | or p | xor p => cases hi; exact computes_wrPat rfl (.refl _ _)
  | andn p => cases hi; exact andn_computes
  | shl p => cases hi; exact computes_wrPat rfl (shl_wrapEq _ _ _)
  | shr p => cases hi; exact computes_wrPat_eq rfl (shr_eq _ (pat_lt _ _ _) _)
  | sar p => cases hi; exact computes_wrPat rfl (sar_wrapEq _ (pat_lt _ _ _) _)
  | rot p => cases hi; exact computes_wrPat rfl (rot_wrapEq _ _ _)
  | clz p => cases hi; exact clz_computes
  | popc p => cases hi; exact popc_computes
  | lea p =>
    obtain ⟨hf, he⟩ := Option.ite_none_right_eq_some.mp hi
    cases he
    exact lea_computes hf
  | _ => cases hi

theorem raise_temp (a : Act) (x : Exc) (r j : Nat) : (a.raise x).temp r j = a.temp r j := rfl

/-- A scalar integer word gives the exact result wrapped, in its lanes (R57, R64, R83). -/
theorem scalarGives_of_computes {i : Instr} {o : OpA} {k : Fin 8} {s : State} {c : Cur} {act : Act} {y : Int} {z : Bool} (hd : o.d = .t k)
    (hg : act.guard o.pr o.pn 0 = true) (h : Runs s c act) (hc : Computes o s act y z (exec i s)) : ScalarGives i o k s c act z (WrapsTo o.ty y) := by
  obtain ⟨f, x, hi, hf, hx⟩ := hc
  rw [wrInt_eq, hd] at hf
  obtain ⟨t, ht, ho⟩ := scalar_done f h hg (by rw [hf]; exact setTemp_aid _ _ _)
  obtain ⟨h0, h1, h2⟩ := setTemp_lanes (a := act) (k := k) (x := (intLanes o.ty (wrapInt o.ty x)).1) rfl
  refine ⟨t, f act, hi.trans ht, ho, ?_, wrapInt o.ty x, wrapsTo_wrapInt hx, ?_, fun j hj => ?_⟩
  · rw [hf]
    simp [Act.raise, Act.setTemp, Exc.any]
  · rw [hf, raise_temp, raise_temp, h0, h1]
  · rw [hf, raise_temp, h2 j hj]

/-- A scalar integer word without a destination changes nothing but XS (R86). -/
theorem onlyXs_of_computes {i : Instr} {o : OpA} {s : State} {c : Cur} {act : Act} {y : Int} {z : Bool} (hd : o.d = .z)
    (hg : act.guard o.pr o.pn 0 = true) (h : Runs s c act) (hc : Computes o s act y z (exec i s)) :
    ∃ t, exec i s = .next t ∧ OnlyAct s t c { act with xs := act.xs || z } := by
  obtain ⟨f, x, hi, hf, -⟩ := hc
  have hf' : f act = { act with xs := act.xs || z } := by
    rw [hf, wrInt_eq, hd]
    simp [Act.raise, Act.setTemp, Exc.any]
  obtain ⟨t, ht, ho⟩ := scalar_done f h hg (by rw [hf'])
  exact ⟨t, hi.trans ht, hf' ▸ ho⟩

/-- Settles O2: each word writes a number that is its exact result up to the wrap (`exec_computes`), and `wrInt` puts the wrapped number into the lanes. -/
theorem scalarIntegers : Obligations.ScalarIntegers := by
  unfold Obligations.ScalarIntegers
  refine ⟨fun i o y z k s c act hi ht hd hg h => scalarGives_of_computes hd hg h (exec_computes s hi ht),
    fun i o y z s c act hi ht hd hg h => onlyXs_of_computes hd hg h (exec_computes s hi ht), fun i o n hi hw => ?_⟩
  obtain ⟨D, hs, hu, hD⟩ := intWord_shape hi
  obtain ⟨hn, he⟩ := encode_intWord hi
  have hint : o.ty.isInt = true := hD ▸ tys_of_wellFormed hs hu hw
  refine ⟨of_decide_eq_true hint, _, he, ?_⟩
  rw [OpA.opcode_toWord, BitVec.toNat_ofNat, Nat.mod_eq_of_lt hn]

end Sys2Proof.Machine
end

section
/-! SUPPORT. COLR: what width it grants, and what it leaves of its activation (R53, R113). -/

namespace Sys2Proof.Machine

-- The width granted -------------------------------------------------------------------------------------------------------------------------------------

/-- The request and the context's limit, as COLR bounds the width by them (R113). -/
def widthBound (q lmax : Nat) : Nat := min (min (max q 1) 32) (2 ^ lmax)

theorem grantWidth_eq (q lmax : Nat) : grantWidth q lmax = 2 ^ Nat.log2 (widthBound q lmax) := rfl

theorem widthBound_ne_zero (q lmax : Nat) : widthBound q lmax ≠ 0 := by
  have hl : 0 < 2 ^ lmax := Nat.two_pow_pos lmax
  unfold widthBound
  omega

theorem le_widthBound_iff {n q lmax : Nat} : n ≤ widthBound q lmax ↔ n ≤ max 1 q ∧ n ≤ 32 ∧ n ≤ 2 ^ lmax := by
  rw [widthBound, Nat.le_min, Nat.le_min, Nat.max_comm, and_assoc]

theorem grantWidth_le (q lmax : Nat) : grantWidth q lmax ≤ max 1 q ∧ grantWidth q lmax ≤ 32 ∧ grantWidth q lmax ≤ 2 ^ lmax :=
  le_widthBound_iff.mp (Nat.log2_self_le (widthBound_ne_zero q lmax))

/-- No greater power of two keeps the bounds. -/
theorem two_pow_le_grantWidth {b q lmax : Nat} (hq : 2 ^ b ≤ max 1 q) (h32 : 2 ^ b ≤ 32) (hl : 2 ^ b ≤ 2 ^ lmax) : 2 ^ b ≤ grantWidth q lmax :=
  Nat.pow_le_pow_right Nat.two_pos ((Nat.le_log2 (widthBound_ne_zero q lmax)).mpr (le_widthBound_iff.mpr ⟨hq, h32, hl⟩))

-- The activation that COLR leaves -----------------------------------------------------------------------------------------------------------------------

/-- The activation that COLR leaves, where the context's lane maximum is `2 ^ lmax` (R113). -/
def colrAct (o : OpA) (lmax : Nat) (a : Act) : Act :=
  if a.guard o.pr o.pn 0 then
    { a.setTemp o.d (lane0 (Lane.ofWord (BitVec.ofNat 32 (grantWidth (a.src o.ty o.lit o.a 0).v.toNat lmax)))) with
      width := grantWidth (a.src o.ty o.lit o.a 0).v.toNat lmax }
  else a

theorem execColr_eq (o : OpA) (s : State) : execColr o s = runPure s fun s e a => colrAct o (s.ctx e a.ctx).lmax a := rfl

section
variable {o : OpA} {lmax : Nat} {a : Act}

theorem colrAct_false (hg : a.guard o.pr o.pn 0 = false) : colrAct o lmax a = a := by simp [colrAct, hg]

theorem colrAct_true (hg : a.guard o.pr o.pn 0 = true) : colrAct o lmax a =
    { a.setTemp o.d (lane0 (Lane.ofWord (BitVec.ofNat 32 (grantWidth (a.src o.ty o.lit o.a 0).v.toNat lmax)))) with
      width := grantWidth (a.src o.ty o.lit o.a 0).v.toNat lmax } := if_pos hg

theorem colrAct_aid : (colrAct o lmax a).aid = a.aid := by
  cases hg : a.guard o.pr o.pn 0 with
  | false => rw [colrAct_false hg]
  | true => rw [colrAct_true hg]; exact setTemp_aid _ _ _

theorem colrAct_width (hg : a.guard o.pr o.pn 0 = true) : (colrAct o lmax a).width = grantWidth (a.src o.ty o.lit o.a 0).v.toNat lmax := by
  rw [colrAct_true hg]

/-- A granted width changes the destination, the note of the lanes written and W, and nothing else. -/
theorem colrAct_same (hg : a.guard o.pr o.pn 0 = true) :
    colrAct o lmax a = { a with temps := (colrAct o lmax a).temps, wrote := (colrAct o lmax a).wrote, width := (colrAct o lmax a).width } := by
  rw [colrAct_true hg]
  exact congrArg (fun b : Act => { b with width := grantWidth (a.src o.ty o.lit o.a 0).v.toNat lmax }) (setTemp_same a o.d _)

/-- Lane 0 of the destination holds the new W, and zeros stand behind it. -/
theorem colrAct_temp {k : Fin 8} (hd : o.d = .t k) (hg : a.guard o.pr o.pn 0 = true) :
    (colrAct o lmax a).temp k.val 0 = Lane.ofWord (BitVec.ofNat 32 (colrAct o lmax a).width) ∧ ∀ j, 1 ≤ j → (colrAct o lmax a).temp k.val j = Lane.zero := by
  rw [colrAct_width hg, colrAct_true hg, hd]
  obtain ⟨h0, h1, h2⟩ := setTemp_lanes (a := a) (k := k) (ls := lane0 (Lane.ofWord (BitVec.ofNat 32 (grantWidth (a.src o.ty o.lit o.a 0).v.toNat lmax)))) rfl
  refine ⟨h0, fun j hj => ?_⟩
  obtain rfl | hj2 := Nat.eq_or_lt_of_le hj
  · exact h1
  · exact h2 j hj2

end

theorem colr_leaves_colrAct (o : OpA) {s : State} {c : Cur} {act : Act} (h : Runs s c act) :
    ∃ t, exec (.colr o) s = .next t ∧ OnlyAct s t c (colrAct o (s.ctx c.elem act.ctx).lmax act) := by
  rw [exec_colr, execColr_eq]
  exact runPure_done _ h colrAct_aid

/-- Settles O6: COLR leaves `colrAct`, whose width is the power of two below the least bound (`grantWidth_le`, `two_pow_le_grantWidth`). -/
theorem colrGrantsWidth : Obligations.ColrGrantsWidth := by
  unfold Obligations.ColrGrantsWidth
  intro o k s c act hd h
  obtain ⟨t, ht, ho⟩ := colr_leaves_colrAct o h
  refine ⟨t, _, ht, ho, colrAct_false, fun hg => ⟨colrAct_same hg, ?_⟩⟩
  obtain ⟨hlane, hzero⟩ := colrAct_temp (lmax := (s.ctx c.elem act.ctx).lmax) hd hg
  obtain ⟨hq, h32, hl⟩ := grantWidth_le (act.src o.ty o.lit o.a 0).v.toNat (s.ctx c.elem act.ctx).lmax
  refine ⟨?_, ?_, ?_, ?_, ?_, hlane, hzero⟩ <;> rw [colrAct_width hg]
  · exact ⟨_, grantWidth_eq _ _⟩
  · exact hq
  · exact h32
  · exact hl
  · exact fun b => two_pow_le_grantWidth

end Sys2Proof.Machine
end
